-- ==== Sys2Proof/Word.lean ====
section
/-!
DEFINITION. The word types of Spauno (R2: bit 0 is the least significant bit, multi-byte values are
little-endian). Every value that software can see as bits is a bit vector.
-/
namespace Sys2Proof

/-- A 32-bit register value (R71, R76). -/
abbrev Word := BitVec 32

/-- A 64-bit word: an instruction word, a header, a register pair, a global address (R162, R70, R88). -/
abbrev DWord := BitVec 64

/-- A byte of memory. -/
abbrev Byte := BitVec 8

end Sys2Proof
end

