-- ==== Sys2Proof/Syntax.lean ====
section
/-!
DEFINITION. The instructions and events of the K2: one constructor for each row of the table of
operations. An instruction word keeps every field of its layout (R168, R169, R171); a literal word is
an argument of the word that calls for it (R170). A hardware event carries what names the place where
it happens: `team` is the key 32 x core + position of a resident team (R311), `bundle` an index into
its bundles, `thread` a linear thread index (R21), `fn` a function (0 to 63 the virtual functions, 64
the physical function, R322), `e` a 64-byte command ring entry (R323).
-/
namespace Sys2Proof

/-- The fields of an R-format word below its opcode (R168). -/
structure RWord where
  /-- [55:45] destination operand number -/
  d : BitVec 11
  /-- [44:34] first source -/
  a : BitVec 11
  /-- [33:23] second source -/
  b : BitVec 11
  /-- [22:12] third source or control field -/
  c : BitVec 11
  /-- [11] the word is guarded -/
  g : Bool
  /-- [10] the guard passes where the predicate is 0 -/
  n : Bool
  /-- [9:3] guard predicate -/
  p : BitVec 7
  /-- [2] SETB instead of SETA (R140) -/
  f : Bool
  /-- [1:0] opcode-specific -/
  m : BitVec 2
  deriving DecidableEq, Repr, Inhabited

/-- The fields of an I-form word below its opcode (R169). -/
structure IWord where
  d : BitVec 11
  a : BitVec 11
  /-- [33:12], sign-extended where it is used -/
  imm : BitVec 22
  g : Bool
  n : Bool
  p : BitVec 7
  f : Bool
  m : BitVec 2
  deriving DecidableEq, Repr, Inhabited

/-- The fields of an M-format word below its opcode (R171). -/
structure MWord where
  d : BitVec 11
  a : BitVec 11
  /-- [33:30] view register, or scope -/
  xf : BitVec 4
  /-- [29:28] address space -/
  space : BitVec 2
  /-- [27:25] access size -/
  size : BitVec 3
  /-- [24] sign-extend -/
  sx : Bool
  /-- [23:22] retention hint (R95) -/
  hint : BitVec 2
  /-- [21:12] signed, scaled by the access unit -/
  offset : BitVec 10
  g : Bool
  n : Bool
  p : BitVec 7
  f : Bool
  m : BitVec 2
  deriving DecidableEq, Repr, Inhabited

/-- An access of the host to memory: a read of some bytes, or a write of these (R351). -/
inductive HostAccess where
  | read (bytes : Nat)
  | write (data : List (BitVec 8))
  deriving DecidableEq, Repr, Inhabited

/-- How many bytes a host access takes. -/
def HostAccess.bytes : HostAccess → Nat
  | .read n => n
  | .write bs => bs.length

/-- What a host access writes. -/
def HostAccess.data : HostAccess → Option (List (BitVec 8))
  | .read _ => none
  | .write bs => some bs

/-- One row of the table of operations each. -/
inductive Instr where
  /-- NOP (R181). Does nothing; only the guard fields are checked. -/
  | nop (w : RWord)
  /-- MOV (R181). Copies a source into the destination and copies its tag too. -/
  | mov (w : RWord)
  /-- MOVI (R181). Writes a sign-extended 22-bit immediate with a clear tag. -/
  | movi (w : IWord)
  /-- MOVW (R181). Writes a 32-bit or 64-bit literal word into a register or a register pair. -/
  | movw (w : RWord) (lit : BitVec 64)
  /-- MOVS (R181). Copies a uniform pair, a 64-bit special register or an inline constant into a pair. -/
  | movs (w : RWord)
  /-- MOVX (R182). Reads a vector register chosen by base plus a per-lane index, with bounds checks. -/
  | movx (w : RWord)
  /-- MOVXS (R182). Writes a vector register chosen by base plus a per-lane index, with bounds checks. -/
  | movxs (w : RWord)
  /-- UBCAST (R183). Broadcasts one lane's value to the whole group; convergent. -/
  | ubcast (w : RWord)
  /-- LANEX (R184). Exchanges values between lanes of the group in idx, xor, up or down mode; convergent. -/
  | lanex (w : RWord)
  /-- SEL (R185). Selects one of two sources per lane according to a selector. -/
  | sel (w : RWord)
  /-- BYSEL (R185). Builds each result byte from byte fields taken from two sources. -/
  | bysel (w : RWord)
  /-- IADD (R186). 32-bit integer add, modulo 2^32. -/
  | iadd (w : RWord)
  /-- ISUB (R186). 32-bit integer subtract. -/
  | isub (w : RWord)
  /-- IMUL (R186). Low 32 bits of an integer product. -/
  | imul (w : RWord)
  /-- IMULH (R186). High 32 bits of a signed or unsigned product. -/
  | imulh (w : RWord)
  /-- IMAD (R186). Integer multiply-add, modulo 2^32. -/
  | imad (w : RWord)
  /-- IDIV (R187). Integer division that is defined for every operand pair and never traps. -/
  | idiv (w : RWord)
  /-- IREM (R187). Integer remainder that is defined for every operand pair. -/
  | irem (w : RWord)
  /-- IMIN (R186). Signed or unsigned integer minimum. -/
  | imin (w : RWord)
  /-- IMAX (R186). Signed or unsigned integer maximum. -/
  | imax (w : RWord)
  /-- IABS (R186). Integer absolute value. -/
  | iabs (w : RWord)
  /-- INEG (R186). Integer negation. -/
  | ineg (w : RWord)
  /-- LEA (R188). Forms a 64-bit address from a pair plus a shifted index. -/
  | lea (w : RWord)
  /-- IADDC (R189). Adds or subtracts with a carry or borrow held in a predicate. -/
  | iaddc (w : RWord)
  /-- AND (R190). Bitwise AND. -/
  | and (w : RWord)
  /-- OR (R190). Bitwise OR. -/
  | or (w : RWord)
  /-- XOR (R190). Bitwise XOR. -/
  | xor (w : RWord)
  /-- ANDN (R190). Bitwise a AND NOT b. -/
  | andn (w : RWord)
  /-- BITF3 (R191). Computes a per-bit function of a, b and the old D from an 8-bit table. -/
  | bitf3 (w : RWord)
  /-- SHL (R190). Shifts left. -/
  | shl (w : RWord)
  /-- SHR (R190). Shifts right, logical or arithmetic. -/
  | shr (w : RWord)
  /-- ROT (R190). Rotates left or right. -/
  | rot (w : RWord)
  /-- BFX (R192). Extracts a bit field, signed or unsigned. -/
  | bfx (w : RWord)
  /-- BFI (R192). Inserts a bit field. -/
  | bfi (w : RWord)
  /-- POPC (R190). Counts the set bits. -/
  | popc (w : RWord)
  /-- CLZ (R190). Counts the leading zeros. -/
  | clz (w : RWord)
  /-- BREV (R190). Reverses the bit order. -/
  | brev (w : RWord)
  /-- ICMP (R193). Integer compare under a condition code; writes 1 or 0. -/
  | icmp (w : RWord)
  /-- PLOP (R194). Combines predicates through a lookup table. -/
  | plop (w : RWord)
  /-- PMOV (R195). Moves 32 predicates to or from a register. -/
  | pmov (w : RWord)
  /-- PVOTE (R196). All, any or ballot vote over the group; convergent. -/
  | pvote (w : RWord)
  /-- ELECT (R197). Writes 1 in the lowest-numbered active lane of the bundle and 0 in the others. -/
  | elect (w : RWord)
  /-- BRA (R198). Relative branch to a clause header. -/
  | bra (w : IWord)
  /-- BRX (R198). Indexed branch whose target is a regroup point. -/
  | brx (w : RWord)
  /-- JMP (R198). Jumps to the address held in a pair. -/
  | jmp (w : RWord)
  /-- CALL (R198). Relative call that writes the return address into a pair. -/
  | call (w : IWord)
  /-- RET (R198). Returns to the address held in a pair. -/
  | ret (w : RWord)
  /-- EXIT (R200). Ends the active lanes' threads at the end of the clause. -/
  | exit (w : RWord)
  /-- REGRP (R198). Continues at the next clause as a regroup point. -/
  | regrp (w : RWord)
  /-- FADD (R202). Floating add, rounded once. -/
  | fadd (w : RWord)
  /-- FSUB (R202). Floating subtract. -/
  | fsub (w : RWord)
  /-- FMUL (R202). Floating multiply. -/
  | fmul (w : RWord)
  /-- FFMA (R202). Fused multiply-add, rounded once. -/
  | ffma (w : RWord)
  /-- FMIN (R203). Floating minimum that treats a NaN as a missing operand. -/
  | fmin (w : RWord)
  /-- FMAX (R203). Floating maximum that treats a NaN as a missing operand. -/
  | fmax (w : RWord)
  /-- FABS (R202). Clears the sign bit. -/
  | fabs (w : RWord)
  /-- FNEG (R202). Inverts the sign bit. -/
  | fneg (w : RWord)
  /-- FCMP (R206). FP32 compare under a condition code. -/
  | fcmp (w : RWord)
  /-- FCLASS (R207). Tests the class of an FP32 value against a mask. -/
  | fclass (w : RWord)
  /-- FRND (R204). Rounds to an integral value in the chosen mode. -/
  | frnd (w : RWord)
  /-- FRCP (R205). Correctly rounded reciprocal. -/
  | frcp (w : RWord)
  /-- FRSQ (R205). Reciprocal square root. -/
  | frsq (w : RWord)
  /-- FSQRT (R205). Correctly rounded square root. -/
  | fsqrt (w : RWord)
  /-- FEXP2 (R205). Base-2 exponential. -/
  | fexp2 (w : RWord)
  /-- FLOG2 (R205). Base-2 logarithm. -/
  | flog2 (w : RWord)
  /-- FSIN (R205). Sine. -/
  | fsin (w : RWord)
  /-- FCOS (R205). Cosine. -/
  | fcos (w : RWord)
  /-- FDIV (R202). Correctly rounded FP32 division. -/
  | fdiv (w : RWord)
  /-- CVT (R208). Converts elements between formats under a scale, a rounding mode and a part. -/
  | cvt (w : RWord)
  /-- RQNT (R211). Moves four byte elements to a new scale exponent. -/
  | rqnt (w : RWord)
  /-- REDG (R213). Group reduction over a fixed tree; convergent. -/
  | redg (w : RWord)
  /-- SCANG (R213). Inclusive group scan over a fixed tree; convergent. -/
  | scang (w : RWord)
  /-- ADMIT (R214). Copies a value and clears its bounded tag. -/
  | admitWord (w : RWord)
  /-- BTAG (R215). Reads the bounded tag, or sets it. -/
  | btag (w : RWord)
  /-- BSMAX (R212). Computes the smallest fitting scale exponent and keeps a running maximum. -/
  | bsmax (w : RWord)
  /-- MMA (R219). Multiplies fragments and accumulates into a tile. -/
  | mma (w : RWord)
  /-- MMAZ (R219). Multiplies fragments into a tile starting from zero. -/
  | mmaz (w : RWord)
  /-- MLDA (R222). Loads a tile from a register image. -/
  | mlda (w : RWord)
  /-- MSTA (R222). Stores a tile into a register image. -/
  | msta (w : RWord)
  /-- MZERO (R222). Zeroes a tile and clears its tag. -/
  | mzero (w : RWord)
  /-- MROW (R224). Row maximum or row sum over the first ncol columns of a tile. -/
  | mrow (w : RWord)
  /-- MAPPLY (R224). Applies a row vector to a tile by exp2sub, sub or add. -/
  | mapply (w : RWord)
  /-- MSCALE (R224). Scales each tile row by a row vector or a scalar. -/
  | mscale (w : RWord)
  /-- XMV (R225). Projects scratch records through a view at a plinth into registers or a tile. -/
  | xmv (w : RWord)
  /-- MLDS (R222). Loads a tile from 4 KiB of scratch. -/
  | mlds (w : RWord)
  /-- MSTS (R222). Stores a tile into 4 KiB of scratch. -/
  | msts (w : RWord)
  /-- LD (R228). Loads from global or scratch memory: plain, acquire or relaxed atomic. -/
  | ld (w : MWord)
  /-- LDV (R235). Projected load of latent records through a view register. -/
  | ldv (w : MWord)
  /-- ST (R229). Stores to global or scratch memory; traps on tagged data. -/
  | st (w : MWord)
  /-- STB (R229). Stores that accept tagged data. -/
  | stb (w : MWord)
  /-- LDL6 (R230). Loads a packed group of sixteen L6 elements into register form. -/
  | ldl6 (w : MWord)
  /-- STL6 (R230). Stores sixteen register-form L6 elements in packed form. -/
  | stl6 (w : MWord)
  /-- ATOM (R232). Atomic read-modify-write that returns the old value. -/
  | atom (w : RWord)
  /-- RED (R232). Atomic reduction without a return value. -/
  | red (w : RWord)
  /-- CAS (R232). Compare and swap. -/
  | cas (w : RWord)
  /-- LDVA (R237). Projects latent records through a view into scratch rows; counted on c1. -/
  | ldva (w : RWord)
  /-- VSET (R234). Captures a view descriptor, its generation and CSTART into a view register. -/
  | vset (w : RWord)
  /-- VPUB (R240). Releases, increments GEN and withdraws the older generation at the plinths. -/
  | vpub (w : RWord)
  /-- VINV (R241). Discards view cache entries, and with .x erases the arrays. -/
  | vinv (w : RWord)
  /-- VSTAT (R242). Reads the status or the generation of a view register. -/
  | vstat (w : RWord)
  /-- PREF (R243). Prefetches a line into L2, or also into L1, without faulting. -/
  | pref (w : RWord)
  /-- CFLUSH (R244). Writes back a dirty line, optionally invalidating it. -/
  | cflush (w : RWord)
  /-- CINV (R245). Discards L1 copies of one line or of all lines. -/
  | cinv (w : RWord)
  /-- WMASK (R246). Sets the team's scratch size and returns the size in force. -/
  | wmask (w : RWord)
  /-- MONW (R247). Arms a monitor on a line and loads a word. -/
  | monw (w : RWord)
  /-- WAITM (R248). Waits for a monitor write or for a bound. -/
  | waitm (w : RWord)
  /-- BAR (R251). Team or launch barrier arrival of a whole group; convergent. -/
  | bar (w : RWord)
  /-- BARA (R252). Arrives at a barrier object per lane; an overrun is refused with trap 0x18. -/
  | bara (w : RWord)
  /-- BARW (R252). Waits for a barrier object's phase to change, or for a bound. -/
  | barw (w : RWord)
  /-- BARI (R252). Initialises a barrier object with its expected count. -/
  | bari (w : RWord)
  /-- FENCE (R253). Release and/or acquire fence at a scope. -/
  | fence (w : RWord)
  /-- WAITC (R254). Waits until an outstanding-operation counter is at most k. -/
  | waitc (w : RWord)
  /-- SLEEP (R255). Holds the bundle for imm cycles. -/
  | sleep (w : IWord)
  /-- CPY (R256). Starts an engine copy between global and scratch memory; counted on c0. -/
  | cpy (w : RWord)
  /-- CPYC (R257). Starts an engine copy into the next slot of a circular buffer. -/
  | cpyc (w : RWord)
  /-- CBDEF (R258). Defines a circular buffer. -/
  | cbdef (w : RWord)
  /-- CBACQ (R258). Acquires the next filled slot of a circular buffer. -/
  | cbacq (w : RWord)
  /-- CBREL (R258). Releases the oldest acquired slot. -/
  | cbrel (w : RWord)
  /-- QLEN (R259). Reads the state of a circular buffer or the count of a queue port. -/
  | qlen (w : RWord)
  /-- XPROG (R260). Programs a view into crossbar arrays; counted on c2. -/
  | xprog (w : RWord)
  /-- XCAL (R260). Asks for recalibration of a view's arrays; counted on c2. -/
  | xcal (w : RWord)
  /-- XSTAT (R261). Reads the crossbar status of a view, or of one array. -/
  | xstat (w : RWord)
  /-- FLINK (R262). Adds a joining step after the tail of a flight. -/
  | flink (w : RWord)
  /-- FCUT (R262). Makes a flight step leaving. -/
  | fcut (w : RWord)
  /-- FSWAP (R262). Joins a new step, then cuts the old one. -/
  | fswap (w : RWord)
  /-- FSTAT (R262). Reads a flight's STEPS or COPYPOS. -/
  | fstat (w : RWord)
  /-- CALLX (R264). Sends a group call record to the die's service queue; convergent. -/
  | callx (w : RWord)
  /-- TRAP (R265). Raises the software trap 0x20. -/
  | trap (w : IWord)
  /-- YIELD (R266). Yield point that names the live state for an annotated save. -/
  | yield (w : RWord) (lit1 lit2 : BitVec 64)
  /-- TRET (R267). Returns from the handler and resumes the halted team. -/
  | tret (w : RWord)
  /-- CLAUSE_FETCH (R164). The first bundle reaching a clause address fetches and checks the clause. -/
  | clauseFetch (team bundle : Nat)
  /-- CLAUSE_START (R295). An alcove chooses a ready bundle and starts its clause. -/
  | clauseStart (core alcove : Nat) (threads : List Nat)
  /-- COUNTED_WORD_COMPLETION (R140). A long-latency word completes: its destinations are written and its flags fall. -/
  | countedWordCompletion (id : Nat) (threads : List Nat)
  /-- CONVERGENCE_TRAP (R31). The core detects a convergence deadlock in a group and raises trap 0x05. -/
  | convergenceTrap (team group : Nat)
  /-- ENGINE_OPERATION_RETIREMENT (R145). An engine operation retires in issue order and its c0-c3 counter falls. -/
  | engineOperationRetirement (team group cls : Nat)
  /-- COPY_UNIT_TRANSFER (R256). The copy engine moves 16-byte units, translating and pinning the global side. -/
  | copyUnitTransfer (op lane unit : Nat)
  /-- CPYC_SLOT_RESERVE (R113). A waiting CPYC lane reserves a slot once one frees. -/
  | cpycSlotReserve (op lane : Nat)
  /-- CPYC_SLOT_FILLED (R113). A CPYC copy completes; done slots move from RESV to FILLED in slot order. -/
  | cpycSlotFilled (op lane : Nat)
  /-- VIEW_PROJECTION (R235). A plinth serves a projection request on its crossbar arrays or its digital unit. -/
  | viewProjection (id lane : Nat) (deviations : List Nat)
  /-- RECALIBRATION (R317). The control core retrims drifting arrays and posts a KIND 3 notice. -/
  | recalibration (die plinth array : Nat) (within : Bool)
  /-- ARRAY_PROGRAMMING_COMPLETE (R100). Programming of a plinth's arrays ends, and the arrays become resident. -/
  | arrayProgrammingComplete (op plinth : Nat)
  /-- ARRAY_RETIREMENT (R137). Firmware retires an array at its endurance limit and re-places its view. -/
  | arrayRetirement (die plinth array : Nat)
  /-- VPUB_MARKING_ARRIVAL (R240). VPUB's marking reaches a plinth and withdraws the arrays of older generations. -/
  | vpubMarkingArrival (id plinth : Nat)
  /-- VIEW_CACHE_ENTRY_DISCARD (R99). Marked entries are discarded once no request of their generation is in flight. -/
  | viewCacheEntryDiscard (plinth line gen : Nat)
  /-- CHAIN_STORE_APPLY (R133). A chained store arrives at a step, is applied there and forwarded through the landing buffer. -/
  | chainStoreApply (die flight : Nat)
  /-- TAIL_ACKNOWLEDGEMENT (R102). The tail acknowledgement passes a step, cleans the line and reaches the issuer. -/
  | tailAcknowledgement (flight store : Nat)
  /-- DIRTY_LINE_QUERY (R344). A load of a dirty chained line queries the tail, and the tail's answer is returned. -/
  | dirtyLineQuery (id thread : Nat)
  /-- JOIN_COPY (R133). The chain engine copies page map entries from the tail to the joining step and advances COPYPOS. -/
  | joinCopy (flight : Nat)
  /-- JOIN_COMPLETION (R133). COPYPOS reaches NPAGE; the joining step becomes serving and the tail. -/
  | joinCompletion (flight : Nat)
  /-- DRAIN_COMPLETION (R133). A leaving step has drained and is removed, and its frames are freed. -/
  | drainCompletion (flight : Nat)
  /-- STORE_COMMIT (R283). A slice commits a buffered store, or strands it after a recheck of the page. -/
  | storeCommit (store : Nat)
  /-- MONITOR_WAKE (R248). A write recorded on an armed monitor ends a WAITM with status 0. -/
  | monitorWake (team bundle : Nat)
  /-- WAITM_BOUND_EXPIRY (R248). The WAITM bound passes with no write recorded; status 1. -/
  | waitmBoundExpiry (team bundle : Nat)
  /-- BARW_BOUND_EXPIRY (R252). The BARW bound passes with no phase change; writes 0. -/
  | barwBoundExpiry (team bundle : Nat)
  /-- SLEEP_EXPIRY (R255). The SLEEP time elapses and the bundle continues. -/
  | sleepExpiry (team bundle : Nat)
  /-- COPY_ON_WRITE (R126). The MMU copies a shared frame on a store and remaps the page. -/
  | copyOnWrite (team bundle : Nat)
  /-- MIGRATION (R128). A frame migrates between tiers with its ring, and parked accesses replay. -/
  | migration (die : Nat)
  /-- FAULT_REPLAY (R129). A served replayable access is performed once with its original parameters. -/
  | faultReplay (team bundle : Nat)
  /-- UNRESOLVED_FAULT (R318). An unresolvable residency or CoW fault becomes a precise trap with UNRES. -/
  | unresolvedFault (team bundle : Nat)
  /-- PIN_RELEASE (R124). A pin drains; a draining frame is zeroed and freed. -/
  | pinRelease (frame : Nat)
  /-- FORMAT_EMULATION (R316). The control core computes an emulated MMA tile and enters it in tile order. -/
  | formatEmulation (id : Nat)
  /-- GROUP_CALL_SERVICE (R320). Firmware serves a CALLX record and replies into D. -/
  | groupCallService (die : Nat)
  /-- TRAP_HALT (R305). A trap on a group broadcasts a halt to the team. -/
  | trapHalt (team : Nat)
  /-- ASYNC_FAULT_REPORT (R303). An asynchronous fault is reported and stops the group at a word boundary. -/
  | asyncFaultReport (team : Nat)
  /-- BRIDGE_GATE_REJECT (R130). A bridge gate drops a packet of a non-owner and raises fault 0x16. -/
  | bridgeGateReject (id thread : Nat)
  /-- TRAP_RECORD_WRITE (R310). After the drain, the halt's records are written to the table and queue, and TAIL advances. -/
  | trapRecordWrite (team : Nat)
  /-- LAUNCH_QUEUE_TAIL_UPDATE (R114). A write of a launch queue's tail line prompts the scheduler to read packets. -/
  | launchQueueTailUpdate (fn prio : Nat) (tail : BitVec 32)
  /-- LAUNCH_PACKET_READ (R287). The scheduler reads and checks a launch packet, refusing it or accepting it. -/
  | launchPacketRead (fn prio : Nat)
  /-- WAIT_COUNTER_MET (R288). The wait counter reaches WAITVAL; the launch begins with an acquire. -/
  | waitCounterMet (launch : Nat)
  /-- TEAM_PLACEMENT (R291). The scheduler places a team on a core or core pair and starts it. -/
  | teamPlacement (launch : Nat)
  /-- TEAM_END (R25). A team ends when its threads and engine operations are done; its resources are zeroed. -/
  | teamEnd (team : Nat)
  /-- YIELD_REQUEST (R297). The scheduler raises a yield request on a team and loads its deadline. -/
  | yieldRequest (team : Nat)
  /-- YIELD_WITHDRAWAL (R297). The scheduler withdraws a yield request. -/
  | yieldWithdrawal (team : Nat)
  /-- DEADLINE_EXPIRY (R297). The deadline counter reaches zero; a full save is decided. -/
  | deadlineExpiry (team : Nat)
  /-- TEAM_SAVE (R299). After the drain, the save engine writes the registers and the queue save block. -/
  | teamSave (team : Nat)
  /-- TEAM_RESTORE (R300). A saved team is placed afresh and its state is restored. -/
  | teamRestore (saved : Nat)
  /-- HOST_WINDOW_ACCESS (R351). A host read or write through a CXL.mem window reaches a T0 page. -/
  | hostWindowAccess (fn : Nat) (ctx va : BitVec 64) (access : HostAccess)
  /-- MAPNEW (R127). Command that maps a page on a newly popped frame. -/
  | mapnew (fn : Nat) (e : BitVec 512)
  /-- MAP (R127). Command that maps a page onto an existing frame. -/
  | map (fn : Nat) (e : BitVec 512)
  /-- SHARE (R127). Command that shares pages copy-on-write between contexts. -/
  | share (fn : Nat) (e : BitVec 512)
  /-- RESERVE (R127). Command that reserves demand-mapped pages. -/
  | reserve (fn : Nat) (e : BitVec 512)
  /-- UNMAP (R127). Command that unmaps pages. -/
  | unmap (fn : Nat) (e : BitVec 512)
  /-- PROTECT (R127). Command that rewrites the permission and hint bits of pages. -/
  | protect (fn : Nat) (e : BitVec 512)
  /-- MAPCHAIN (R127). Command that maps a chained page on a flight. -/
  | mapchain (fn : Nat) (e : BitVec 512)
  /-- MIGRATE (R127). Command that migrates a page to a tier and partition. -/
  | migrate (fn : Nat) (e : BitVec 512)
  /-- RESUME (R324). Owner command that resumes a halted team as TRET would. -/
  | resume (fn : Nat) (e : BitVec 512)
  /-- RESUMESKIP (R324). Owner command that resumes a halted team as TRET.skip would. -/
  | resumeskip (fn : Nat) (e : BitVec 512)
  /-- ABORT (R315). Owner command that ends a halted team. -/
  | abort (fn : Nat) (e : BitVec 512)
  /-- SAVEFULL (R315). Owner command that fully saves a halted team. -/
  | savefull (fn : Nat) (e : BitVec 512)
  /-- SETCTX (R119). Command that writes a context descriptor. -/
  | setctx (fn : Nat) (e : BitVec 512)
  /-- SETPART (R98). Command that changes a partition's owner and sets the die's L2 mode. -/
  | setpart (fn : Nat) (e : BitVec 512)
  /-- SETFLIGHT (R132). Command that defines, redefines or clears a flight entry. -/
  | setflight (fn : Nat) (e : BitVec 512)
  /-- SETVI (R131). Command that writes a virtual interface entry. -/
  | setvi (fn : Nat) (e : BitVec 512)
  /-- QRESET (R325). Command that resets a stopped launch queue. -/
  | qreset (fn : Nat) (e : BitVec 512)
  /-- FWSTAGE (R330). Command that stages a signed firmware image on a die. -/
  | fwstage (fn : Nat) (e : BitVec 512)
  /-- FWACTIVATE (R330). Command that switches a die to the staged firmware. -/
  | fwactivate (fn : Nat) (e : BitVec 512)
  /-- FIRMWARE_SWITCH_COMPLETE (R330). The new firmware starts, M1 is extended and the waiting work is served. -/
  | firmwareSwitchComplete (die : Nat)
  /-- DIEOUT (R331). Command that takes a die out of service. -/
  | dieout (fn : Nat) (e : BitVec 512)
  /-- DIEIN (R331). Command that returns a die to service with its partitions unowned. -/
  | diein (fn : Nat) (e : BitVec 512)
  /-- ATTEST (R329). Command that writes a signed attestation report. -/
  | attest (fn : Nat) (e : BitVec 512)
  /-- LQ_WRITE (R322). Host write of a launch queue register, taking effect only while the queue is empty. -/
  | lqWrite (fn prio : Nat) (value : BitVec 64)
  /-- ERRREC_WRITE (R322). Host write of ERRREC that configures the error ring and clears ERRLOST. -/
  | errrecWrite (fn : Nat) (value : BitVec 64)
  /-- REGISTER_WRITE (R322). Host write to a window register with no behaviour of its own. -/
  | registerWrite (fn offset : Nat) (value : BitVec 64)
  /-- FLIT_CRC_ERROR (R328). A die-link flit fails its CRC; it is retried, and after 16 failures a lane is retired. -/
  | flitCrcError (link : Nat) (again : Bool)
  /-- POWER_ON (R332). Bring-up after power: boot, training, zeroing and calibration, then READY. -/
  | powerOn
  /-- THERMAL_THROTTLE (R333). The clock is lowered or restored to keep power and temperature within limits. -/
  | thermalThrottle (on : Bool)
  /-- OVERTEMPERATURE_STOP (R333). A die at 115 °C stops the module. -/
  | overtemperatureStop (die : Nat)
  /-- UNCORRECTABLE_ERROR_OUTSIDE_TEAM (R326). An uncorrectable memory error outside any team posts an error record of KIND 5. -/
  | uncorrectableErrorOutsideTeam (fn part : Nat) (address : BitVec 64)
  /-- UNASSIGNED_OPCODE_WORD (R175). A bundle reaches a word whose opcode is unassigned or lies in 0xE0-0xFF, and the word raises the illegal-instruction trap (0x01) before any effect. -/
  | unassignedOpcodeWord (w : BitVec 64)
  /-- UNASSIGNED_OPC_COMMAND (R323). The device takes a command ring entry whose OPC is unassigned and completes it with STATUS 4. -/
  | unassignedOpcCommand (fn : Nat) (e : BitVec 512)
  /-- MODULE_RESET (R333). A module reset restores reset values and ends the stopped state that follows an overtemperature stop, in which READY reads 0 until the next reset. -/
  | moduleReset
  deriving DecidableEq, Repr, Inhabited

/-- Where an uncorrectable error strikes (R103). -/
inductive SoftError where
  /-- a line of T0 or T1, in memory or in the L2 -/
  | memory (line : Nat)
  /-- an L1's copy of a line -/
  | copy (core line : Nat)
  /-- a line of a team's scratch -/
  | scratch (team line : Nat)
  /-- a view cache entry of a plinth -/
  | matrix (plinth line : Nat)
  /-- a vector register or a predicate of a thread, or a uniform register of a group, by operand number; view register k of
  a group as 2048 + k -/
  | register (team number holder : Nat)
  /-- an accumulator tile -/
  | tile (team tile : Nat)
  deriving DecidableEq, Repr, Inhabited

/-- What moves next. R268 names many agents and the manual fixes no order among them, except where a
rule of a turn's own meaning does; a run therefore carries its order as a list of turns. -/
inductive Turn where
  /-- an alcove issues the next word of a bundle that stands inside a clause (R295) -/
  | issue (team bundle : Nat)
  /-- a hardware event, a scheduler step or a host action of the table -/
  | event (i : Instr)
  /-- the device takes the next entry of a function's command ring (R323) -/
  | command (fn : Nat)
  /-- the host writes a byte of its own memory at a bus address -/
  | hostWrite (address : Nat) (b : BitVec 8)
  /-- an agent outside the module writes a byte of a CXL pool (R285) -/
  | poolWrite (address : Nat) (b : BitVec 8)
  /-- the host sets up the CXL.mem window of a function: its first bus address and its context (R321) -/
  | hostWindow (fn : Nat) (window : Option (Nat × BitVec 64))
  /-- an uncorrectable error strikes where no agent looks (R103) -/
  | softError (x : SoftError)
  /-- a die that no link reaches any more is taken out, once it can be (R328, R331) -/
  | dieLost (die : Nat)
  /-- L1 of a core evicts the victim of a set that holds these lines (R95) -/
  | l1Evict (core : Nat) (set : List Nat)
  /-- an L2 slice evicts the victim of a set that holds these lines (R95, R96) -/
  | l2Evict (set : List Nat)
  deriving DecidableEq, Repr, Inhabited

end Sys2Proof
end

