-- ==== Sys2Proof/Config.lean ====
section
/-!
DEFINITION. The free values of the model: constants without a body, one for each value that the manual
leaves open. Nothing can evaluate them, so a claim that holds of the model holds for every choice.
-/
namespace Sys2Proof.Config

/-- What moves next where the schedule names nothing more (R34 to R36 promise progress, not order). Log 1. -/
opaque turn : Nat → Turn

/-- Clocks of a core that pass in step number `step` (R149, R295: no durations are fixed). Log 2. -/
opaque clocks : (step core : Nat) → Nat

/-- The result the hardware picks for FRSQ, FEXP2, FLOG2, FSIN and FCOS of an input (R62 bounds it). Log 6. -/
opaque functionPick : (opcode : Nat) → Word → Word

/-- The crossbar output the hardware picks (R68 bounds it) for formats and scale, vector length, record and matrix row:
a function of the inputs (R64). Log 7. -/
opaque crossbarPick : (formats length : Nat) → (record row : List Byte) → Word

/-- A byte of a fragment beyond its 1 KiB image, which a mixed emulated pair can reach (R218, R219). Log 12. -/
opaque beyondImage : Nat → Byte

/-- The set of its slice in which a line of the L2 lies (R96 gives the number of sets alone). Log 67. -/
opaque l2Set : (line : Nat) → Nat

/-- The set in which a line of an L1 lies (the manual gives the number of sets alone). Log 67. -/
opaque l1Set : (line : Nat) → Nat

/-- Whether an L1 copy is lost with a way that scratch takes (R92 does not say which lines a way holds). Log 13. -/
opaque lostWithWay : (fresh line : Nat) → Bool

/-- The reply of a firmware service other than 0 and 1 for one lane (R320). Log 8. -/
opaque serviceReply : (service request : Word) → (lane fresh : Nat) → Word

/-- The reply entries that a firmware service other than 0 and 1 sends to reply ports, each by port and home lane (R111, R320).
Log 103. -/
opaque portReplies : (service : Word) → (requests : List Word) → (fresh : Nat) → List (Nat × List Word)

/-- Whether the firmware release with this measurement offers a service (R320). Log 8. -/
opaque serviceOffered : (measurement : BitVec 512) → (service : Word) → Bool

/-- SHAKE256 with 512 bits of output (R329), uninterpreted. Log 9. -/
opaque shake256 : List Byte → BitVec 512

/-- The Falcon-1024 signature of a digest under the module's fused key (R329), uninterpreted. Log 9. -/
opaque falconSign : BitVec 512 → List Byte

/-- Whether a firmware image passes the check against the vendor key (R330). Log 9. -/
opaque firmwareSigned : (m0 : BitVec 512) → (image : List Byte) → Bool

/-- The version that a firmware image, by its digest, reports (R329). Log 9. -/
opaque firmwareVersion : BitVec 512 → BitVec 64

/-- The module serial of an attestation report (R329). Log 9. -/
opaque serial : BitVec 128

/-- Digest of a die's boot ROM and first-stage firmware (R329, R332). Log 9. -/
opaque bootDigest : (die : Nat) → BitVec 512

/-- Digest of a die's calibration table image after bring-up (R329, R332). Log 9. -/
opaque calibrationDigest : (die : Nat) → BitVec 512

/-- Digest of a SETPART or SETVI command performed (R329 does not fix the digested bytes). Log 9. -/
opaque commandDigest : BitVec 512 → BitVec 512

/-- What an undeclared guard predicate reads in a thread: only MASK of the trap it raises shows it (R301). Log 15. -/
opaque undeclaredGuard : (predicate thread : Nat) → Bool

/-- What the flight operand of a denied re-link shows in CODE while its queue port holds no entry (R179, R301).
Log 15. -/
opaque missingEntry : (step : Nat) → Word

/-- Whether a DMA access of a command to a host memory byte succeeds in a step (R323). Log 80. -/
opaque hostAnswers : (step address : Nat) → Bool

/-- The module's public key under which attestation reports are signed (R329). Log 9. -/
opaque publicKey : List Byte

end Sys2Proof.Config
end

