-- ==== Sys2Proof/Machine/Float.lean ====
section
/-!
DEFINITION. Number formats, exact values, the one rounding, the floating-point operations and their
conditions (R42 to R52, R58 to R64, R202 to R206, R210 to R212). A finite value is held exactly as
`(-1)^neg * m * 2^e`; a result is rounded once, at the end.
-/
namespace Sys2Proof.Machine

/-- A value read from an element: NaN (signalling or quiet), infinity, or an exact finite value. -/
inductive FVal where
  | nan (signalling : Bool)
  | inf (neg : Bool)
  | fin (neg : Bool) (m : Nat) (e : Int)
  deriving DecidableEq, Repr

/-- Where a format keeps infinities and NaNs (R42, R53). -/
inductive FmtKind where
  | ieee | e4m3 | plain
  deriving DecidableEq, Repr

/-- A floating format: exponent and fraction widths and the bias (R42). -/
structure Fmt where
  ebits : Nat
  fbits : Nat
  bias : Int
  kind : FmtKind
  deriving DecidableEq, Repr

def Fmt.fp32 : Fmt := ⟨8, 23, 127, .ieee⟩
def Fmt.fp16 : Fmt := ⟨5, 10, 15, .ieee⟩
def Fmt.bf16 : Fmt := ⟨8, 7, 127, .ieee⟩
def Fmt.e4m3 : Fmt := ⟨4, 3, 7, .e4m3⟩
def Fmt.e5m2 : Fmt := ⟨5, 2, 15, .ieee⟩
/-- FP6 E3M2 (R53). -/
def Fmt.e3m2 : Fmt := ⟨3, 2, 3, .plain⟩

/-- The rounding modes (R6, R83). -/
inductive RM where
  | rne | rtz | rup | rdn
  deriving DecidableEq, Repr

/-- The mode held in %fctl (R83). -/
def RM.ofBits (b : BitVec 2) : RM :=
  if b = 0 then .rne else if b = 1 then .rtz else if b = 2 then .rup else .rdn

/-- The conditions of %fstat (R83): NV, DZ, OF, UF, NX in bits 4 to 0. -/
abbrev Conds := BitVec 5

def Conds.nv : Conds := 16
def Conds.dz : Conds := 8
def Conds.oF : Conds := 4
def Conds.uf : Conds := 2
def Conds.nx : Conds := 1

/-- A rounded result and the conditions it raises. -/
structure Rounded where
  bits : Nat
  conds : Conds
  deriving DecidableEq, Repr

/-- The code of +infinity in an IEEE format. -/
def Fmt.infCode (F : Fmt) : Nat := (2 ^ F.ebits - 1) <<< F.fbits

/-- The default NaN (R43). -/
def Fmt.nanCode (F : Fmt) : Nat :=
  match F.kind with
  | .e4m3 => 0x7F
  | _ => F.infCode + 2 ^ (F.fbits - 1)

/-- The code of the largest finite value. -/
def Fmt.maxCode (F : Fmt) : Nat :=
  match F.kind with
  | .ieee => F.infCode - 1
  | .e4m3 => 0x7E
  | .plain => 2 ^ (F.ebits + F.fbits) - 1

/-- The sign bit, by place. -/
def Fmt.signBit (F : Fmt) (neg : Bool) : Nat := if neg then 2 ^ (F.ebits + F.fbits) else 0

/-- The value of an element's bits (R42). -/
def Fmt.decode (F : Fmt) (x : Nat) : FVal :=
  let neg := (x >>> (F.ebits + F.fbits)) % 2 == 1
  let e := (x >>> F.fbits) % 2 ^ F.ebits
  let f := x % 2 ^ F.fbits
  if e = 2 ^ F.ebits - 1 ∧ F.kind = .ieee then
    if f = 0 then .inf neg else .nan (f < 2 ^ (F.fbits - 1))
  else if F.kind = .e4m3 ∧ e = 15 ∧ f = 7 then .nan false
  else if e = 0 then .fin neg f (1 - F.bias - F.fbits)
  else .fin neg (2 ^ F.fbits + f) (e - F.bias - F.fbits)

/-- Whether rounding `m / 2^d` in this mode goes up from the floor. -/
def roundsUp (rm : RM) (neg : Bool) (m d : Nat) : Bool :=
  let q := m >>> d
  let r := m % 2 ^ d
  match rm with
  | .rne => 2 * r > 2 ^ d || (2 * r == 2 ^ d && q % 2 == 1)
  | .rtz => false
  | .rup => r != 0 && !neg
  | .rdn => r != 0 && neg

/-- `m / 2^d` rounded to an integer. -/
def roundDiv (rm : RM) (neg : Bool) (m d : Nat) : Nat :=
  (m >>> d) + (if roundsUp rm neg m d then 1 else 0)

/-- `m * 2^e` rounded to a multiple of `2^q`, in units of `2^q`. -/
def roundTo (rm : RM) (neg : Bool) (m : Nat) (e q : Int) : Nat :=
  if q ≤ e then m <<< (e - q).toNat else roundDiv rm neg m (q - e).toNat

/-- Whether `m * 2^e` is a multiple of `2^q`. -/
def exactAt (m : Nat) (e q : Int) : Bool :=
  if q ≤ e then true else m % 2 ^ (q - e).toNat == 0

/-- What an overflow gives (R50): infinity away from zero, the largest finite value toward it; a
saturating conversion always the latter; E4M3 has no infinity and takes its NaN. -/
def Fmt.overflow (F : Fmt) (rm : RM) (sat neg : Bool) : Nat :=
  let toInf := match rm with | .rne => true | .rtz => false | .rup => !neg | .rdn => neg
  if sat || !toInf then F.signBit neg + F.maxCode
  else match F.kind with
    | .ieee => F.signBit neg + F.infCode
    | .e4m3 => F.nanCode
    | .plain => F.signBit neg + F.maxCode

/-- RoundTo of a nonzero or zero finite value (R6, R44, R50, R202): one rounding, with the conditions. -/
def Fmt.round (F : Fmt) (rm : RM) (sat : Bool) (neg : Bool) (m : Nat) (e : Int) : Rounded :=
  if m = 0 then ⟨F.signBit neg, 0⟩
  else
    let emin : Int := 1 - F.bias
    let top : Int := (Nat.log2 m : Int) + e
    let q : Int := max top emin - F.fbits
    let n := roundTo rm neg m e q
    let code := ((q + F.fbits + F.bias - 1).toNat <<< F.fbits) + n
    let inexact := !exactAt m e q
    if code > F.maxCode then ⟨F.overflow rm sat neg, Conds.oF ||| Conds.nx⟩
    else
      let tiny := top < emin &&
        roundTo rm neg m e (top - F.fbits) < 2 ^ (F.fbits + (emin - top).toNat)
      ⟨F.signBit neg + code,
        (if inexact then Conds.nx else 0) ||| (if inexact && tiny then Conds.uf else 0)⟩

/-- RoundTo of any value: NaNs give the default NaN, infinities stay (R43, R50). -/
def Fmt.roundVal (F : Fmt) (rm : RM) (v : FVal) : Rounded :=
  match v with
  | .nan sig => ⟨F.nanCode, if sig then Conds.nv else 0⟩
  | .inf neg => ⟨F.signBit neg + F.infCode, 0⟩
  | .fin neg m e => F.round rm false neg m e

/-! ### Exact arithmetic -/

/-- The signed mantissa. -/
def signed (neg : Bool) (m : Nat) : Int := if neg then -(m : Int) else m

/-- An exact finite sum, as signed mantissa and exponent. -/
structure Dy where
  n : Int
  e : Int
  deriving DecidableEq, Repr

def Dy.add (x y : Dy) : Dy :=
  if x.e ≤ y.e then ⟨x.n + y.n * 2 ^ (y.e - x.e).toNat, x.e⟩
  else ⟨x.n * 2 ^ (x.e - y.e).toNat + y.n, y.e⟩

def Dy.le (x y : Dy) : Bool :=
  (Dy.add x ⟨-y.n, y.e⟩).n ≤ 0

/-- The value as an exact number where it is finite. -/
def FVal.dy : FVal → Dy
  | .fin neg m e => ⟨signed neg m, e⟩
  | _ => ⟨0, 0⟩

def FVal.isNan : FVal → Bool
  | .nan _ => true
  | _ => false

def FVal.isSignalling : FVal → Bool
  | .nan s => s
  | _ => false

def FVal.neg? : FVal → Bool
  | .nan _ => false
  | .inf n => n
  | .fin n _ _ => n

def FVal.isZero : FVal → Bool
  | .fin _ m _ => m == 0
  | _ => false

def FVal.isInf : FVal → Bool
  | .inf _ => true
  | _ => false

def FVal.negate : FVal → FVal
  | .nan s => .nan s
  | .inf n => .inf (!n)
  | .fin n m e => .fin (!n) m e

/-- Scale by a power of two. -/
def FVal.scale (v : FVal) (k : Int) : FVal :=
  match v with
  | .fin n m e => .fin n m (e + k)
  | v => v

/-- Exact product; `none` where it is 0 times infinity. -/
def FVal.mul (x y : FVal) : Option FVal :=
  match x, y with
  | .nan a, .nan b => some (.nan (a || b))
  | .nan a, _ => some (.nan a)
  | _, .nan b => some (.nan b)
  | .fin a m e, .fin b n f => some (.fin (a != b) (m * n) (e + f))
  | x, y => if x.isZero || y.isZero then none else some (.inf (x.neg? != y.neg?))

/-- Exact sum with the sign rule of a zero sum (R202); `none` where it is infinity minus infinity. -/
def FVal.add (rm : RM) (x y : FVal) : Option FVal :=
  match x, y with
  | .nan a, .nan b => some (.nan (a || b))
  | .nan a, _ => some (.nan a)
  | _, .nan b => some (.nan b)
  | .inf a, .inf b => if a = b then some (.inf a) else none
  | .inf a, _ => some (.inf a)
  | _, .inf b => some (.inf b)
  | .fin a m e, .fin b n f =>
    let s := Dy.add ⟨signed a m, e⟩ ⟨signed b n, f⟩
    let neg := if s.n = 0 then (if m = 0 ∧ n = 0 ∧ a = b then a else rm == .rdn) else s.n < 0
    some (.fin neg s.n.natAbs s.e)

/-- A result, or the default NaN with NV where the operation is invalid. -/
def Fmt.result (F : Fmt) (rm : RM) (v : Option FVal) : Rounded :=
  match v with
  | some v => F.roundVal rm v
  | none => ⟨F.nanCode, Conds.nv⟩

def Fmt.fadd (F : Fmt) (rm : RM) (a b : Nat) : Rounded :=
  F.result rm (FVal.add rm (F.decode a) (F.decode b))

def Fmt.fsub (F : Fmt) (rm : RM) (a b : Nat) : Rounded :=
  F.result rm (FVal.add rm (F.decode a) (F.decode b).negate)

def Fmt.fmul (F : Fmt) (rm : RM) (a b : Nat) : Rounded :=
  F.result rm (FVal.mul (F.decode a) (F.decode b))

/-- FFMA rounds once; 0 times infinity is invalid even with a NaN addend (R202). -/
def Fmt.ffma (F : Fmt) (rm : RM) (a b c : Nat) : Rounded :=
  match FVal.mul (F.decode a) (F.decode b) with
  | none => ⟨F.nanCode, Conds.nv⟩
  | some p => F.result rm (FVal.add rm p (F.decode c))

/-- A quotient of exact values with its low bit sticky: enough bits for any rounding of FP32. -/
def divSticky (m n : Nat) (e f : Int) : Nat × Int :=
  let k := 64 + Nat.log2 n
  let q := (m <<< k) / n
  let r := (m <<< k) % n
  (2 * q + (if r = 0 then 0 else 1), e - f - k - 1)

def Fmt.fdiv (F : Fmt) (rm : RM) (a b : Nat) : Rounded :=
  match F.decode a, F.decode b with
  | .nan s, .nan t => ⟨F.nanCode, if s || t then Conds.nv else 0⟩
  | .nan s, _ => ⟨F.nanCode, if s then Conds.nv else 0⟩
  | _, .nan t => ⟨F.nanCode, if t then Conds.nv else 0⟩
  | .inf _, .inf _ => ⟨F.nanCode, Conds.nv⟩
  | .inf s, .fin t _ _ => ⟨F.signBit (s != t) + F.infCode, 0⟩
  | .fin s _ _, .inf t => ⟨F.signBit (s != t), 0⟩
  | .fin s m e, .fin t n f =>
    if n = 0 then
      if m = 0 then ⟨F.nanCode, Conds.nv⟩ else ⟨F.signBit (s != t) + F.infCode, Conds.dz⟩
    else
      let q := divSticky m n e f
      F.round rm false (s != t) q.1 q.2

/-- Bit by bit integer square root: `bits` result bits, the largest `r` with `r * r ≤ m`. -/
def isqrt (m : Nat) : (bits : Nat) → (r : Nat) → Nat
  | 0, r => r
  | k + 1, r =>
    let t := r + 2 ^ k
    isqrt m k (if t * t ≤ m then t else r)

def Fmt.fsqrt (F : Fmt) (rm : RM) (a : Nat) : Rounded :=
  match F.decode a with
  | .nan s => ⟨F.nanCode, if s then Conds.nv else 0⟩
  | .inf false => ⟨F.infCode, 0⟩
  | .inf true => ⟨F.nanCode, Conds.nv⟩
  | .fin s m e =>
    if m = 0 then ⟨F.signBit s, 0⟩
    else if s then ⟨F.nanCode, Conds.nv⟩
    else
      let k : Nat := if e % 2 = 0 then 128 else 129
      let x := m <<< k
      let r := isqrt x (Nat.log2 x / 2 + 1) 0
      F.round rm false false (2 * r + (if r * r = x then 0 else 1)) ((e - k) / 2 - 1)

/-! ### Minimum, maximum, compare, class -/

/-- Order key of finite values and infinities; -0 below +0 (R203). -/
def FVal.lt (x y : FVal) : Bool :=
  match x, y with
  | .nan _, _ => false
  | _, .nan _ => false
  | .inf a, .inf b => a && !b
  | .inf a, _ => a
  | _, .inf b => !b
  | .fin a m e, .fin b n f =>
    let d := (Dy.add ⟨signed a m, e⟩ ⟨-signed b n, f⟩).n
    d < 0 || (m == 0 && n == 0 && a && !b)

/-- FMIN and FMAX (R203). -/
def Fmt.fminmax (F : Fmt) (isMax : Bool) (a b : Nat) : Rounded :=
  let x := F.decode a
  let y := F.decode b
  let c : Conds := if x.isSignalling || y.isSignalling then Conds.nv else 0
  if x.isNan && y.isNan then ⟨F.nanCode, c⟩
  else if x.isNan then ⟨b, c⟩
  else if y.isNan then ⟨a, c⟩
  else if isMax then ⟨if FVal.lt x y then b else a, c⟩
  else ⟨if FVal.lt y x then b else a, c⟩

/-- The conditions of FCMP, codes 0 to 7 (R206). -/
def fcmp (cond a b : Nat) : Bool × Conds :=
  let x := Fmt.fp32.decode a
  let y := Fmt.fp32.decode b
  let un := x.isNan || y.isNan
  let bothZero := x.isZero && y.isZero
  let eq := !un && (bothZero || (!FVal.lt x y && !FVal.lt y x))
  let lt := !bothZero && FVal.lt x y
  let gt := !bothZero && FVal.lt y x
  let sig : Conds := if x.isSignalling || y.isSignalling then Conds.nv else 0
  let any : Conds := if un then Conds.nv else 0
  match cond with
  | 0 => (eq, sig)
  | 1 => (!eq, sig)
  | 2 => (!un && lt, any)
  | 3 => (!un && (lt || eq), any)
  | 4 => (!un && gt, any)
  | 5 => (!un && (gt || eq), any)
  | 6 => (un, sig)
  | _ => (!un, sig)

/-- Class number of an FP32 value (R207). -/
def fclass (a : Nat) : Nat :=
  match Fmt.fp32.decode a with
  | .nan true => 8
  | .nan false => 9
  | .inf true => 0
  | .inf false => 7
  | .fin neg m _ =>
    if m = 0 then (if neg then 3 else 4)
    else if (a >>> 23) % 256 = 0 then (if neg then 2 else 5)
    else if neg then 1 else 6

/-- FRND (R204): rounds to an integral value, keeping the sign of a zero. -/
def Fmt.frnd (F : Fmt) (rm : RM) (a : Nat) : Rounded :=
  match F.decode a with
  | .nan s => ⟨F.nanCode, if s then Conds.nv else 0⟩
  | .inf _ => ⟨a, 0⟩
  | .fin neg m e =>
    if m = 0 then ⟨a, 0⟩
    else
      let r := F.round .rtz false neg (roundTo rm neg m e 0) 0
      ⟨r.bits, if exactAt m e 0 then 0 else Conds.nx⟩

/-! ### L6 and L4 -/

/-- T(f) times 2^24 (R46). -/
def l6T (f : Nat) : Nat :=
  match f with
  | 0 => 0x1000000
  | 1 => 0x1306FE0
  | 2 => 0x16A09E6
  | _ => 0x1AE89FA

/-- M(f) times 2^24 (R46). -/
def l6M (f : Nat) : Nat :=
  match f with
  | 0 => 0x11837F0
  | 1 => 0x14D3CE4
  | 2 => 0x18C49F0
  | _ => 0x1D744FC

/-- The value of an L6 code below 64 (R46). -/
def l6Value (code : Nat) : FVal :=
  let s := code / 32 % 2 == 1
  let m := code % 32
  if m = 0 then (if s then .nan false else .fin false 0 0)
  else .fin s (l6T (m % 4)) ((m / 4 : Nat) - 28)

/-- A register-form byte: nonzero bits [7:6] read as the indefinite (R47). -/
def l6Byte (b : Nat) : FVal := if b / 64 % 4 = 0 then l6Value (b % 64) else .nan false

/-- The code of a register-form byte (R47). -/
def l6Code (b : Nat) : Nat := if b / 64 % 4 = 0 then b % 64 else 0x20

/-- The value of an L4 code (R53). -/
def l4Value (code : Nat) : FVal :=
  let s := code / 8 % 2 == 1
  let m := code % 8
  if m = 0 then (if s then .nan false else .fin false 0 0)
  else .fin s (l6T (m % 4)) ((m / 4 : Nat) - 26)

/-- The defined product of two L6 codes, or with `-4` of two L4 codes (R49, R53). -/
def logProduct (off : Int) (sa sb : Bool) (ma mb : Nat) : FVal :=
  if (ma = 0 ∧ sa) ∨ (mb = 0 ∧ sb) then .nan false
  else if ma = 0 ∨ mb = 0 then .fin false 0 0
  else .fin (sa != sb) (l6T ((ma + mb) % 4)) (((ma + mb) / 4 : Nat) + off - 24)

def l6Product (x y : Nat) : FVal :=
  logProduct (-8) (x / 32 % 2 == 1) (y / 32 % 2 == 1) (x % 32) (y % 32)

def l4Product (x y : Nat) : FVal :=
  logProduct (-4) (x / 8 % 2 == 1) (y / 8 % 2 == 1) (x % 8) (y % 8)

/-- The magnitude code of R48: the number of thresholds at or below `a`, from code 1. -/
def l6Search (a : Dy) : (k : Nat) → Nat
  | 0 => 1
  | i + 1 =>
    let k := 31 - i
    let t : Dy := ⟨l6M ((k - 1) % 4), ((k - 1) / 4 : Nat) - 28⟩
    let rest := l6Search a i
    if rest = 1 then (if Dy.le t a then k else 1) else rest

/-- Conversion of a value to L6 under scale exponent `E` (R48), with the conditions of R210. -/
def toL6 (v : FVal) (E : Int) : Rounded :=
  match v with
  | .nan s => ⟨0x20, if s then Conds.nv else 0⟩
  | .inf neg => ⟨(if neg then 32 else 0) + 31, Conds.oF ||| Conds.nx⟩
  | .fin neg m e =>
    let a : Dy := ⟨m, e - E⟩
    let low : Dy := ⟨0x1306FE0, -29⟩
    if !Dy.le low a then ⟨0, if m = 0 then 0 else Conds.uf ||| Conds.nx⟩
    else
      let k := l6Search a 30
      let val : Dy := (l6Value k).dy
      let differs := !(Dy.le val a && Dy.le a val)
      let above := k == 31 && !Dy.le a val
      ⟨(if neg then 32 else 0) + k,
        (if differs then Conds.nx else 0) ||| (if above then Conds.oF else 0)⟩

end Sys2Proof.Machine
end

