-- ==== Sys2Proof/WellFormed.lean ====
section
/-!
DEFINITION. The form of a word: the field combinations that step 4 of R179 accepts (R171 to R174, R177,
R178, and the encoding tables R181 to R267), and the instructions that the encodings can hold. A word
outside its form is no bad syntax for the hardware: it raises the illegal-instruction trap (0x01) when a
bundle reaches it, and the machine says so; `WellFormed` names the terms that are instructions.
-/
namespace Sys2Proof

/-- Field `[hi:lo]` of a bit vector as a number. -/
def fld {n : Nat} (x : BitVec n) (hi lo : Nat) : Nat := x.toNat / 2 ^ lo % 2 ^ (hi - lo + 1)

/-- Must-zero fields (R178): `d`, `a`, `b`, `c` say which of the four are unused; `m` lists the M values. -/
def RWord.only (w : RWord) (d a b c : Bool) (m : List Nat) : Bool :=
  (!d || w.d == 0) && (!a || w.a == 0) && (!b || w.b == 0) && (!c || w.c == 0) && m.contains w.m.toNat

/-- Must-zero fields of the I-form (R169). -/
def IWord.only (w : IWord) (d a : Bool) : Bool :=
  (!d || w.d == 0) && (!a || w.a == 0) && w.m == 0

/-- The C field is below `n` (its upper bits are zero). -/
def RWord.cBelow (w : RWord) (n : Nat) : Bool := w.c.toNat < n

/-- The control field of an atomic word (R174). -/
structure AtomCtl where
  scr : Bool
  w64 : Bool
  ord : Nat
  scope : Nat
  aop : Nat
  deriving DecidableEq, Repr

/-- R174. -/
def RWord.atomCtl (w : RWord) : AtomCtl :=
  ⟨w.c.getLsbD 10, w.c.getLsbD 9, fld w.c 8 7, fld w.c 6 4, fld w.c 3 0⟩

/-- The combinations of R174 common to ATOM, RED, CAS and FENCE. -/
def AtomCtl.ok (k : AtomCtl) : Bool :=
  k.scope ≤ 5 && k.aop != 15 && !(12 ≤ k.aop && k.w64) && !(k.scr && 1 < k.scope)

/-- Width of a CVT format code in bits, 0 for a reserved code (R208). -/
def cvtBits (code : Nat) : Nat :=
  if code = 0 || code = 8 then 32 else if code ≤ 2 then 16 else if code ≤ 7 then 8 else 0

/-- R208: RM, S, T and H are assigned values. -/
def RWord.cvtOk (w : RWord) : Bool :=
  let s := cvtBits (fld w.c 3 0)
  let t := cvtBits (fld w.c 7 4)
  fld w.c 10 9 != 3 && s != 0 && t != 0 && w.m.toNat * min s t < max s t

/-- R217: ncol is 1 to 32 and its upper bits are zero. -/
def RWord.ncolOk (w : RWord) : Bool := 1 ≤ w.c.toNat && w.c.toNat ≤ 32

/-- The view column of R172. -/
def MWord.viewColumn (w : MWord) (size : Nat) : Bool :=
  w.size.toNat == size && !w.sx && w.offset == 0 && w.m == 0

/-- The global and scratch columns of R172. -/
def MWord.memColumns (w : MWord) (isLd isL6 : Bool) : Bool :=
  (w.space == 0 || w.space == 1) &&
  (if w.m == 0 then w.xf == 0
   else w.m != 3 && w.xf.toNat ≤ (if w.space == 0 then 5 else 1)) &&
  (if isL6 then w.size == 4 else w.size.toNat ≤ 4 && !(w.m == 2 && w.size == 4)) &&
  (!w.sx || (isLd && w.size.toNat ≤ 1)) &&
  (w.space == 0 || w.hint == 0)

/-- Whether an opcode is assigned (R175). -/
def opcodeAssigned (op : Nat) : Bool :=
  op ≤ 0x0A || (0x10 ≤ op && op ≤ 0x1C) || (0x20 ≤ op && op ≤ 0x2C) || (0x30 ≤ op && op ≤ 0x34) ||
  (0x38 ≤ op && op ≤ 0x3E) || (0x40 ≤ op && op ≤ 0x4A) || (0x50 ≤ op && op ≤ 0x57) ||
  (0x60 ≤ op && op ≤ 0x66) || (0x70 ≤ op && op ≤ 0x7A) || (0x80 ≤ op && op ≤ 0x84) ||
  (0x88 ≤ op && op ≤ 0x8A) || (0x90 ≤ op && op ≤ 0x94) || (0x98 ≤ op && op ≤ 0x9D) ||
  (0xB0 ≤ op && op ≤ 0xB3) || (0xB8 ≤ op && op ≤ 0xBA) || (0xC0 ≤ op && op ≤ 0xC5) ||
  (0xC8 ≤ op && op ≤ 0xCA) || (0xD0 ≤ op && op ≤ 0xD3) || (0xD8 ≤ op && op ≤ 0xDB)

/-- Whether a command opcode is assigned (R324). -/
def opcAssigned (opc : Nat) : Bool :=
  (1 ≤ opc && opc ≤ 8) || (0x10 ≤ opc && opc ≤ 0x13) || (0x20 ≤ opc && opc ≤ 0x23) || opc == 0x28 ||
  (0x30 ≤ opc && opc ≤ 0x33) || opc == 0x38

/-- The OPC of a command ring entry (R323). -/
def commandOpc (e : BitVec 512) : Nat := fld e 15 0

/-- A function number: 0 to 63 the virtual functions, 64 the physical function (R322). -/
def fnOk (fn : Nat) : Bool := fn ≤ 64

/-- Step 4 of R179 for a word, as far as the word alone decides it (the launch barrier of R40 and the
tile form of XMV depend on the kernel). A row that is no word has no such form. -/
def formOk (i : Instr) : Bool :=
  match i with
  | .nop w => w.only true true true true [0]
  | .mov w | .movs w => w.only false false true true [0]
  | .movi w => w.only false true
  | .movw w _ => w.only false true true true [0, 1]
  | .movx w | .movxs w | .ubcast w => w.only false false false true [0]
  | .lanex w => w.only false false false true [0, 1, 2, 3]
  | .sel w | .bysel w | .imad w | .bitf3 w | .bfi w => w.only false false false false [0]
  | .iadd w | .isub w | .imul w | .and w | .or w | .xor w | .andn w | .shl w =>
    w.only false false false true [0]
  | .imulh w | .idiv w | .irem w | .imin w | .imax w | .shr w | .rot w =>
    w.only false false false true [0, 1]
  | .iabs w | .ineg w | .popc w | .clz w | .brev w => w.only false false true true [0]
  | .lea w => w.only false false false false [0, 1] && w.cBelow 8
  | .iaddc w => w.cBelow 128
  | .bfx w => w.only false false false false [0, 1]
  | .icmp w => w.only false false false false [0] && w.cBelow 10
  | .plop w => w.only false false false false [0] && w.cBelow 256
  | .pmov w => w.only false false true true [0, 1]
  | .pvote w => w.only false false true true [0, 1, 2]
  | .elect w => w.only false true true true [0]
  | .bra w => w.only true true
  | .brx w => w.only true false false true [0]
  | .jmp w | .ret w => w.only true false true true [0]
  | .call w => w.only false true
  | .exit w | .regrp w => w.only true true true true [0]
  | .fadd w | .fsub w | .fmul w | .fmin w | .fmax w => w.only false false false true [0, 1, 2]
  | .ffma w => w.only false false false false [0, 1, 2]
  | .fabs w | .fneg w => w.only false false true true [0, 1, 2]
  | .fcmp w => w.only false false false false [0] && w.cBelow 8
  | .fclass w => w.only false false true false [0] && w.cBelow 1024
  | .frnd w => w.only false false true false [0, 1, 2] && w.cBelow 5
  | .frcp w | .frsq w | .fsqrt w | .fexp2 w | .flog2 w | .fsin w | .fcos w =>
    w.only false false true true [0]
  | .fdiv w => w.only false false false true [0]
  | .cvt w => w.cvtOk
  | .rqnt w | .bsmax w => w.only false false false true [0, 1, 2]
  | .redg w | .scang w => w.only false false true true [0, 1, 2]
  | .admitWord w | .btag w => w.only false false true true [0, 1]
  | .mma w | .mmaz w => w.only false false false false [0]
  | .mlda w | .msta w | .mlds w => w.only false false true true [0]
  | .mzero w => w.only false true true true [0]
  | .mrow w => w.only false false true false [0, 1] && w.ncolOk
  | .mapply w => w.only false false false false [0, 1, 2] && w.ncolOk
  | .mscale w => w.only false true false true [0, 1]
  | .xmv w => w.only false false false false [0, 1] && w.cBelow 256
  | .msts w => w.only true false false true [0]
  | .ld w => w.memColumns true false
  | .ldv w => w.space == 2 && w.viewColumn 0
  | .st w | .stb w => w.memColumns false false || (w.space == 2 && w.viewColumn 0)
  | .ldl6 w => w.memColumns true true && !w.sx
  | .stl6 w => w.memColumns false true || (w.space == 2 && w.viewColumn 4)
  | .atom w => w.only false false false false [0] && w.atomCtl.ok
  | .red w => w.only true false false false [0] && w.atomCtl.ok && w.atomCtl.ord % 2 == 0
  | .cas w => w.only false false false false [0] && w.atomCtl.ok && w.atomCtl.aop == 0
  | .ldva w => w.only false false false false [0, 1, 2, 3]
  | .vset w => w.only true false false false [0] && w.cBelow 256
  | .vpub w => w.only false true false true [0]
  | .vinv w => w.only true true false true [0, 1]
  | .vstat w => w.only false true false true [0, 1]
  | .pref w => w.only true false true false [0] && w.cBelow 8
  | .cflush w => w.only true false true true [0, 1]
  | .cinv w => w.only true (w.m == 1) true true [0, 1]
  | .wmask w | .monw w | .waitm w => w.only false false true true [0]
  | .bar w => w.only true true true false [0, 1] && w.cBelow 16
  | .bara w => w.only false false true false [0] && w.cBelow 16 && w.c != 0
  | .barw w => w.only false false false false [0]
  | .bari w => w.only true false false true [0]
  | .fence w =>
    w.only true true true false [0] && w.atomCtl.ok && w.atomCtl.aop == 0 && !w.atomCtl.w64 &&
      !w.atomCtl.scr && w.atomCtl.ord != 0
  | .waitc w => w.only true true false false [0] && w.cBelow 4
  | .sleep w => w.only true true && !w.imm.msb
  | .cpy w => w.d.toNat < 4
  | .cpyc w => w.d.toNat < 4 && w.b.toNat < 16 && w.m.toNat < 2
  | .cbdef w => w.only true false false false [0] && w.b.toNat < 16
  | .cbacq w => w.only false true false true [0] && w.b.toNat < 16
  | .cbrel w => w.only true true false true [0] && w.b.toNat < 16
  | .qlen w => w.only false true false true [0, 1] && w.b.toNat < (if w.m == 0 then 16 else 32)
  | .xprog w | .xcal w => w.only true true false true [0]
  | .xstat w => w.only false (w.m == 0) (w.m == 1) true [0, 1]
  | .flink w | .fcut w => w.only true false false true [0]
  | .fswap w => w.only true false false false [0]
  | .fstat w => w.only false false true true [0, 1]
  | .callx w => w.only false false false true [0]
  | .trap w => w.only true true && w.imm.toNat < 256
  | .yield w _ _ => w.only true true true true [0]
  | .tret w => w.only true true true true [0, 1]
  | _ => false

/-- A store in view space in the view column of R172: it raises the view-store fault (0x0A) at step 5. -/
def viewStore (i : Instr) : Bool :=
  match i with
  | .st w | .stb w | .stl6 w => w.space == 2
  | _ => false

/-- The OPC of a command row (R324). -/
def Instr.opc (i : Instr) : Option Nat :=
  match i with
  | .mapnew _ _ => some 1 | .map _ _ => some 2 | .share _ _ => some 3 | .reserve _ _ => some 4
  | .unmap _ _ => some 5 | .protect _ _ => some 6 | .mapchain _ _ => some 7 | .migrate _ _ => some 8
  | .resume _ _ => some 0x10 | .resumeskip _ _ => some 0x11 | .abort _ _ => some 0x12
  | .savefull _ _ => some 0x13 | .setctx _ _ => some 0x20 | .setpart _ _ => some 0x21
  | .setflight _ _ => some 0x22 | .setvi _ _ => some 0x23 | .qreset _ _ => some 0x28
  | .fwstage _ _ => some 0x30 | .fwactivate _ _ => some 0x31 | .dieout _ _ => some 0x32
  | .diein _ _ => some 0x33 | .attest _ _ => some 0x38
  | _ => none

/-- The function and the ring entry of a command row. -/
def Instr.entry (i : Instr) : Option (Nat × BitVec 512) :=
  match i with
  | .mapnew f e | .map f e | .share f e | .reserve f e | .unmap f e | .protect f e | .mapchain f e
  | .migrate f e | .resume f e | .resumeskip f e | .abort f e | .savefull f e | .setctx f e
  | .setpart f e | .setflight f e | .setvi f e | .qreset f e | .fwstage f e | .fwactivate f e
  | .dieout f e | .diein f e | .attest f e | .unassignedOpcCommand f e => some (f, e)
  | _ => none

/-- A well-formed instruction: a word of valid form, a command whose entry carries its OPC, or an event
whose function and queue numbers exist. -/
def Instr.wf (i : Instr) : Bool :=
  match i with
  | .unassignedOpcodeWord w => !opcodeAssigned (fld w 63 56)
  | .unassignedOpcCommand f e => fnOk f && !opcAssigned (commandOpc e)
  | .launchQueueTailUpdate f p _ | .launchPacketRead f p | .lqWrite f p _ => fnOk f && p < 4
  | .hostWindowAccess f _ _ _ | .errrecWrite f _ | .registerWrite f _ _
  | .uncorrectableErrorOutsideTeam f _ _ => fnOk f
  | .st w | .stb w | .stl6 w => w.space != 2 && formOk i
  | i =>
    match i.entry, i.opc with
    | some (f, e), some opc => fnOk f && commandOpc e == opc
    | _, _ =>
      match i with
      | .clauseFetch .. | .clauseStart .. | .countedWordCompletion .. | .convergenceTrap ..
      | .engineOperationRetirement .. | .copyUnitTransfer .. | .cpycSlotReserve ..
      | .cpycSlotFilled .. | .viewProjection .. | .recalibration .. | .arrayProgrammingComplete ..
      | .arrayRetirement .. | .vpubMarkingArrival .. | .viewCacheEntryDiscard ..
      | .chainStoreApply .. | .tailAcknowledgement .. | .dirtyLineQuery .. | .joinCopy ..
      | .joinCompletion .. | .drainCompletion .. | .storeCommit .. | .monitorWake ..
      | .waitmBoundExpiry .. | .barwBoundExpiry .. | .sleepExpiry .. | .copyOnWrite ..
      | .migration .. | .faultReplay .. | .unresolvedFault .. | .pinRelease .. | .formatEmulation ..
      | .groupCallService .. | .trapHalt .. | .asyncFaultReport .. | .bridgeGateReject ..
      | .trapRecordWrite .. | .waitCounterMet .. | .teamPlacement .. | .teamEnd .. | .yieldRequest ..
      | .yieldWithdrawal .. | .deadlineExpiry .. | .teamSave .. | .teamRestore ..
      | .firmwareSwitchComplete .. | .flitCrcError .. | .powerOn | .thermalThrottle ..
      | .overtemperatureStop .. | .moduleReset => true
      | i => formOk i

/-- The well-formed instructions, as a proposition that can be decided. -/
abbrev WellFormed (i : Instr) : Prop := i.wf = true

end Sys2Proof
end

