-- ==== Sys2Proof/Decode.lean ====
section
/-!
DEFINITION. The decoder: bytes to an instruction or a refusal by name, for every list of bytes (R2, R162,
R168 to R171, R175), the command entries (R323, R324), and after it the encoder, from the same tables.
-/
namespace Sys2Proof

/-- Why bytes give no instruction: fewer bytes than a word, or than its literal words, need. -/
inductive DecodeError where
  | truncatedWord
  | missingLiteral
  deriving DecidableEq, Repr

/-- The eight bytes of a word, the least significant at the lowest address (R2). -/
def wordBytes (w : BitVec 64) : List Byte :=
  [w.extractLsb' 0 8, w.extractLsb' 8 8, w.extractLsb' 16 8, w.extractLsb' 24 8,
   w.extractLsb' 32 8, w.extractLsb' 40 8, w.extractLsb' 48 8, w.extractLsb' 56 8]

/-- Reads one 64-bit word. -/
def takeWord (bs : List Byte) : Option (BitVec 64 × List Byte) :=
  match bs with
  | b0 :: b1 :: b2 :: b3 :: b4 :: b5 :: b6 :: b7 :: rest =>
    some (b7 ++ b6 ++ b5 ++ b4 ++ b3 ++ b2 ++ b1 ++ b0, rest)
  | _ => none

/-- The opcode field [63:56]. -/
def opcodeOf (w : BitVec 64) : BitVec 8 := w.extractLsb' 56 8

/-- The fields of the R-format (R168). -/
def rFields (w : BitVec 64) : RWord :=
  { d := w.extractLsb' 45 11, a := w.extractLsb' 34 11, b := w.extractLsb' 23 11, c := w.extractLsb' 12 11,
    g := w.getLsbD 11, n := w.getLsbD 10, p := w.extractLsb' 3 7, f := w.getLsbD 2, m := w.extractLsb' 0 2 }

/-- The fields of the I-form (R169). -/
def iFields (w : BitVec 64) : IWord :=
  { d := w.extractLsb' 45 11, a := w.extractLsb' 34 11, imm := w.extractLsb' 12 22,
    g := w.getLsbD 11, n := w.getLsbD 10, p := w.extractLsb' 3 7, f := w.getLsbD 2, m := w.extractLsb' 0 2 }

/-- The fields of the M-format (R171). -/
def mFields (w : BitVec 64) : MWord :=
  { d := w.extractLsb' 45 11, a := w.extractLsb' 34 11, xf := w.extractLsb' 30 4,
    space := w.extractLsb' 28 2, size := w.extractLsb' 25 3, sx := w.getLsbD 24,
    hint := w.extractLsb' 22 2, offset := w.extractLsb' 12 10,
    g := w.getLsbD 11, n := w.getLsbD 10, p := w.extractLsb' 3 7, f := w.getLsbD 2, m := w.extractLsb' 0 2 }

/-- Literal words that an opcode calls for (R170, R176). -/
def literalCount (op : BitVec 8) : Nat := if op = 0x03 then 1 else if op = 0xDA then 2 else 0

/-- The instruction of a word and its literal words; an opcode without a row is the unassigned word (R175). -/
def decodeFields (w lit1 lit2 : BitVec 64) : Instr :=
  match (opcodeOf w).toNat with
  | 0x00 => .nop (rFields w)
  | 0x01 => .mov (rFields w)
  | 0x02 => .movi (iFields w)
  | 0x03 => .movw (rFields w) lit1
  | 0x04 => .movs (rFields w)
  | 0x05 => .movx (rFields w)
  | 0x06 => .movxs (rFields w)
  | 0x07 => .ubcast (rFields w)
  | 0x08 => .lanex (rFields w)
  | 0x09 => .sel (rFields w)
  | 0x0A => .bysel (rFields w)
  | 0x10 => .iadd (rFields w)
  | 0x11 => .isub (rFields w)
  | 0x12 => .imul (rFields w)
  | 0x13 => .imulh (rFields w)
  | 0x14 => .imad (rFields w)
  | 0x15 => .idiv (rFields w)
  | 0x16 => .irem (rFields w)
  | 0x17 => .imin (rFields w)
  | 0x18 => .imax (rFields w)
  | 0x19 => .iabs (rFields w)
  | 0x1A => .ineg (rFields w)
  | 0x1B => .lea (rFields w)
  | 0x1C => .iaddc (rFields w)
  | 0x20 => .and (rFields w)
  | 0x21 => .or (rFields w)
  | 0x22 => .xor (rFields w)
  | 0x23 => .andn (rFields w)
  | 0x24 => .bitf3 (rFields w)
  | 0x25 => .shl (rFields w)
  | 0x26 => .shr (rFields w)
  | 0x27 => .rot (rFields w)
  | 0x28 => .bfx (rFields w)
  | 0x29 => .bfi (rFields w)
  | 0x2A => .popc (rFields w)
  | 0x2B => .clz (rFields w)
  | 0x2C => .brev (rFields w)
  | 0x30 => .icmp (rFields w)
  | 0x31 => .plop (rFields w)
  | 0x32 => .pmov (rFields w)
  | 0x33 => .pvote (rFields w)
  | 0x34 => .elect (rFields w)
  | 0x38 => .bra (iFields w)
  | 0x39 => .brx (rFields w)
  | 0x3A => .jmp (rFields w)
  | 0x3B => .call (iFields w)
  | 0x3C => .ret (rFields w)
  | 0x3D => .exit (rFields w)
  | 0x3E => .regrp (rFields w)
  | 0x40 => .fadd (rFields w)
  | 0x41 => .fsub (rFields w)
  | 0x42 => .fmul (rFields w)
  | 0x43 => .ffma (rFields w)
  | 0x44 => .fmin (rFields w)
  | 0x45 => .fmax (rFields w)
  | 0x46 => .fabs (rFields w)
  | 0x47 => .fneg (rFields w)
  | 0x48 => .fcmp (rFields w)
  | 0x49 => .fclass (rFields w)
  | 0x4A => .frnd (rFields w)
  | 0x50 => .frcp (rFields w)
  | 0x51 => .frsq (rFields w)
  | 0x52 => .fsqrt (rFields w)
  | 0x53 => .fexp2 (rFields w)
  | 0x54 => .flog2 (rFields w)
  | 0x55 => .fsin (rFields w)
  | 0x56 => .fcos (rFields w)
  | 0x57 => .fdiv (rFields w)
  | 0x60 => .cvt (rFields w)
  | 0x61 => .rqnt (rFields w)
  | 0x62 => .redg (rFields w)
  | 0x63 => .scang (rFields w)
  | 0x64 => .admitWord (rFields w)
  | 0x65 => .btag (rFields w)
  | 0x66 => .bsmax (rFields w)
  | 0x70 => .mma (rFields w)
  | 0x71 => .mmaz (rFields w)
  | 0x72 => .mlda (rFields w)
  | 0x73 => .msta (rFields w)
  | 0x74 => .mzero (rFields w)
  | 0x75 => .mrow (rFields w)
  | 0x76 => .mapply (rFields w)
  | 0x77 => .mscale (rFields w)
  | 0x78 => .xmv (rFields w)
  | 0x79 => .mlds (rFields w)
  | 0x7A => .msts (rFields w)
  | 0x80 => if (mFields w).space = 2 then .ldv (mFields w) else .ld (mFields w)
  | 0x81 => .st (mFields w)
  | 0x82 => .ldl6 (mFields w)
  | 0x83 => .stl6 (mFields w)
  | 0x84 => .stb (mFields w)
  | 0x88 => .atom (rFields w)
  | 0x89 => .red (rFields w)
  | 0x8A => .cas (rFields w)
  | 0x90 => .ldva (rFields w)
  | 0x91 => .vset (rFields w)
  | 0x92 => .vpub (rFields w)
  | 0x93 => .vinv (rFields w)
  | 0x94 => .vstat (rFields w)
  | 0x98 => .pref (rFields w)
  | 0x99 => .cflush (rFields w)
  | 0x9A => .cinv (rFields w)
  | 0x9B => .wmask (rFields w)
  | 0x9C => .monw (rFields w)
  | 0x9D => .waitm (rFields w)
  | 0xB0 => .bar (rFields w)
  | 0xB1 => .bara (rFields w)
  | 0xB2 => .barw (rFields w)
  | 0xB3 => .bari (rFields w)
  | 0xB8 => .fence (rFields w)
  | 0xB9 => .waitc (rFields w)
  | 0xBA => .sleep (iFields w)
  | 0xC0 => .cpy (rFields w)
  | 0xC1 => .cpyc (rFields w)
  | 0xC2 => .cbdef (rFields w)
  | 0xC3 => .cbacq (rFields w)
  | 0xC4 => .cbrel (rFields w)
  | 0xC5 => .qlen (rFields w)
  | 0xC8 => .xprog (rFields w)
  | 0xC9 => .xcal (rFields w)
  | 0xCA => .xstat (rFields w)
  | 0xD0 => .flink (rFields w)
  | 0xD1 => .fcut (rFields w)
  | 0xD2 => .fswap (rFields w)
  | 0xD3 => .fstat (rFields w)
  | 0xD8 => .callx (rFields w)
  | 0xD9 => .trap (iFields w)
  | 0xDA => .yield (rFields w) lit1 lit2
  | 0xDB => .tret (rFields w)
  | _ => .unassignedOpcodeWord w

/-- Decodes the instruction at the head of a list of bytes and gives the rest. -/
def decode (bs : List Byte) : Except DecodeError (Instr × List Byte) :=
  match takeWord bs with
  | none => .error .truncatedWord
  | some (w, rest) =>
    match literalCount (opcodeOf w) with
    | 0 => .ok (decodeFields w 0 0, rest)
    | 1 =>
      match takeWord rest with
      | none => .error .missingLiteral
      | some (l1, rest1) => .ok (decodeFields w l1 0, rest1)
    | _ =>
      match takeWord rest with
      | none => .error .missingLiteral
      | some (l1, rest1) =>
        match takeWord rest1 with
        | none => .error .missingLiteral
        | some (l2, rest2) => .ok (decodeFields w l1 l2, rest2)

/-- The command of a ring entry (R323, R324). -/
def decodeCommand (fn : Nat) (e : BitVec 512) : Instr :=
  match commandOpc e with
  | 0x01 => .mapnew fn e
  | 0x02 => .map fn e
  | 0x03 => .share fn e
  | 0x04 => .reserve fn e
  | 0x05 => .unmap fn e
  | 0x06 => .protect fn e
  | 0x07 => .mapchain fn e
  | 0x08 => .migrate fn e
  | 0x10 => .resume fn e
  | 0x11 => .resumeskip fn e
  | 0x12 => .abort fn e
  | 0x13 => .savefull fn e
  | 0x20 => .setctx fn e
  | 0x21 => .setpart fn e
  | 0x22 => .setflight fn e
  | 0x23 => .setvi fn e
  | 0x28 => .qreset fn e
  | 0x30 => .fwstage fn e
  | 0x31 => .fwactivate fn e
  | 0x32 => .dieout fn e
  | 0x33 => .diein fn e
  | 0x38 => .attest fn e
  | _ => .unassignedOpcCommand fn e

/-- The bytes of a number, `n` of them, least significant first. -/
def natBytes (n x : Nat) : List Byte :=
  match n with
  | 0 => []
  | n + 1 => BitVec.ofNat 8 x :: natBytes n (x / 256)

/-- The instruction the decoder reads from the bits `w` of `nbits` bits, every bit above them 0. -/
def decodeTableWord (nbits w : Nat) : Option Instr :=
  match decode (natBytes 24 (w % 2 ^ nbits)) with
  | .ok (i, _) => some i
  | .error _ => none

/-! ### The encoder -/

/-- One bit as a bit vector. -/
def bit (b : Bool) : BitVec 1 := BitVec.ofBool b

/-- R168. -/
def RWord.pack (w : RWord) (op : BitVec 8) : BitVec 64 :=
  op ++ w.d ++ w.a ++ w.b ++ w.c ++ bit w.g ++ bit w.n ++ w.p ++ bit w.f ++ w.m

/-- R169. -/
def IWord.pack (w : IWord) (op : BitVec 8) : BitVec 64 :=
  op ++ w.d ++ w.a ++ w.imm ++ bit w.g ++ bit w.n ++ w.p ++ bit w.f ++ w.m

/-- R171. -/
def MWord.pack (w : MWord) (op : BitVec 8) : BitVec 64 :=
  op ++ w.d ++ w.a ++ w.xf ++ w.space ++ w.size ++ bit w.sx ++ w.hint ++ w.offset ++ bit w.g ++ bit w.n ++
    w.p ++ bit w.f ++ w.m

/-- The opcode of a word row (R175); 0 for a row that is no word of its own opcode. -/
def Instr.opcode (i : Instr) : BitVec 8 :=
  match i with
  | .nop .. => 0x00
  | .mov .. => 0x01
  | .movi .. => 0x02
  | .movw .. => 0x03
  | .movs .. => 0x04
  | .movx .. => 0x05
  | .movxs .. => 0x06
  | .ubcast .. => 0x07
  | .lanex .. => 0x08
  | .sel .. => 0x09
  | .bysel .. => 0x0A
  | .iadd .. => 0x10
  | .isub .. => 0x11
  | .imul .. => 0x12
  | .imulh .. => 0x13
  | .imad .. => 0x14
  | .idiv .. => 0x15
  | .irem .. => 0x16
  | .imin .. => 0x17
  | .imax .. => 0x18
  | .iabs .. => 0x19
  | .ineg .. => 0x1A
  | .lea .. => 0x1B
  | .iaddc .. => 0x1C
  | .and .. => 0x20
  | .or .. => 0x21
  | .xor .. => 0x22
  | .andn .. => 0x23
  | .bitf3 .. => 0x24
  | .shl .. => 0x25
  | .shr .. => 0x26
  | .rot .. => 0x27
  | .bfx .. => 0x28
  | .bfi .. => 0x29
  | .popc .. => 0x2A
  | .clz .. => 0x2B
  | .brev .. => 0x2C
  | .icmp .. => 0x30
  | .plop .. => 0x31
  | .pmov .. => 0x32
  | .pvote .. => 0x33
  | .elect .. => 0x34
  | .bra .. => 0x38
  | .brx .. => 0x39
  | .jmp .. => 0x3A
  | .call .. => 0x3B
  | .ret .. => 0x3C
  | .exit .. => 0x3D
  | .regrp .. => 0x3E
  | .fadd .. => 0x40
  | .fsub .. => 0x41
  | .fmul .. => 0x42
  | .ffma .. => 0x43
  | .fmin .. => 0x44
  | .fmax .. => 0x45
  | .fabs .. => 0x46
  | .fneg .. => 0x47
  | .fcmp .. => 0x48
  | .fclass .. => 0x49
  | .frnd .. => 0x4A
  | .frcp .. => 0x50
  | .frsq .. => 0x51
  | .fsqrt .. => 0x52
  | .fexp2 .. => 0x53
  | .flog2 .. => 0x54
  | .fsin .. => 0x55
  | .fcos .. => 0x56
  | .fdiv .. => 0x57
  | .cvt .. => 0x60
  | .rqnt .. => 0x61
  | .redg .. => 0x62
  | .scang .. => 0x63
  | .admitWord .. => 0x64
  | .btag .. => 0x65
  | .bsmax .. => 0x66
  | .mma .. => 0x70
  | .mmaz .. => 0x71
  | .mlda .. => 0x72
  | .msta .. => 0x73
  | .mzero .. => 0x74
  | .mrow .. => 0x75
  | .mapply .. => 0x76
  | .mscale .. => 0x77
  | .xmv .. => 0x78
  | .mlds .. => 0x79
  | .msts .. => 0x7A
  | .ld .. => 0x80
  | .st .. => 0x81
  | .ldl6 .. => 0x82
  | .stl6 .. => 0x83
  | .stb .. => 0x84
  | .atom .. => 0x88
  | .red .. => 0x89
  | .cas .. => 0x8A
  | .ldva .. => 0x90
  | .vset .. => 0x91
  | .vpub .. => 0x92
  | .vinv .. => 0x93
  | .vstat .. => 0x94
  | .pref .. => 0x98
  | .cflush .. => 0x99
  | .cinv .. => 0x9A
  | .wmask .. => 0x9B
  | .monw .. => 0x9C
  | .waitm .. => 0x9D
  | .bar .. => 0xB0
  | .bara .. => 0xB1
  | .barw .. => 0xB2
  | .bari .. => 0xB3
  | .fence .. => 0xB8
  | .waitc .. => 0xB9
  | .sleep .. => 0xBA
  | .cpy .. => 0xC0
  | .cpyc .. => 0xC1
  | .cbdef .. => 0xC2
  | .cbacq .. => 0xC3
  | .cbrel .. => 0xC4
  | .qlen .. => 0xC5
  | .xprog .. => 0xC8
  | .xcal .. => 0xC9
  | .xstat .. => 0xCA
  | .flink .. => 0xD0
  | .fcut .. => 0xD1
  | .fswap .. => 0xD2
  | .fstat .. => 0xD3
  | .callx .. => 0xD8
  | .trap .. => 0xD9
  | .yield .. => 0xDA
  | .tret .. => 0xDB
  | .ldv .. => 0x80
  | _ => 0

/-- The words of an instruction in the order of memory; none for an event, which is no word. -/
def encodeWords (i : Instr) : List (BitVec 64) :=
  match i with
  | .nop w => [w.pack i.opcode]
  | .mov w => [w.pack i.opcode]
  | .movs w => [w.pack i.opcode]
  | .movx w => [w.pack i.opcode]
  | .movxs w => [w.pack i.opcode]
  | .ubcast w => [w.pack i.opcode]
  | .lanex w => [w.pack i.opcode]
  | .sel w => [w.pack i.opcode]
  | .bysel w => [w.pack i.opcode]
  | .iadd w => [w.pack i.opcode]
  | .isub w => [w.pack i.opcode]
  | .imul w => [w.pack i.opcode]
  | .imulh w => [w.pack i.opcode]
  | .imad w => [w.pack i.opcode]
  | .idiv w => [w.pack i.opcode]
  | .irem w => [w.pack i.opcode]
  | .imin w => [w.pack i.opcode]
  | .imax w => [w.pack i.opcode]
  | .iabs w => [w.pack i.opcode]
  | .ineg w => [w.pack i.opcode]
  | .lea w => [w.pack i.opcode]
  | .iaddc w => [w.pack i.opcode]
  | .and w => [w.pack i.opcode]
  | .or w => [w.pack i.opcode]
  | .xor w => [w.pack i.opcode]
  | .andn w => [w.pack i.opcode]
  | .bitf3 w => [w.pack i.opcode]
  | .shl w => [w.pack i.opcode]
  | .shr w => [w.pack i.opcode]
  | .rot w => [w.pack i.opcode]
  | .bfx w => [w.pack i.opcode]
  | .bfi w => [w.pack i.opcode]
  | .popc w => [w.pack i.opcode]
  | .clz w => [w.pack i.opcode]
  | .brev w => [w.pack i.opcode]
  | .icmp w => [w.pack i.opcode]
  | .plop w => [w.pack i.opcode]
  | .pmov w => [w.pack i.opcode]
  | .pvote w => [w.pack i.opcode]
  | .elect w => [w.pack i.opcode]
  | .brx w => [w.pack i.opcode]
  | .jmp w => [w.pack i.opcode]
  | .ret w => [w.pack i.opcode]
  | .exit w => [w.pack i.opcode]
  | .regrp w => [w.pack i.opcode]
  | .fadd w => [w.pack i.opcode]
  | .fsub w => [w.pack i.opcode]
  | .fmul w => [w.pack i.opcode]
  | .ffma w => [w.pack i.opcode]
  | .fmin w => [w.pack i.opcode]
  | .fmax w => [w.pack i.opcode]
  | .fabs w => [w.pack i.opcode]
  | .fneg w => [w.pack i.opcode]
  | .fcmp w => [w.pack i.opcode]
  | .fclass w => [w.pack i.opcode]
  | .frnd w => [w.pack i.opcode]
  | .frcp w => [w.pack i.opcode]
  | .frsq w => [w.pack i.opcode]
  | .fsqrt w => [w.pack i.opcode]
  | .fexp2 w => [w.pack i.opcode]
  | .flog2 w => [w.pack i.opcode]
  | .fsin w => [w.pack i.opcode]
  | .fcos w => [w.pack i.opcode]
  | .fdiv w => [w.pack i.opcode]
  | .cvt w => [w.pack i.opcode]
  | .rqnt w => [w.pack i.opcode]
  | .redg w => [w.pack i.opcode]
  | .scang w => [w.pack i.opcode]
  | .admitWord w => [w.pack i.opcode]
  | .btag w => [w.pack i.opcode]
  | .bsmax w => [w.pack i.opcode]
  | .mma w => [w.pack i.opcode]
  | .mmaz w => [w.pack i.opcode]
  | .mlda w => [w.pack i.opcode]
  | .msta w => [w.pack i.opcode]
  | .mzero w => [w.pack i.opcode]
  | .mrow w => [w.pack i.opcode]
  | .mapply w => [w.pack i.opcode]
  | .mscale w => [w.pack i.opcode]
  | .xmv w => [w.pack i.opcode]
  | .mlds w => [w.pack i.opcode]
  | .msts w => [w.pack i.opcode]
  | .atom w => [w.pack i.opcode]
  | .red w => [w.pack i.opcode]
  | .cas w => [w.pack i.opcode]
  | .ldva w => [w.pack i.opcode]
  | .vset w => [w.pack i.opcode]
  | .vpub w => [w.pack i.opcode]
  | .vinv w => [w.pack i.opcode]
  | .vstat w => [w.pack i.opcode]
  | .pref w => [w.pack i.opcode]
  | .cflush w => [w.pack i.opcode]
  | .cinv w => [w.pack i.opcode]
  | .wmask w => [w.pack i.opcode]
  | .monw w => [w.pack i.opcode]
  | .waitm w => [w.pack i.opcode]
  | .bar w => [w.pack i.opcode]
  | .bara w => [w.pack i.opcode]
  | .barw w => [w.pack i.opcode]
  | .bari w => [w.pack i.opcode]
  | .fence w => [w.pack i.opcode]
  | .waitc w => [w.pack i.opcode]
  | .cpy w => [w.pack i.opcode]
  | .cpyc w => [w.pack i.opcode]
  | .cbdef w => [w.pack i.opcode]
  | .cbacq w => [w.pack i.opcode]
  | .cbrel w => [w.pack i.opcode]
  | .qlen w => [w.pack i.opcode]
  | .xprog w => [w.pack i.opcode]
  | .xcal w => [w.pack i.opcode]
  | .xstat w => [w.pack i.opcode]
  | .flink w => [w.pack i.opcode]
  | .fcut w => [w.pack i.opcode]
  | .fswap w => [w.pack i.opcode]
  | .fstat w => [w.pack i.opcode]
  | .callx w => [w.pack i.opcode]
  | .tret w => [w.pack i.opcode]
  | .movi w => [w.pack i.opcode]
  | .bra w => [w.pack i.opcode]
  | .call w => [w.pack i.opcode]
  | .trap w => [w.pack i.opcode]
  | .sleep w => [w.pack i.opcode]
  | .ld w => [w.pack i.opcode]
  | .ldv w => [w.pack i.opcode]
  | .st w => [w.pack i.opcode]
  | .ldl6 w => [w.pack i.opcode]
  | .stl6 w => [w.pack i.opcode]
  | .stb w => [w.pack i.opcode]
  | .movw w l => [w.pack i.opcode, l]
  | .yield w l1 l2 => [w.pack i.opcode, l1, l2]
  | .unassignedOpcodeWord w => [w]
  | _ => []

/-- The bytes of an instruction: its words, or the 64 bytes of a command's ring entry (R323). -/
def encode (i : Instr) : List Byte :=
  match i.entry with
  | some (_, e) => natBytes 64 e.toNat
  | none => (encodeWords i).flatMap wordBytes

end Sys2Proof
end

