-- ==== Sys2Proof/Machine/Sparse.lean ====
section
/-!
DEFINITION. Sparse data by key: a list of keys and values in one canonical form, keys strictly rising and no
entry equal to what an unlisted key reads as. Memories, register files and tables are such lists, so that
equal contents are equal data.
-/
namespace Sys2Proof.Machine

/-- Sparse data: what an unlisted key reads as is given at each use. -/
abbrev Sparse (α : Type) := List (Nat × α)

/-- The value at a key; `d` where the key is not listed. -/
def Sparse.get {α : Type} (m : Sparse α) (d : α) (k : Nat) : α :=
  match m with
  | [] => d
  | (j, x) :: rest => if j = k then x else Sparse.get rest d k

/-- The value at a key, if the key is listed. -/
def Sparse.find {α : Type} (m : Sparse α) (k : Nat) : Option α :=
  match m with
  | [] => none
  | (j, x) :: rest => if j = k then some x else Sparse.find rest k

/-- Drops a key. -/
def Sparse.erase {α : Type} (m : Sparse α) (k : Nat) : Sparse α :=
  match m with
  | [] => []
  | (j, x) :: rest => if j = k then Sparse.erase rest k else (j, x) :: Sparse.erase rest k

/-- Lists a key with a value, whatever the value is. -/
def Sparse.insert {α : Type} (m : Sparse α) (k : Nat) (v : α) : Sparse α :=
  match m with
  | [] => [(k, v)]
  | (j, x) :: rest =>
    if j = k then (k, v) :: rest
    else if k < j then (k, v) :: (j, x) :: rest
    else (j, x) :: Sparse.insert rest k v

/-- Writes a value at a key; writing what an unlisted key reads as removes the entry. -/
def Sparse.put {α : Type} [DecidableEq α] (m : Sparse α) (d : α) (k : Nat) (v : α) : Sparse α :=
  if v = d then m.erase k else m.insert k v

/-- Drops the keys from `lo` up to, but not including, `hi`. -/
def Sparse.clear {α : Type} (m : Sparse α) (lo hi : Nat) : Sparse α :=
  m.filter (fun e => e.1 < lo || hi ≤ e.1)

/-- The keys rise strictly. -/
def Sparse.sorted {α : Type} (m : Sparse α) : Bool :=
  match m with
  | [] => true
  | [_] => true
  | (i, _) :: (j, y) :: rest => i < j && Sparse.sorted ((j, y) :: rest)

/-- The canonical form: keys strictly rising, no entry with the default. -/
def Sparse.wf {α : Type} [DecidableEq α] (m : Sparse α) (d : α) : Bool :=
  Sparse.sorted m && m.all (fun e => e.2 ≠ d)

/-! ### Memory -/

/-- A memory: bytes by address. A byte that nothing has written reads as zero (R105, R332). -/
abbrev Memory := List Host.Cell

/-- What an unlisted address reads as: every memory is zeroed before it can be read (R105, R332). Log 3. -/
def Memory.fresh : BitVec 8 := 0

/-- The byte at an address. -/
def Memory.read (m : Memory) (a : Nat) : BitVec 8 := Sparse.get m Memory.fresh a

/-- Writes one byte. -/
def Memory.write (m : Memory) (a : Nat) (b : BitVec 8) : Memory := Sparse.put m Memory.fresh a b

/-- The canonical form of a memory. -/
def Memory.wf (m : Memory) : Bool := Sparse.wf m Memory.fresh

/-- `n` bytes from an address, least significant first, as a number (R2). -/
def Memory.readLE (m : Memory) (a : Nat) : (n : Nat) → Nat
  | 0 => 0
  | n + 1 => (m.read a).toNat + 256 * Memory.readLE m (a + 1) n

/-- The bytes at a list of addresses. -/
def Memory.readBytes (m : Memory) (as : List Nat) : List (BitVec 8) := as.map m.read

/-- Writes bytes at a list of addresses, one after another. -/
def Memory.writeBytes (m : Memory) (ps : List (Nat × BitVec 8)) : Memory :=
  ps.foldl (fun m p => m.write p.1 p.2) m

/-- Zeroes the addresses from `lo` up to `hi` (R105). -/
def Memory.zero (m : Memory) (lo hi : Nat) : Memory := Sparse.clear m lo hi

/-- The bytes of a number, least significant first (R2). -/
def bytesLE (n x : Nat) : List (BitVec 8) :=
  match n with
  | 0 => []
  | n + 1 => BitVec.ofNat 8 x :: bytesLE n (x / 256)

/-- A number from its bytes, least significant first (R2). -/
def ofBytesLE (bs : List (BitVec 8)) : Nat :=
  match bs with
  | [] => 0
  | b :: rest => b.toNat + 256 * ofBytesLE rest

/-- Writes a number as `n` bytes from an address. -/
def Memory.writeLE (m : Memory) (a n x : Nat) : Memory :=
  match n with
  | 0 => m
  | n + 1 => Memory.writeLE (m.write a (BitVec.ofNat 8 x)) (a + 1) n (x / 256)

/-- Sparse data from a list of keys and values. -/
def ofPairs {α : Type} [DecidableEq α] (d : α) (ps : List (Nat × α)) : Sparse α :=
  ps.foldl (fun m p => Sparse.put m d p.1 p.2) []

end Sys2Proof.Machine
end

