-- ==== Sys2Proof/Machine/State.lean ====
section
/-!
DEFINITION. The state of the K2 module, as plain data: everything the manual gives the machine (R268, R13,
R20 to R23, R69 to R149), and the model's own schedule. Reset is the module before its bring-up (R332).
-/
namespace Sys2Proof.Machine

/-- Why a step stops. None of these is a trap of the device: traps are next states (R301 to R305). -/
inductive Fault where
  /-- raised by every instruction word when no bundle is issuing: outside an alcove's issue (R295) a word
  is no machine event. Safe: the machine stops. -/
  | noBundle
  deriving DecidableEq, Repr

/-- What has no meaning. -/
inductive Refusal where
  /-- raised by an arm of `exec` without a meaning. Safe: the machine stops. -/
  | notModelled (mnemonic : String)
  deriving DecidableEq, Repr

/-- The facts of a trap that its record holds (R301, R309). -/
structure TrapInfo where
  /-- cause code -/
  cause : BitVec 8
  /-- MASK, one bit per home lane -/
  mask : BitVec 64 := 0
  addr : BitVec 64 := 0
  code : BitVec 32 := 0
  /-- reported after its word issued (R303) -/
  async : Bool := false
  /-- an unresolved replayable fault (R318) -/
  unres : Bool := false
  /-- clause address and word index of the originating word -/
  origin : Option (BitVec 64 × BitVec 32) := none
  /-- of a stranded store's fault: the group that issued the store (R284) -/
  stranded : Option Nat := none
  deriving DecidableEq, Repr, Inhabited

/-- A monitor (R247): the line it is armed on and whether a write has been recorded. -/
structure Monitor where
  line : Nat
  /-- the page whose mapping led to the line, by its first global address over 64 KiB (R126) -/
  page : Nat := 0
  written : Bool
  /-- of a waiting thread: the last cycle in which a write ends its wait as woken (R248) -/
  until_ : Option Nat := none
  /-- its thread stands halted, and the wait's bound had not passed when it stopped: every write until it runs on
  counts (R308) -/
  held : Bool := false
  deriving DecidableEq, Repr, Inhabited

/-- A thread's registers (R71, R78, R83) and its life (R25). -/
structure Thread where
  /-- v0 to v767; unlisted: 0 -/
  v : Sparse Word := []
  /-- their bounded tags; unlisted: clear -/
  vt : Sparse Bool := []
  /-- p0 to p127; unlisted: 0 -/
  p : Sparse Bool := []
  /-- %fctl [1:0] -/
  rm : BitVec 2 := 0
  /-- %fstat [4:0] -/
  fstat : BitVec 5 := 0
  live : Bool := true
  monitor : Option Monitor := none
  /-- vector registers and predicates that hold an uncorrectable error, by operand number (R103) -/
  bad : List Nat := []
  deriving DecidableEq, Repr, Inhabited

/-- A view register (R86, R233). -/
structure View where
  image : BitVec 512 := 0
  gen : Word := 0
  /-- valid bit [0], CSTART [15:8], XST [18:16] -/
  fourth : Word := 0
  deriving DecidableEq, Repr, Inhabited

/-- A group's registers and counters (R76, R86, R140, R144, R81, R148). -/
structure Group where
  /-- s0 to s255; unlisted: 0 -/
  s : Sparse Word := []
  /-- w0 to w15; unlisted: all zero -/
  views : Sparse View := []
  /-- f0 to f11; unlisted: 0 -/
  flags : Sparse Nat := []
  /-- c0 to c3; unlisted: 0 -/
  counters : Sparse Nat := []
  trapcause : Word := 0
  trapidx : Word := 0
  /-- %skid -/
  skidReg : Word := 0
  trapaddr : DWord := 0
  /-- words retired after the halt reached the group (R148) -/
  skid : Nat := 0
  /-- uniform registers, by operand number, and view registers, from 2048, that hold an uncorrectable error (R103) -/
  bad : List Nat := []
  deriving DecidableEq, Repr, Inhabited

/-- What BARW waits for in one group (R252): its object, the phase that has to change, and the last cycle in which a
change counts. -/
structure PhaseWait where
  group : Nat
  object : Nat
  phase : Nat
  until_ : Nat
  /-- it stands halted, and its bound had not passed when it stopped (R308) -/
  held : Bool := false
  deriving DecidableEq, Repr, Inhabited

/-- What a bundle waits for at its word (R249). Cycles are those of %cycle. -/
inductive Wait where
  /-- nothing: the word can be tried -/
  | ready
  /-- a full queue, an empty pipe, a counter, a flag, an interlock: tried again when it can issue -/
  | stalled
  /-- BAR (R251): launch-wide or not, and the id -/
  | barrier (launch : Bool) (id : Nat)
  /-- SLEEP until a cycle (R255) -/
  | sleep (until_ : Nat)
  /-- WAITM (R248) -/
  | monitor
  /-- BARW (R252): what its groups wait for, and the groups whose phase has changed -/
  | barw (waits : List PhaseWait) (changed : List Nat)
  /-- YIELD with a pending request (R266) -/
  | yield
  /-- parked by a replayable cause (R129): cause, failing threads, address of the first, the access is a write -/
  | replay (cause : Nat) (threads : List Nat) (address : Nat) (write : Bool)
  /-- parked at the header by a residency fault of the fetch (R164) -/
  | fetchReplay (address : Nat)
  /-- a trap was raised here, or the bundle stopped before a word that would trap in the skid (R307) -/
  | trapped
  deriving DecidableEq, Repr, Inhabited

/-- A started clause: the words as fetched (R167) and the header. -/
structure Clause where
  header : DWord
  words : List DWord
  deriving DecidableEq, Repr, Inhabited

/-- A source register as a replayed word first read it (R129). -/
structure Frozen where
  thread : Nat
  /-- operand number (R69) -/
  reg : Nat
  value : Word
  tag : Bool
  deriving DecidableEq, Repr, Inhabited

/-- A bundle (R26): live threads of one team at one clause address. -/
structure Bundle where
  /-- linear thread indices, rising -/
  members : List Nat
  /-- clause address H -/
  pc : DWord
  /-- the started clause; none while the bundle stands at the header -/
  clause : Option Clause := none
  /-- index of the next word -/
  idx : Nat := 0
  wait : Wait := .ready
  /-- at a header, the clause fetched and checked for it (R164 step 5) -/
  held : Option Clause := none
  /-- stands parked at a convergent header (R30) -/
  parked : Bool := false
  /-- stands at a regroup point (R28) -/
  regroup : Bool := false
  /-- runs the trap handler (R313) -/
  handler : Bool := false
  /-- its clause is the one that its alcove issues, word after word, until it ends or stalls (R295) -/
  going : Bool := false
  /-- cycle in which it last started a clause (R295) -/
  age : Nat := 0
  /-- cycle at which the word it waits at was first issued (R248, R252); for a parked access, the step (R126) -/
  since : Option Nat := none
  /-- source registers and ports as first read, while a word waits for its replay (R129) -/
  frozen : List Frozen := []
  /-- what it popped when it was first issued: port, group of a reply or 0, entry -/
  popped : List (Nat × Nat × Sparse Word) := []
  /-- the ranks of what it popped, by which an entry that is given back finds its place (R106); the model's own -/
  poppedRanks : List Nat := []
  /-- of a parked access, the groups that it counts for on c1 (LDVA) or c3 (R144) -/
  counted : List Nat := []
  /-- at a CBACQ, the groups that have a slot, with its address (R113) -/
  slots : List (Nat × Nat) := []
  /-- after a restore, the word index at which the clause goes on once it is fetched afresh (R300, R167) -/
  resume : Option Nat := none
  deriving DecidableEq, Repr, Inhabited

/-- A kernel's declarations (R159, R160). -/
structure Decl where
  width : Nat
  vregs : Nat
  sregs : Nat
  preds : Nat
  acc : Nat
  views : Nat
  scratchKB : Nat
  pair : Bool
  cooperative : Bool
  teamX : Nat
  teamY : Nat
  teamZ : Nat
  /-- address of the first clause -/
  entry : DWord
  handler : Option DWord
  deriving DecidableEq, Repr, Inhabited

/-- A circular buffer record (R112). -/
structure CBuf where
  valid : Bool := false
  nslot : Nat := 0
  slotsz : Nat := 0
  base : Nat := 0
  wix : Nat := 0
  rix : Nat := 0
  resv : Nat := 0
  filled : Nat := 0
  acq : Nat := 0
  /-- reserved slots whose copy is done, not yet handed over in slot order (R113) -/
  done : List Nat := []
  deriving DecidableEq, Repr, Inhabited

/-- A trap raised or taken: where it stands and its facts (R305, R309). -/
structure Trap where
  group : Nat
  /-- the faulting bundle; none for a group without a live thread (R303) -/
  bundle : Option Nat
  clause : DWord
  widx : Word
  /-- the 64 bits at the stop point -/
  word : DWord
  info : TrapInfo
  deriving DecidableEq, Repr, Inhabited

/-- How far a halt has come (R305, R313, R315). -/
inductive HaltPhase where
  /-- the halt is spreading and the team drains -/
  | stopping
  /-- the records are written and no handler runs -/
  | halted
  /-- the handler runs -/
  | handler
  deriving DecidableEq, Repr, Inhabited

/-- How far the records of a halt are written (R310). -/
inductive Posted where
  | nothing
  /-- each record is written; where the queue is used: the new TAIL, and whether it overflowed -/
  | records (tail : Option (Nat × Bool))
  /-- TAIL is advanced -/
  | tail
  deriving DecidableEq, Repr, Inhabited

/-- A halt of a team (R305). -/
structure Halt where
  trap : Trap
  phase : HaltPhase
  /-- taken in a handler (R314) -/
  nested : Bool := false
  seq : Word := 0
  posted : Posted := .nothing
  /-- the faulting bundle as it stopped, while its threads run the handler -/
  stop : Option Bundle := none
  /-- of a trap taken in the handler: the trap and SEQ of the halt that the handler serves -/
  outer : Option (Trap × Word) := none
  /-- identity before which stores were accepted when the records were written (R284) -/
  mark : Option Nat := none
  deriving DecidableEq, Repr, Inhabited

/-- An emulated matrix word waiting for the control core (R316): the tile's new value is fixed by the
captured operands, and enters the tile in its place. -/
structure Emulated where
  id : Nat
  tile : Nat
  accumulate : Bool
  format : Word
  /-- the captured fragments, 1 KiB each as bytes -/
  fragA : List Byte
  fragB : List Byte
  tag : Bool
  deriving DecidableEq, Repr, Inhabited

/-- A resident team (R20 to R23). -/
structure Team where
  decl : Decl
  vi : Nat
  /-- locator of the context descriptor -/
  ctx : DWord
  launch : Nat
  prio : Nat
  core : Nat
  pos : Nat
  teamX : Nat := 0
  teamY : Nat := 0
  teamZ : Nat := 0
  gridX : Nat := 1
  gridY : Nat := 1
  gridZ : Nat := 1
  args : DWord := 0
  /-- current scratch size in KiB (R92) -/
  scratchKB : Nat := 0
  /-- scratch bytes; bit 20 of the address names the odd core's half (R22) -/
  scratch : Memory := []
  /-- accumulator tiles: element (i, j) of tile a at 1024 a + 32 i + j; unlisted: 0 (R79) -/
  tiles : Sparse Word := []
  /-- one bounded tag per tile; unlisted: clear -/
  tileTags : Sparse Bool := []
  /-- lines of scratch, and tiles, that hold an uncorrectable error (R103) -/
  badScratch : List Nat := []
  badTiles : List Nat := []
  threads : List Thread
  groups : List Group
  bundles : List Bundle
  /-- q0 to q15 (R107): entries, oldest first, by home lane -/
  pipes : Sparse (List (Sparse Word)) := []
  /-- q16 (R110), oldest first -/
  notices : List Word := []
  /-- q17 to q23 (R111): port, addressed group, entry; oldest first -/
  replies : List (Nat × Nat × Sparse Word) := []
  /-- of each pipe, where it was last used: cycle, and place of the alcove in the order of R108; the model's own -/
  pipeUsed : Sparse (Nat × Nat) := []
  /-- of each queue port, the ranks of its oldest entries, in the order in which those entries came; the entries after
  them are younger than every ranked one. The model's own: a word that waits is given a rank with each entry it pops -/
  ranks : Sparse (List Nat) := []
  /-- the next rank; the model's own -/
  nextRank : Nat := 0
  cbufs : Sparse CBuf := []
  yieldreq : Bool := false
  /-- a yield request that waits for the team's resumption (R297) -/
  requested : Bool := false
  /-- the request is withdrawn at the end of the cycle, unless it is met in it (R297) -/
  withdrawing : Bool := false
  /-- the deadline counter: cycle of its load and the value loaded (R147) -/
  deadline : Option (Nat × Nat) := none
  /-- traps raised and not yet taken by the halt logic, in the order they reached it (R306) -/
  raised : List Trap := []
  halt : Option Halt := none
  /-- asynchronous faults reported and held, with their groups (R303, R306, R308) -/
  held : List (Nat × TrapInfo) := []
  /-- emulated matrix words, oldest first (R316) -/
  emulated : List Emulated := []
  /-- a save is decided and drains (R297, R299, R315): a full one, or an annotated one -/
  saving : Option Bool := none
  /-- the owner has aborted it (R315) -/
  aborted : Bool := false
  /-- step of its placement (R294) -/
  placedAt : Nat := 0
  deriving DecidableEq, Repr, Inhabited

/-- Where an access falls: bytes of scratch, of physical memory, or of a chained page (R88, R93, R102). -/
structure Place where
  scratch : Bool
  /-- scratch addresses, physical addresses, or offsets in the chained page -/
  bytes : List Nat
  /-- flight and page map entry of a chained page -/
  chain : Option (Nat × Nat) := none
  /-- home partition of a plain page: its die's slices perform the access (R90, R97), its gate checks it (R130) -/
  home : Nat := 0
  /-- die of the agent that makes the access, and whether it may write: a chained load goes to the serving step
  nearest that die, a chained store or atomic to the head (R133, R344) -/
  asker : Nat := 0
  write : Bool := false
  deriving DecidableEq, Repr, Inhabited

/-- The read-modify-write of an accepted atomic on a chained page (R116, R232). -/
structure Rmw where
  /-- AOP, or 15 for a CAS -/
  aop : Nat
  /-- operand, and the value that a CAS compares with -/
  operand : Nat
  compare : Nat := 0
  /-- scope of the acquire part, where there is one -/
  acquire : Option Nat := none
  deriving DecidableEq, Repr, Inhabited

/-- An accepted store that has not committed (R283), or an atomic on its way to the head of a flight (R116). -/
structure Store where
  id : Nat
  /-- identity of the word it belongs to -/
  word : Nat
  /-- c3 operation of a chained store -/
  op : Option Nat := none
  team : Nat
  thread : Nat
  clause : DWord
  widx : Word
  /-- address of the lane's access, and the first byte of this part in it -/
  va : DWord
  off : Nat := 0
  place : Place
  data : List Byte
  /-- of an atomic: what it computes -/
  rmw : Option Rmw := none
  /-- of an MSTS: the group whose program order it keeps (R222) -/
  tile : Option Nat := none
  /-- .atom: one indivisible write -/
  atomic : Bool := false
  /-- HINT of the access (R95) -/
  hint : Nat := 0
  /-- stranded, with the cause that R122 now gives (R284) -/
  stranded : Option (BitVec 8) := none
  deriving DecidableEq, Repr, Inhabited

/-- A register a completion writes. -/
structure RegWrite where
  thread : Nat
  /-- operand number (R69) -/
  reg : Nat
  value : Word
  tag : Bool := false
  deriving DecidableEq, Repr, Inhabited

/-- A lane of a load that has not taken its value (R142, R271). -/
structure Lane where
  thread : Nat
  /-- first byte of this part in the access: a b128 access is two parts, an L6 access three (R271) -/
  off : Nat := 0
  place : Place
  va : DWord
  /-- registers of D it fills, lowest first; none for a lane whose group takes another lane's value (R77) -/
  regs : List Nat
  /-- the value, once taken -/
  taken : Option Nat := none
  /-- the value is that of an accepted atomic, which takes it at the head of its flight (R116, R232) -/
  rmw : Bool := false
  deriving DecidableEq, Repr, Inhabited

/-- A projection request of one lane (R225, R235, R237). -/
structure Proj where
  thread : Nat
  view : View
  viewReg : Nat
  plinth : Nat
  /-- of an XMV, the plinth of its digital service (R226) -/
  digital : Option Nat := none
  /-- where the parts of the record lie, read when the plinth serves the request; none once it is read -/
  places : List Place
  /-- frames pinned for its lines (R123) -/
  pins : List Nat := []
  record : List Byte := []
  cstart : Nat
  count : Nat
  /-- first register of D, or none for a scratch row or a tile row -/
  reg : Option Nat
  /-- scratch row of LDVA -/
  row : Option Nat := none
  /-- tile of XMV.t -/
  tile : Option Nat := none
  deriving DecidableEq, Repr, Inhabited

/-- A marking under way to the plinths (R240, R241). -/
structure Marking where
  /-- plinths not reached yet -/
  plinths : List Nat
  desc : DWord
  /-- the generation that stays, or none for VINV: every generation is discarded -/
  keep : Option Word
  /-- arrays are withdrawn too: VPUB and VINV.x -/
  arrays : Bool
  matva : DWord
  /-- bytes of the matrix -/
  bytes : Nat
  deriving DecidableEq, Repr, Inhabited

/-- A counted word that has not completed (R140). -/
structure CWord where
  id : Nat
  team : Nat
  clause : DWord
  widx : Word
  /-- the flag it counts on -/
  flag : Option Nat
  /-- lowest-numbered group of its bundle, which names its alcove (R108); the model's own -/
  lead : Nat := 0
  /-- groups with an active lane -/
  groups : List Nat
  /-- bytes of the access, and sign extension from 8 or 16 bits, and the L6 form (R228, R230) -/
  size : Nat := 0
  signed : Bool := false
  l6 : Bool := false
  hint : Nat := 0
  lanes : List Lane := []
  projs : List Proj := []
  writes : List RegWrite := []
  markings : List Marking := []
  /-- XMV.t: the tile it writes, the rows formed so far by home lane, and whether arrays served any (R226) -/
  tile : Option Nat := none
  rows : List (Nat × List Word) := []
  bounded : Bool := false
  /-- groups that wait for the firmware's reply (R264) -/
  calls : List Nat := []
  /-- the pipe in which the word's entry has a slot from issue on (R107) -/
  pipe : Option Nat := none
  /-- a matrix operation or a group call: a halt waits for it, also where no flag counts it (R216, R320) -/
  awaited : Bool := false
  deriving DecidableEq, Repr, Inhabited

/-- A lane of a copy (R256, R257). -/
structure CopyLane where
  thread : Nat
  src : DWord
  srcScratch : Bool
  dst : DWord
  dstScratch : Bool
  count : Nat
  /-- of the lanes of one thread in one operation (R117), which one this is -/
  nth : Nat := 0
  /-- 16-byte units moved -/
  moved : List Nat := []
  /-- frames pinned (R123) -/
  pins : List Nat := []
  /-- ended by a fault -/
  failed : Bool := false
  /-- CPYC: the slot reserved -/
  slot : Option Nat := none
  /-- CPYC: the slot was marked done -/
  done : Bool := false
  deriving DecidableEq, Repr, Inhabited

/-- What an engine operation does (R144). -/
inductive OpKind where
  | copy (lanes : List CopyLane)
  | cpyc (buf : Nat) (lanes : List CopyLane)
  /-- LDVA: its requests, and the writes to D at retirement (R237) -/
  | view (projs : List Proj) (writes : List RegWrite)
  /-- XPROG: view register, its content, plinths still programming, status reached -/
  | xprog (reg : Nat) (view : View) (plinths : List Nat) (status : Nat)
  /-- XCAL: arrays still retrimming, by their calibration key -/
  | xcal (arrays : List Nat)
  /-- a chained store or atomic -/
  | chained
  /-- FLINK, FCUT, FSWAP: flight, the joining die, the leaving die -/
  | relink (flight : Nat) (joining : Option Nat) (leaving : Option Nat)
  deriving DecidableEq, Repr, Inhabited

/-- An engine operation that has not retired, in issue order (R145). -/
structure Op where
  id : Nat
  team : Nat
  group : Nat
  cls : Nat
  clause : DWord
  widx : Word
  hint : Nat := 0
  kind : OpKind
  /-- of XPROG, the group's threads that were active: those of its access (R301) -/
  lanes : List Nat := []
  done : Bool := false
  deriving DecidableEq, Repr, Inhabited

/-- A write of a bit of RES that a plinth has still to make (R350): through the translation of a context, at a
descriptor's address. -/
structure ResWrite where
  id : Nat
  ctx : DWord
  vi : Nat
  die : Nat
  desc : Nat
  bit : Nat
  on : Bool
  deriving DecidableEq, Repr, Inhabited

/-- A chained store on its way through the steps of its flight (R102, R116, R133). -/
structure Flying where
  id : Nat
  flight : Nat
  entry : Nat
  /-- die whose landing buffer holds it -/
  die : Nat
  offsets : List Nat
  data : List Byte
  team : Nat
  thread : Nat
  op : Nat
  /-- applied at the die, whose forwarding is held (R133, R116) -/
  applied : Bool := false
  /-- HINT of the access, recorded at the head (R95) -/
  hint : Nat := 0
  /-- address and originating word, for the fault of a gate (R130) -/
  va : DWord := 0
  clause : DWord := 0
  widx : Word := 0
  deriving DecidableEq, Repr, Inhabited

/-- A tail acknowledgement on its way (R102, R133): dies still to clean, nearest the tail first. -/
structure Ack where
  id : Nat
  op : Nat
  flight : Nat
  entry : Nat
  line : Nat
  dies : List Nat
  team : Nat := 0
  thread : Nat := 0
  /-- address and originating word, for the fault of a gate (R130) -/
  va : DWord := 0
  clause : DWord := 0
  widx : Word := 0
  deriving DecidableEq, Repr, Inhabited

/-- A T0 frame descriptor (R123). -/
structure Frame where
  refs : Nat := 0
  pins : Nat := 0
  /-- 0 free, 1 in use, 2 draining, 3 migrating -/
  state : Nat := 0
  tier : Nat := 0
  vi : Nat := 0
  next : Nat
  loc : Nat
  rmpa : Nat := 0
  rmpart : Nat := 0
  deriving DecidableEq, Repr, Inhabited

/-- A partition table entry (R130). -/
structure Part where
  freecnt : Nat := 520192
  freehead : Nat := 0
  owned : Bool := false
  vi : Nat := 0
  l2sh : Bool := false
  deriving DecidableEq, Repr, Inhabited

/-- A virtual interface entry (R131). -/
structure Vi where
  far1 : DWord := 0
  n1 : Nat := 0
  far2 : DWord := 0
  n2 : Nat := 0
  deriving DecidableEq, Repr, Inhabited

/-- A flight entry (R132). -/
structure Flight where
  pmap : DWord := 0
  npage : Nat := 0
  copypos : Nat := 0
  steps : DWord := 0
  owner : Nat := 0
  valid : Bool := false
  /-- dies whose step was the tail when it was cut (R132); the model's own -/
  cutTails : List Nat := []
  deriving DecidableEq, Repr, Inhabited

/-- A crossbar calibration entry (R137), with the context whose XPROG started it (R350). -/
structure ArrayEntry where
  desc : DWord := 0
  gen : Word := 0
  progs : Nat := 0
  drift : Nat := 0
  /-- 0 erased, 1 programming, 2 resident, 3 drifting, 4 retired -/
  ast : Nat := 0
  iblk : Nat := 0
  cblk : Nat := 0
  since : Nat := 0
  ctx : DWord := 0
  vi : Nat := 0
  /-- step of its last use (R100) -/
  used : Nat := 0
  /-- the matrix its conductances were programmed from -/
  weights : List Byte := []
  /-- whom to tell of the retrim (R110, R317): launch and index of the team, view register and group -/
  alerts : List (Nat × Word × Nat × Nat) := []
  deriving DecidableEq, Repr, Inhabited

/-- A view cache line (R99). -/
structure VLine where
  plinth : Nat
  /-- matrix line address -/
  line : Nat
  gen : Word
  vi : Nat
  marked : Bool := false
  data : List Byte
  used : Nat := 0
  /-- holds an uncorrectable error (R103) -/
  bad : Bool := false
  deriving DecidableEq, Repr, Inhabited

/-- A line cached in the L2 (R95, R96). -/
structure L2Line where
  /-- physical line number -/
  line : Nat
  /-- slice that caches it, by number in the module: 32 per die (R90, R97) -/
  slice : Nat := 0
  dirty : Bool
  hint : Nat := 0
  used : Nat := 0
  deriving DecidableEq, Repr, Inhabited

/-- A copy of a global line in an L1 (R91, R95). -/
structure L1Line where
  line : Nat
  /-- its 128 bytes by offset; unlisted: 0 -/
  data : Memory
  hint : Nat := 0
  used : Nat := 0
  /-- holds an uncorrectable error (R103) -/
  bad : Bool := false
  deriving DecidableEq, Repr, Inhabited

/-- A clause a core has fetched (R164): for which context, address, header and words. -/
structure Fetched where
  ctx : DWord
  pc : DWord
  clause : Clause
  deriving DecidableEq, Repr, Inhabited

/-- A core (R91, R164, R247). -/
structure Core where
  fetched : List Fetched := []
  l1 : List L1Line := []
  /-- monitored lines it tracks, oldest first, at most 256 -/
  tracked : List Nat := []
  deriving DecidableEq, Repr, Inhabited

/-- A group call (R319); the word it answers is its reply routing. -/
structure Call where
  word : Nat
  team : Nat
  ctx : DWord
  vi : Nat
  teamIx : Word
  group : Nat
  core : Nat
  service : Word
  /-- active lanes: home lane, thread, request word -/
  lanes : List (Nat × Nat × Word)
  /-- first register of D -/
  dest : Nat
  deriving DecidableEq, Repr, Inhabited

/-- A migration under way (R128): the source frame and the target frame, each by tier, partition and location. -/
structure Move where
  tier : Nat
  home : Nat
  loc : Nat
  toTier : Nat
  toHome : Nat
  toLoc : Nat
  deriving DecidableEq, Repr, Inhabited

/-- A migration request (R115): the page that a residency or copy-on-write fault needs, or that a MIGRATE command
moves. -/
structure Migrate where
  ctx : DWord
  vi : Nat
  va : DWord
  /-- of a MIGRATE command: the target tier and partition -/
  target : Option (Nat × Nat) := none
  /-- once the migration has begun (R128 step 1) -/
  begun : Option Move := none
  deriving DecidableEq, Repr, Inhabited

/-- A reply entry for a port q17 to q23 (R111) that firmware keeps until the port has room: team by launch and index,
addressed group, port, and the entry by home lane. -/
structure Reply where
  launch : Nat
  teamIx : Word
  group : Nat
  port : Nat
  entry : Sparse Word
  deriving DecidableEq, Repr, Inhabited

/-- A die: control core queues, measurements, service state (R115, R329 to R331, R149). -/
structure Die where
  service : List Call := []
  /-- reply entries that its firmware still owes to reply ports (R111, R299) -/
  owed : List Reply := []
  migration : List Migrate := []
  m0 : BitVec 512 := 0
  m1 : BitVec 512 := 0
  m2 : BitVec 512 := 0
  m3 : BitVec 512 := 0
  /-- digest of the staged image -/
  staged : Option (BitVec 512) := none
  /-- digest of the image that a switch under way activates (R330) -/
  activating : Option (BitVec 512) := none
  /-- digest of the running image -/
  firmware : BitVec 512 := 0
  switching : Bool := false
  out : Bool := false
  /-- DIEOUT still waits for a drain -/
  leaving : Bool := false
  /-- no link reaches it any more, and it is not yet taken out (R328) -/
  lost : Bool := false
  /-- step of the die's reset: %cycle counts from it (R149) -/
  resetAt : Nat := 0
  deriving DecidableEq, Repr, Inhabited

/-- A launch queue of a function (R114, R322). -/
structure LQueue where
  reg : DWord := 0
  head : Word := 0
  /-- TAIL as the scheduler last saw it -/
  tail : Word := 0
  stopped : Bool := false
  deriving DecidableEq, Repr, Inhabited

/-- A function's register window (R322). -/
structure Fn where
  lq : Sparse LQueue := []
  cmdq : DWord := 0
  cmdtail : Word := 0
  cmdhead : Word := 0
  errrec : DWord := 0
  errlost : Bool := false
  /-- of a MIGRATE command that its ring waits for: 0 while its request is queued, then its STATUS -/
  moved : Option Nat := none
  /-- its CXL.mem window: first bus address, and the context whose global addresses the offsets name (R321, R351) -/
  window : Option (Nat × DWord) := none
  deriving DecidableEq, Repr, Inhabited

/-- A die link (R328). -/
structure Link where
  failures : Nat := 0
  spares : Nat := 2
  up : Bool := true
  deriving DecidableEq, Repr, Inhabited

/-- A launch read and not ended (R286 to R289). -/
structure Launch where
  id : Nat
  fn : Nat
  prio : Nat
  /-- the packet's ring index, which is HEAD as it was read (R114, R139, R326) -/
  index : Word
  /-- the address of the packet's slot (R114) -/
  slot : Nat
  vi : Nat
  ctx : DWord
  decl : Decl
  gridX : Nat
  gridY : Nat
  gridZ : Nat
  dietab : Word
  dshift : Nat
  sshift : Nat
  args : DWord
  wait : Option (DWord × DWord)
  signal : Option (DWord × DWord)
  /-- the wait counter was met (R288) -/
  begun : Bool := false
  /-- teams placed, in %team order -/
  placed : Nat := 0
  ended : Nat := 0
  deriving DecidableEq, Repr, Inhabited

/-- A saved team (R299, R300): its launch data, and what neither its save area nor its queue save block holds. -/
structure Saved where
  id : Nat
  /-- the team without its registers, memories, queues and thread positions -/
  team : Team
  full : Bool
  /-- re-links that go on, or have completed, while it is saved -/
  relinks : List Op
  /-- threads of the set-aside CPYC records, in their order (R117) -/
  lanes : List Nat
  /-- of a halted team, the threads of the faulting bundle -/
  faulter : List Nat
  /-- of a team halted by a nested trap, the threads that ran its handler (R314, R315) -/
  handlers : List Nat := []
  /-- slots that groups waiting at a CBACQ have got: thread, group, address -/
  slots : List (Nat × Nat × Nat)
  /-- its stores that a stranded store holds, and that store (R284) -/
  stores : List Store
  /-- first addresses and sizes of its save area and its queue save block (log 20) -/
  areaAt : Nat
  areaSize : Nat
  queueAt : Nat
  queueSize : Nat
  deriving DecidableEq, Repr, Inhabited

/-- The machine. -/
structure State where
  /-- memory as the L2 sees it: T0 of partition p at 2^35 p, T1 at 2^40, T2 at 2^49 (R13, R15, R89, R97) -/
  mem : Memory
  /-- the CXL pools' own copy (R103, R285) -/
  pool : Memory
  /-- host memory by bus address (R325) -/
  hostMem : Memory
  l2 : List L2Line
  /-- poisoned physical line numbers (R103) -/
  poison : List Nat
  /-- frame tables: frame f of partition p at 2^19 p + f; unlisted: free (R123) -/
  frames : Sparse Frame
  parts : Sparse Part
  /-- how many reserved frames the page-table directories have taken; the model's own (log 5) -/
  tableNext : Nat
  vis : Sparse Vi
  flights : Sparse Flight
  landing : List Flying
  /-- dirty lines of chained pages: die, flight, page map entry, line of the page (R102) -/
  chainDirty : List (Nat × Nat × Nat × Nat)
  acks : List Ack
  /-- calibration tables: array a of plinth q of die d at 64 (32 d + q) + a (R137) -/
  arrays : Sparse ArrayEntry
  vcache : List VLine
  dies : Sparse Die
  fns : Sparse Fn
  ready : Bool
  suspended : Bool
  /-- stopped by overtemperature (R333) -/
  stopped : Bool
  throttled : Bool
  links : Sparse Link
  launches : List Launch
  saved : List Saved
  /-- halts of each context, by its locator (R309) -/
  ctxSeq : Sparse Word
  /-- resident teams by 32 core + position (R311) -/
  teams : Sparse Team
  cores : Sparse Core
  stores : List Store
  /-- writes of RES that wait, oldest first -/
  resWrites : List ResWrite
  words : List CWord
  ops : List Op
  /-- number of the step -/
  now : Nat
  /-- identity of the next word, store or operation; 0 names none -/
  nextId : Nat
  /-- index of the next free value -/
  freeIx : Nat
  /-- the bundle whose word issues: team key and index -/
  cur : Option (Nat × Nat)
  /-- what moves next -/
  sched : List Turn
  deriving DecidableEq, Repr, Inhabited

/-- The module right after reset: power applied, bring-up not yet done (R332). Every memory and table reads
zero, no partition is owned, every frame is free, no team is resident, READY is 0. Logs 1 to 5 name the
values the manual does not state. -/
def State.reset : State where
  mem := []
  pool := []
  hostMem := []
  l2 := []
  poison := []
  frames := []
  parts := []
  tableNext := 0
  vis := []
  flights := []
  landing := []
  chainDirty := []
  acks := []
  arrays := []
  vcache := []
  dies := []
  fns := []
  ready := false
  suspended := false
  stopped := false
  throttled := false
  links := []
  launches := []
  saved := []
  ctxSeq := []
  teams := []
  cores := []
  stores := []
  resWrites := []
  words := []
  ops := []
  now := 0
  nextId := 1
  freeIx := 0
  cur := none
  sched := []

/-- The outcome of a step of this machine. -/
abbrev Out : Type := Host.Outcome State Fault Refusal

end Sys2Proof.Machine
end

