-- ==== Sys2Proof/Machine/Ops.lean ====
section
/-!
DEFINITION. The named operations over the state: tables, geometry, memory as the slices and the L1s see it
(R88 to R103), stores and their commit (R271, R283), releases and acquires (R273), and taking a trap and
returning from it (R301 to R308, R313, R314, R267).
-/
namespace Sys2Proof.Machine

/-! ### Lists -/

/-- Replaces the element at a position. -/
def updateAt {α : Type} (l : List α) (i : Nat) (f : α → α) : List α :=
  match l, i with
  | [], _ => []
  | x :: xs, 0 => f x :: xs
  | x :: xs, i + 1 => x :: updateAt xs i f

/-- `n`, `n + 1`, up to `n + k - 1`. -/
def upFrom (n k : Nat) : List Nat :=
  match k with
  | 0 => []
  | k + 1 => n :: upFrom (n + 1) k

/-- Inserts into a rising list of numbers. -/
def insertUp (l : List Nat) (x : Nat) : List Nat :=
  match l with
  | [] => [x]
  | y :: ys => if x < y then x :: y :: ys else if x = y then y :: ys else y :: insertUp ys x

/-- The numbers of a list, rising, without repeats. -/
def sortUp (l : List Nat) : List Nat := l.foldl insertUp []

/-- Sorts by a key, keeping the order of equal keys. -/
def sortByKey {α : Type} (key : α → Nat) (l : List α) : List α :=
  l.foldr ins []
where
  /-- inserts before the first element with a key that is not smaller -/
  ins (x : α) : List α → List α
    | [] => [x]
    | y :: ys => if key x ≤ key y then x :: y :: ys else y :: ins x ys

/-- Bits `[hi:lo]` of a number. -/
def bits (x hi lo : Nat) : Nat := x / 2 ^ lo % 2 ^ (hi - lo + 1)

/-- One bit of a number. -/
def tbit (x i : Nat) : Bool := x / 2 ^ i % 2 = 1

/-! ### Tables -/

def State.team (s : State) (k : Nat) : Option Team := Sparse.find s.teams k

def State.setTeam (s : State) (k : Nat) (t : Team) : State := { s with teams := Sparse.insert s.teams k t }

/-- Applies a change to a resident team. -/
def State.mapTeam (s : State) (k : Nat) (f : Team → Team) : State :=
  match s.team k with
  | some t => s.setTeam k (f t)
  | none => s

def State.core (s : State) (c : Nat) : Core := Sparse.get s.cores {} c

def State.setCore (s : State) (c : Nat) (x : Core) : State := { s with cores := Sparse.put s.cores {} c x }

/-- A free frame as it stands before anything has used it (R123, R130). -/
def freshFrame (f : Nat) : Frame := { next := if f = 520191 then 0xFFFFFFFF else f + 1, loc := f }

/-- Key of a frame: 524,288 per partition (R89). -/
def frameKey (p f : Nat) : Nat := p * 524288 + f

def State.frame (s : State) (k : Nat) : Frame := Sparse.get s.frames (freshFrame (k % 524288)) k

def State.setFrame (s : State) (k : Nat) (x : Frame) : State :=
  { s with frames := Sparse.put s.frames (freshFrame (k % 524288)) k x }

def State.part (s : State) (p : Nat) : Part := Sparse.get s.parts {} p

def State.setPart (s : State) (p : Nat) (x : Part) : State := { s with parts := Sparse.put s.parts {} p x }

def State.viEntry (s : State) (v : Nat) : Vi := Sparse.get s.vis {} v

def State.flight (s : State) (f : Nat) : Flight := Sparse.get s.flights {} f

def State.setFlight (s : State) (f : Nat) (x : Flight) : State :=
  { s with flights := Sparse.put s.flights {} f x }

def State.die (s : State) (d : Nat) : Die := Sparse.get s.dies {} d

def State.setDie (s : State) (d : Nat) (x : Die) : State := { s with dies := Sparse.put s.dies {} d x }

def State.fn (s : State) (f : Nat) : Fn := Sparse.get s.fns {} f

/-- The physical function; function v below it is that of virtual interface v (R16). -/
def physicalFn : Nat := 64

def State.setFn (s : State) (f : Nat) (x : Fn) : State := { s with fns := Sparse.put s.fns {} f x }

def State.array (s : State) (k : Nat) : ArrayEntry := Sparse.get s.arrays {} k

def State.setArray (s : State) (k : Nat) (x : ArrayEntry) : State :=
  { s with arrays := Sparse.put s.arrays {} k x }

def State.word (s : State) (id : Nat) : Option CWord := s.words.find? (fun w => w.id = id)

def State.setWord (s : State) (w : CWord) : State :=
  { s with words := s.words.map (fun x => if x.id = w.id then w else x) }

def State.op (s : State) (id : Nat) : Option Op := s.ops.find? (fun o => o.id = id)

def State.setOp (s : State) (o : Op) : State :=
  { s with ops := s.ops.map (fun x => if x.id = o.id then o else x) }

/-! ### Geometry (R12, R14) -/

/-- Partition of a core: ten cores a quadrant. -/
def corePart (c : Nat) : Nat := c / 10

/-- Die of a core. -/
def coreDie (c : Nat) : Nat := c / 40

/-- Hops between dies: rows of four, column first (R14). -/
def dieHops (d e : Nat) : Nat := (d % 4 - e % 4) + (e % 4 - d % 4) + (d / 4 - e / 4) + (e / 4 - d / 4)

/-- The cores a team runs on: one, or the two of its pair (R22). -/
def Team.coreList (t : Team) : List Nat := if t.decl.pair then [t.core, t.core + 1] else [t.core]

/-- Groups on the even core of a pair (R22). -/
def Team.evenGroups (t : Team) : Nat := (t.groups.length + 1) / 2

/-- Core of a group (R22). -/
def Team.coreOf (t : Team) (g : Nat) : Nat :=
  if t.decl.pair && t.evenGroups ≤ g then t.core + 1 else t.core

/-- Group of a thread (R21). -/
def Team.groupOf (t : Team) (th : Nat) : Nat := th / t.decl.width

/-- Home lane of a thread (R21). -/
def Team.laneOf (t : Team) (th : Nat) : Nat := th % t.decl.width

/-- Key of a team (R311). -/
def Team.key (t : Team) : Nat := 32 * t.core + t.pos

/-- Clocks of a core since its die's reset (R149): the free clocks of the steps (log 2). -/
def State.cycle (s : State) (c : Nat) : Nat :=
  let from_ := (s.die (coreDie c)).resetAt
  (upFrom from_ (s.now - from_)).foldl (fun n k => n + Config.clocks k c) 0 % 2 ^ 64

/-! ### Memory as the slices see it (R89, R90, R96, R97, R103) -/

/-- Where T1 begins. -/
def t1Base : Nat := 2 ^ 40

/-- Where T2 begins. -/
def t2Base : Nat := 2 ^ 49

/-- Whether a physical address lies in T1. -/
def isT1 (a : Nat) : Bool := t1Base ≤ a && a < t2Base

/-- Line of a physical address. -/
def lineOf (a : Nat) : Nat := a / 128

/-- A byte as the slices see it: a T1 line that the L2 does not cache is the pool's. -/
def State.byte (s : State) (a : Nat) : Byte :=
  if isT1 a && !(s.l2.any (fun l => l.line = lineOf a)) then s.pool.read (a - t1Base) else s.mem.read a

/-- Bytes as the slices see them. -/
def State.bytes (s : State) (as : List Nat) : List Byte := as.map s.byte

/-- `n` bytes from a physical address as a number. -/
def State.readPhys (s : State) (a n : Nat) : Nat := ofBytesLE (s.bytes (upFrom a n))

/-- The XOR of R90 for the line of an address. -/
def sliceHash (a : Nat) : Nat :=
  (bits a 9 7 ^^^ bits a 12 10 ^^^ bits a 15 13 ^^^ bits a 18 16) % 8

/-- Plinth beside the slice that caches a line of T0, by number in the module: 32 per die (R12, R90). -/
def t0Plinth (a : Nat) : Nat := a / 2 ^ 35 * 8 + sliceHash (a % 2 ^ 35)

/-- Plinth beside the slice that caches a T1 line of a home partition (R97). -/
def State.t1Plinth (s : State) (home a : Nat) : Nat :=
  let pa := a - t1Base
  if (s.part home).l2sh then
    home / 4 * 32 + (bits pa 11 7 ^^^ bits pa 16 12 ^^^ bits pa 21 17) % 32
  else home * 8 + sliceHash pa

/-- The slice that caches a line (R90, R97), numbered as the plinth beside it. -/
def State.sliceOf (s : State) (home line : Nat) : Nat :=
  if isT1 (line * 128) then s.t1Plinth home (line * 128) else t0Plinth (line * 128)

/-- The line a set of cached lines gives up (R95), from line, hint and last use of each: a streaming line first, then
a default one, then a sticky one; the least recently used within a class. -/
def victimOf (l : List (Nat × Nat × Nat)) : Option Nat :=
  let rank (h : Nat) : Nat := if h = 1 then 0 else if h = 0 then 1 else 2
  ((sortByKey (fun x => rank x.2.1) (sortByKey (fun x => x.2.2) l)).head?).map (·.1)

/-- Writes a dirty line back to its tier (R96): a T1 line to the pool. -/
def State.writeBack (s : State) (line : Nat) : State :=
  if s.l2.any (fun l => l.line = line && l.dirty) then
    { s with
      pool := if isT1 (line * 128)
        then (upFrom (line * 128) 128).foldl (fun p a => p.write (a - t1Base) (s.mem.read a)) s.pool
        else s.pool
      l2 := s.l2.map (fun l => if l.line = line then { l with dirty := false } else l) }
  else s

/-- Drops a line from the L2 after its write-back. -/
def State.dropL2 (s : State) (line : Nat) : State :=
  let s := s.writeBack line
  { s with l2 := s.l2.filter (fun l => l.line ≠ line) }

/-- The cached lines of the set of a slice in which a line would lie (R96: 2,048 sets; log 67). -/
def State.l2Set (s : State) (slice line : Nat) : List L2Line :=
  s.l2.filter (fun l => l.slice = slice && Config.l2Set l.line % 2048 = Config.l2Set line % 2048)

/-- The line that a set of 12 ways gives up for one more (R95, R96); a slice with fewer than 12 lines has room. -/
def State.victimL2 (s : State) (slice line : Nat) : Option Nat :=
  if (s.l2.filter (fun l => l.slice = slice)).length < 12 || (s.l2Set slice line).length < 12 then none
  else victimOf ((s.l2Set slice line).map (fun l => (l.line, l.hint, l.used)))

/-- Makes room for a line in its set (R96): the victim is written back where it is dirty. -/
def State.roomL2 (s : State) (slice line : Nat) : State :=
  match s.victimL2 slice line with
  | some v => s.dropL2 v
  | none => s

/-- Brings a line of a home partition into its L2 slice (R90, R95 to R97): a T1 line is read from the pool. Bypass
replaces no recorded hint. -/
def State.cacheLine (s : State) (line home hint : Nat) (dirty : Bool) : State :=
  if s.l2.any (fun l => l.line = line) then
    { s with l2 := s.l2.map (fun l => if l.line = line then
        { l with dirty := l.dirty || dirty, used := s.now, hint := if hint = 3 then l.hint else hint } else l) }
  else
    let slice := s.sliceOf home line
    let s := s.roomL2 slice line
    let fill (m : Memory) (a : Nat) : Memory := m.write a (s.pool.read (a - t1Base))
    let s := if isT1 (line * 128) then { s with mem := (upFrom (line * 128) 128).foldl fill s.mem } else s
    { s with l2 := ⟨line, slice, dirty, if hint = 3 then 1 else hint, s.now⟩ :: s.l2 }

/-- Writes bytes of one line at its slice. -/
def State.pokeLine (s : State) (home hint : Nat) (ps : List (Nat × Byte)) (line : Nat) : State :=
  let s := s.cacheLine line home hint true
  { s with mem := s.mem.writeBytes (ps.filter (fun p => lineOf p.1 = line)) }

/-- Writes bytes of one or more lines at the slices. -/
def State.pokeBytes (s : State) (home hint : Nat) (ps : List (Nat × Byte)) : State :=
  (sortUp (ps.map (fun p => lineOf p.1))).foldl (fun s l => s.pokeLine home hint ps l) s

/-- Drops the copies of a line from an L1 (R91). -/
def State.dropL1 (s : State) (c line : Nat) : State :=
  let x := s.core c
  s.setCore c { x with l1 := x.l1.filter (fun l => l.line ≠ line) }

/-- Drops every copy of an L1 (R91, R245). -/
def State.clearL1 (s : State) (c : Nat) : State := s.setCore c { s.core c with l1 := [] }

/-- Drops a line from every L1 that holds it (R91, R244). -/
def State.dropAllL1 (s : State) (line : Nat) : State :=
  (s.cores.map (·.1)).foldl (fun s c => s.dropL1 c line) s

/-- Zeroes bytes of memory: no cached copy of them stays (R105). -/
def State.zeroPhys (s : State) (lo hi : Nat) : State :=
  let s := (s.cores.map (·.1)).foldl (fun s c =>
    let x := s.core c
    s.setCore c { x with l1 := x.l1.filter (fun l => l.line < lo / 128 || (hi + 127) / 128 ≤ l.line) }) s
  { s with
    mem := s.mem.zero lo hi
    pool := if isT1 lo then s.pool.zero (lo - t1Base) (hi - t1Base) else s.pool
    l2 := s.l2.filter (fun l => l.line < lo / 128 || (hi + 127) / 128 ≤ l.line)
    poison := s.poison.filter (fun l => l < lo / 128 || (hi + 127) / 128 ≤ l) }

/-- Whether an access to these bytes meets a poisoned line (R103). -/
def State.poisoned (s : State) (as : List Nat) : Bool := as.any (fun a => s.poison.contains (lineOf a))

/-! ### Registers and memories of a team -/

def Team.thread (t : Team) (i : Nat) : Thread := t.threads.getD i { live := false }

def Team.group (t : Team) (g : Nat) : Group := t.groups.getD g {}

def Team.mapThread (t : Team) (i : Nat) (f : Thread → Thread) : Team :=
  { t with threads := updateAt t.threads i f }

def Team.mapGroup (t : Team) (g : Nat) (f : Group → Group) : Team :=
  { t with groups := updateAt t.groups g f }

def Team.bundle (t : Team) (b : Nat) : Option Bundle := t.bundles[b]?

def Team.mapBundle (t : Team) (b : Nat) (f : Bundle → Bundle) : Team :=
  { t with bundles := updateAt t.bundles b f }

def Group.flag (g : Group) (i : Nat) : Nat := Sparse.get g.flags 0 i

def Group.counter (g : Group) (i : Nat) : Nat := Sparse.get g.counters 0 i

def Group.addFlag (g : Group) (i : Nat) : Group :=
  { g with flags := Sparse.put g.flags 0 i (g.flag i + 1) }

def Group.subFlag (g : Group) (i : Nat) : Group :=
  { g with flags := Sparse.put g.flags 0 i (g.flag i - 1) }

def Group.addCounter (g : Group) (i : Nat) : Group :=
  { g with counters := Sparse.put g.counters 0 i (g.counter i + 1) }

def Group.subCounter (g : Group) (i : Nat) : Group :=
  { g with counters := Sparse.put g.counters 0 i (g.counter i - 1) }

/-- Threads of the team that live, in linear order; in a handler, only the handler's count (R314). -/
def Team.liveThreads (t : Team) : List Nat :=
  (upFrom 0 t.threads.length).filter (fun i => (t.thread i).live)

/-- Live threads of a group; a group with a handler counts the handler's alone (R314). -/
def Team.liveOf (t : Team) (g : Nat) : List Nat :=
  let inHandler := (t.bundles.filter (·.handler)).flatMap (·.members)
  let all := (upFrom (g * t.decl.width) t.decl.width).filter (fun i => (t.thread i).live)
  let h := all.filter inHandler.contains
  if h.isEmpty then all else h

/-- Mask of home lanes (R309). -/
def Team.mask (t : Team) (threads : List Nat) : DWord :=
  threads.foldl (fun m th => m ||| (1#64 <<< t.laneOf th)) 0

/-- The linear team index of R21, modulo 2^32 (R81). -/
def Team.index (t : Team) : Word :=
  BitVec.ofNat 32 (t.teamX + t.gridX * (t.teamY + t.gridY * t.teamZ))

/-! ### Monitors (R247, R248) and waits for a phase (R252) -/

/-- A monitor records a write made in a cycle: after the bound of its thread's wait has passed it no longer does. A bound
that falls due in a halt is reached at the resumption (R308). -/
def Monitor.record (m : Monitor) (cycle : Nat) : Monitor :=
  match m.until_ with
  | some u => if u < cycle && !m.held then m else { m with written := true }
  | none => { m with written := true }

/-- The monitor of a thread that a halt stops in a cycle, and that of one that runs on in a cycle (R308). -/
def Monitor.stop (m : Monitor) (cycle : Nat) : Monitor :=
  { m with held := m.held || (match m.until_ with
      | some u => cycle ≤ u
      | none => false) }
def Monitor.resume (m : Monitor) (cycle : Nat) : Monitor :=
  if m.held then { m with until_ := m.until_.map (max cycle), held := false } else m

/-- Records a write in the monitors that satisfy a condition, given core and line. -/
def State.recordWhere (s : State) (hit : Nat → Nat → Bool) : State :=
  { s with teams := s.teams.map (fun kt => (kt.1, { kt.2 with threads := kt.2.threads.zipIdx.map (fun x =>
      let core := kt.2.coreOf (kt.2.groupOf x.2)
      match x.1.monitor with
      | some m => if hit core m.line then { x.1 with monitor := some (m.record (s.cycle core)) } else x.1
      | none => x.1) })) }

/-- Records a write to lines in every monitor armed on them. -/
def State.recordWrite (s : State) (lines : List Nat) : State := s.recordWhere (fun _ l => lines.contains l)

/-- PHASE of the barrier object at a scratch address (R104). -/
def Team.phase (t : Team) (a : Nat) : Nat := bits (t.scratch.readLE a 16) 27 24

/-- Whether a change of phase in a cycle still counts for a group (R252): its bound has not passed, or it stands halted
and is reached at the resumption (R308). -/
def PhaseWait.counts (x : PhaseWait) (t : Team) (cycle : Nat → Nat) : Bool :=
  x.held || cycle (t.coreOf x.group) ≤ x.until_

/-- The groups whose phase differs, from those for which it did before: once a group's bound has passed its answer
stands. A phase that has come round again is no change (R252). -/
def Team.changedPhases (t : Team) (cycle : Nat → Nat) (ws : List PhaseWait) (changed : List Nat) : List Nat :=
  (ws.filter (fun x => if x.counts t cycle then t.phase x.object ≠ x.phase else changed.contains x.group)).map (·.group)

/-- What a group that a halt stops in a cycle waits for, and what one that runs on in a cycle does (R308). -/
def PhaseWait.stop (x : PhaseWait) (cycle : Nat) : PhaseWait := { x with held := x.held || decide (cycle ≤ x.until_) }
def PhaseWait.resume (x : PhaseWait) (cycle : Nat) : PhaseWait :=
  if x.held then { x with until_ := max cycle x.until_, held := false } else x

/-- Changes the bounds of the waits of some bundles (R248, R252, R308), given the cycle of each group's core. -/
def Team.mapBounds (t : Team) (which : Bundle → Bool) (m : Monitor → Nat → Monitor)
    (p : PhaseWait → Nat → PhaseWait) (cycle : Nat → Nat) : Team :=
  let at_ (g : Nat) : Nat := cycle (t.coreOf g)
  let waits (th : Nat) : Bool := t.bundles.any (fun b => which b && b.wait = .monitor && b.members.contains th)
  { t with
    threads := t.threads.zipIdx.map (fun x =>
      if waits x.2 then { x.1 with monitor := x.1.monitor.map (fun y => m y (at_ (t.groupOf x.2))) } else x.1)
    bundles := t.bundles.map (fun b => match b.wait with
      | .barw ws l => if which b then { b with wait := .barw (ws.map (fun x => p x (at_ x.group))) l } else b
      | _ => b) }

/-- Whether a bundle's word has been issued already and is tried for the end of its wait (R252). -/
def Bundle.again (b : Bundle) : Bool :=
  match b.wait with
  | .barw .. => true
  | _ => false

/-- A BARW whose wait is over when a halt reaches its bundle, its objects' phases changed or its bounds passed, waits no
more: its clause goes on in the skid (R252, R307). -/
def Bundle.goesOn (b : Bundle) : Bundle :=
  match b.wait with
  | .barw ws changed => { b with going := b.going || ws.all (fun x => changed.contains x.group || !x.held) }
  | _ => b

/-- The waiting BARW words of a team see a change of their objects (R252), whichever agent makes it. -/
def Team.seePhases (t : Team) (cycle : Nat → Nat) : Team :=
  { t with bundles := t.bundles.map (fun b => match b.wait with
      | .barw ws changed => { b with wait := .barw ws (t.changedPhases cycle ws changed) }
      | _ => b) }

/-- Whether some bytes cover a line whole. -/
def coverLine (as : List Nat) (line : Nat) : Bool := (upFrom (line * 128) 128).all as.contains

/-- Writes bytes of a team's scratch; a line that they cover whole holds no error any more (R103). -/
def State.writeScratch (s : State) (tk : Nat) (ps : List (Nat × Byte)) : State :=
  s.mapTeam tk (fun t => Team.seePhases
    { t with scratch := t.scratch.writeBytes ps,
             badScratch := t.badScratch.filter (fun l => !coverLine (ps.map (·.1)) l) } s.cycle)

/-- The first line of scratch with an uncorrectable error that an access meets, by its address (R103). -/
def Team.badAt (t : Team) (as : List Nat) : Option Nat :=
  (as.find? (fun a => t.badScratch.contains (lineOf a))).map (fun a => lineOf a * 128)

/-! ### Taking a trap, and the return (R301 to R308, R313, R314, R267) -/

/-- The word index a record names: 0xFFFF_FFFF at a header (R164, R309). -/
def Bundle.widx (b : Bundle) : Word :=
  match b.clause with
  | some _ => BitVec.ofNat 32 b.idx
  | none => match b.resume with
    | some i => BitVec.ofNat 32 i
    | none => 0xFFFFFFFF

/-- The 64 bits at a bundle's stop point; the header where no clause has started (R309). -/
def Bundle.stopWord (b : Bundle) : DWord :=
  match b.clause with
  | some c => c.words.getD b.idx 0
  | none => match b.held with
    | some c => c.header
    | none => 0

/-- Whether a halt of the team is under way or over. -/
def Team.isHalted (t : Team) : Bool := t.halt.isSome

/-- Whether the team's handler runs. -/
def Team.inHandler (t : Team) : Bool :=
  match t.halt with
  | some h => h.phase == .handler
  | none => false

/-- The flag a clause header's field names; none for 15 (R163). -/
def headerFlag (header : DWord) (setb : Bool) : Option Nat :=
  let x := if setb then fld header 15 12 else fld header 19 16
  if x = 15 then none else some x

/-- Words of global memory with a long-latency effect, which can be parked (R129, R140). -/
def countsWhileParked (op : Nat) : Bool :=
  [0x80, 0x81, 0x82, 0x83, 0x84, 0x88, 0x89, 0x8A, 0x92, 0x99, 0x9C].contains op

/-- The flag that a parked word counts on until its replay completes (R143). -/
def Bundle.parkedFlag (b : Bundle) : Option Nat :=
  match b.clause with
  | some c =>
    if !b.frozen.isEmpty && countsWhileParked (fld b.stopWord 63 56) then headerFlag c.header (b.stopWord.getLsbD 2)
    else none
  | none => none

/-- The class of engine operation that a word counts for (R144): c1 for LDVA, c3 for a chained access. -/
def opCounter (op : Nat) : Nat := if op = 0x90 then 1 else 3

/-- A parked access is taken back: its flag and counters fall. -/
def Team.uncount (t : Team) (b : Bundle) : Team :=
  let t := match b.parkedFlag with
    | some i => (sortUp (b.frozen.map (fun x => t.groupOf x.thread))).foldl (fun t g =>
        t.mapGroup g (fun x => x.subFlag i)) t
    | none => t
  b.counted.foldl (fun t g => t.mapGroup g (fun x => x.subCounter (opCounter (fld b.stopWord 63 56)))) t

/-- Puts an element into a list before the one that stands at a position. -/
def insertAt {α : Type} (l : List α) (i : Nat) (x : α) : List α := l.take i ++ x :: l.drop i

/-- Puts an entry into the reply ports before the one that stands at a position of its port (R111). -/
def insertReply (rs : List (Nat × Nat × Sparse Word)) (i : Nat) (x : Nat × Nat × Sparse Word) :
    List (Nat × Nat × Sparse Word) :=
  match rs with
  | [] => [x]
  | r :: rest =>
    if r.1 ≠ x.1 then r :: insertReply rest i x
    else
      match i with
      | 0 => x :: r :: rest
      | k + 1 => r :: insertReply rest k x

/-- An entry that a waiting word popped stands again in its port, where it stood: before every entry that came after it
(R106: no queue is reordered). -/
def Team.giveBack (t : Team) (x : Nat × Nat × Sparse Word) (rank : Nat) : Team :=
  let rs := Sparse.get t.ranks [] x.1
  let i := (rs.filter (· < rank)).length
  let t : Team := { t with ranks := Sparse.put t.ranks [] x.1 (insertAt rs i rank) }
  if x.1 < 16 then { t with pipes := Sparse.put t.pipes [] x.1 (insertAt (Sparse.get t.pipes [] x.1) i x.2.2) }
  else if x.1 = 16 then { t with notices := insertAt t.notices i (Sparse.get x.2.2 0 0) }
  else { t with replies := insertReply t.replies i x }

/-- As if a bundle's waiting word had not been issued: what it popped stands again in its port, and it counts no more
(R299, R318). -/
def Team.unissue (t : Team) (bi : Nat) : Team :=
  match t.bundle bi with
  | none => t
  | some b =>
    let t := (b.popped.zip b.poppedRanks).foldl (fun t x => t.giveBack x.1 x.2) t
    (t.uncount b).mapBundle bi (fun b =>
      { b with frozen := [], popped := [], poppedRanks := [], since := none, counted := [] })

/-- As if no word of the team that waits had been issued. -/
def Team.unissueAll (t : Team) : Team :=
  (upFrom 0 t.bundles.length).foldl (fun t bi =>
    if ((t.bundle bi).map (fun b => b.frozen.isEmpty)).getD true then t else t.unissue bi) t

/-- Taking a trap on a bundle at a stop point with a word index and a word (R302): the word has no effect, the
bundle stops there, and the trap reaches the halt logic, which broadcasts the halt (R305). The faulting group is
that of the bundle's lowest-numbered thread (R306), or the one that issued a stranded store (R284). Where a halt already spreads, a word that would trap is not
issued and the bundle stops before it (R307). -/
def raiseTrapAt (s : State) (tk bi : Nat) (info : TrapInfo) (widx : Word) (word : DWord) : State :=
  s.mapTeam tk (fun t =>
    match t.bundle bi with
    | none => t
    | some b =>
      let t' := (t.unissue bi).mapBundle bi (fun b => { b with wait := .trapped })
      if t.isHalted && !t.inHandler then t'
      else { t' with raised := t'.raised ++ [{
        group := info.stranded.getD (t.groupOf (b.members.headD 0)), bundle := some bi, clause := b.pc, widx := widx,
        word := word, info := info }] })

/-- Taking a trap on a bundle at the point where it stands. -/
def raiseTrap (s : State) (tk bi : Nat) (info : TrapInfo) : State :=
  match (s.team tk).bind (fun t => t.bundle bi) with
  | some b => raiseTrapAt s tk bi info b.widx b.stopWord
  | none => s

/-- Words of the clause a bundle stands in. -/
def Bundle.count (b : Bundle) : Nat :=
  match b.clause with
  | some c => c.words.length
  | none => 0

/-- The clause after the one a bundle stands in (R162). -/
def Bundle.next (b : Bundle) : DWord := b.pc + BitVec.ofNat 64 (8 * (b.count + 1))

/-- Moves a bundle past `k` words, to the next clause where the clause ends (R162); a restored bundle whose clause is not
fetched again yet will go on that much later in it. -/
def Bundle.advance (b : Bundle) (k : Nat) : Bundle :=
  let b := { b with wait := .ready, since := none, frozen := [], popped := [], poppedRanks := [], counted := [], slots := [] }
  match b.clause, b.resume with
  | none, some i => { b with resume := some (i + k) }
  | _, _ =>
    if b.count ≤ b.idx + k then { b with pc := b.next, clause := none, idx := 0, regroup := false, held := none }
    else { b with idx := b.idx + k }

/-- A stopped bundle may be tried again: its stop point is where it resumes. -/
def Bundle.release (b : Bundle) : Bundle :=
  if b.wait = .trapped then { b with wait := .ready } else b

/-- Returning from a halt (R267, R314, R315): the handler's bundles vanish, the faulting bundle's threads that
still live stand again at the recorded word, or after it with `skip` by `k` words; every other thread resumes
where it stood (R308). A halt taken in a handler is left the same way, into the handler. -/
def resumeTeam (t : Team) (skip : Bool) (k : Nat) : Team :=
  match t.halt with
  | none => t
  | some h =>
    let t : Team := { t with groups := t.groups.map (fun g => { g with skid := 0 }) }
    match h.outer, h.stop, h.trap.bundle with
    | some (trap, seq), _, some bi =>
      let bs := t.bundles.map (fun (b : Bundle) => if b.handler then b.release else b)
      let h' : Halt := { h with trap := trap, seq := seq, phase := .handler, nested := false, outer := none }
      { t with halt := some h', bundles := if skip then updateAt bs bi (fun b => b.advance k) else bs }
    | _, some b, _ =>
      let b := { b with members := b.members.filter (fun i => (t.thread i).live), wait := .ready }
      let bs := (t.bundles.filter (fun (b : Bundle) => !b.handler)).map Bundle.release
      { t with halt := none, bundles := bs ++ [if skip then b.advance k else b] }
    | _, none, some bi =>
      let bundles := t.bundles.map Bundle.release
      { t with halt := none, bundles := if skip then updateAt bundles bi (fun b => b.advance k) else bundles }
    | _, none, none => { t with halt := none, bundles := t.bundles.map Bundle.release }

end Sys2Proof.Machine
end

