-- ==== Sys2Proof/Machine/Translate.lean ====
section
/-!
DEFINITION. Translation: locators (R118), context descriptors (R119), page tables (R120, R121), the checks of
a global access (R88, R122), frames and their lists (R123, R124, R130), far frames (R131), flights and page
map entries (R132, R133), demand mapping (R125) and the bridge gates (R130).
-/
namespace Sys2Proof.Machine

/-- A well-formed locator (R118). -/
def locatorOk (l : DWord) : Bool :=
  fld l 58 35 = 0 && fld l 3 0 = 0 && 520192 * 65536 ≤ fld l 34 0

/-- The physical address a locator names. -/
def locatorAddr (l : DWord) : Nat := fld l 63 59 * 2 ^ 35 + fld l 34 0

/-- The locator of a physical address of T0. -/
def locatorOf (a : Nat) : DWord := BitVec.ofNat 64 (a / 2 ^ 35 * 2 ^ 59 + a % 2 ^ 35)

/-! ### Context descriptors (R119) -/

def State.ctxRoot (s : State) (c : DWord) : DWord := BitVec.ofNat 64 (s.mem.readLE (locatorAddr c) 8)
def State.ctxSaveVa (s : State) (c : DWord) : DWord := BitVec.ofNat 64 (s.mem.readLE (locatorAddr c + 8) 8)
def State.ctxQSaveVa (s : State) (c : DWord) : DWord := BitVec.ofNat 64 (s.mem.readLE (locatorAddr c + 16) 8)
def State.ctxTrapTab (s : State) (c : DWord) : DWord := BitVec.ofNat 64 (s.mem.readLE (locatorAddr c + 24) 8)
def State.ctxTrapQ (s : State) (c : DWord) : DWord := BitVec.ofNat 64 (s.mem.readLE (locatorAddr c + 32) 8)
def State.ctxDeadline (s : State) (c : DWord) : Nat := s.mem.readLE (locatorAddr c + 40) 4
def State.ctxVi (s : State) (c : DWord) : Nat := s.mem.readLE (locatorAddr c + 44) 4
def State.ctxPolicy (s : State) (c : DWord) : Nat := s.mem.readLE (locatorAddr c + 48) 8

/-- A defined descriptor image of 128 bytes (R119). -/
def descriptorOk (bs : List Byte) : Bool :=
  locatorOk (BitVec.ofNat 64 (ofBytesLE (bs.take 8))) &&
  ofBytesLE ((bs.drop 44).take 4) < 64 &&
  ofBytesLE ((bs.drop 48).take 8) % 2 = 0 && ofBytesLE ((bs.drop 48).take 8) < 32 &&
  (bs.drop 56).all (· = 0)

/-- The 128 bytes at a locator. -/
def State.ctxBytes (s : State) (c : DWord) : List Byte := s.mem.readBytes (upFrom (locatorAddr c) 128)

/-- Whether a locator names a defined descriptor (R119). -/
def State.ctxDefined (s : State) (c : DWord) : Bool := locatorOk c && descriptorOk (s.ctxBytes c)

/-- A scope a context's POLICY allows (R119): .dev and .sys need their bit. -/
def State.scopeAllowed (s : State) (c : DWord) (scope : Nat) : Bool :=
  if scope = 4 then tbit (s.ctxPolicy c) 1 else if scope = 5 then tbit (s.ctxPolicy c) 2 else true

/-! ### Page table entries (R121) -/

def pteV (x : Nat) : Bool := tbit x 0
def pteRd (x : Nat) : Bool := tbit x 2
def pteW (x : Nat) : Bool := tbit x 3
def pteCow (x : Nat) : Bool := tbit x 4
def pteShr (x : Nat) : Bool := tbit x 5
def pteDemand (x : Nat) : Bool := tbit x 7
def pteTier (x : Nat) : Nat := bits x 42 41
def pteHome (x : Nat) : Nat := bits x 47 43
def pteLoc (x : Nat) : Nat := bits x 79 48
def pteClass (x : Nat) : Nat := bits x 81 80
def pteFlight (x : Nat) : Nat := bits x 87 82
/-- Physical address of the next PTE in the sharing ring. -/
def pteNext (x : Nat) : Nat := bits x 127 123 * 2 ^ 35 + bits x 122 88

/-- Replaces bits `[hi:lo]`. -/
def setBits (x hi lo v : Nat) : Nat := x - bits x hi lo * 2 ^ lo + v % 2 ^ (hi - lo + 1) * 2 ^ lo

/-- Points a PTE at the next one of its ring. -/
def setPteNext (x a : Nat) : Nat := setBits (setBits x 127 123 (a / 2 ^ 35)) 122 88 (a % 2 ^ 35)

/-- The PTE at a physical address. -/
def State.pte (s : State) (a : Nat) : Nat := s.mem.readLE a 16

/-- Writes a table entry of 16 bytes: tables are never accessed through the caches by a program (R118). -/
def State.setPte (s : State) (a x : Nat) : State := { s with mem := s.mem.writeLE a 16 x }

/-- One level of the walk (R120): the next table, where the directory entry is valid. -/
def State.descend (s : State) (table index : Nat) : Option Nat :=
  let x := s.mem.readLE (table + 16 * index) 16
  let l := BitVec.ofNat 64 x
  if x / 2 ^ 64 = 0 && l ≠ 0 && locatorOk l && x % 65536 = 0 then some (locatorAddr l) else none

/-- Physical address of the leaf entry of a page, where the directories are valid (R120, step 1 of R122). -/
def State.leaf (s : State) (c : DWord) (va : Nat) : Option Nat :=
  if !locatorOk (s.ctxRoot c) then none else
  match s.descend (locatorAddr (s.ctxRoot c)) (bits va 56 52) with
  | none => none
  | some t1 =>
    match s.descend t1 (bits va 51 40) with
    | none => none
    | some t2 =>
      match s.descend t2 (bits va 39 28) with
      | none => none
      | some t3 => some (t3 + 16 * bits va 27 16)

/-! ### Flights (R132, R133) -/

/-- The nonempty steps of a flight, head first: SST, die, quadrant. -/
def Flight.stepList (f : Flight) : List (Nat × Nat × Nat) :=
  (upFrom 0 8).filterMap (fun i =>
    let b := f.steps.toNat / 2 ^ (8 * i) % 256
    if b / 32 = 0 then none else some (b / 32, b / 4 % 8, b % 4))

/-- STEPS from a list of steps. -/
def packSteps (l : List (Nat × Nat × Nat)) : DWord :=
  BitVec.ofNat 64 (l.foldr (fun x n => n * 256 + (x.1 * 32 + x.2.1 * 4 + x.2.2)) 0)

/-- The tail (R132): the highest step that serves or leaves; a leaving step only where it was the tail when it was
cut. -/
def Flight.tail (f : Flight) : Option (Nat × Nat × Nat) :=
  (f.stepList.filter (fun x => x.1 = 1 || (x.1 = 3 && f.cutTails.contains x.2.1))).getLast?

/-- The die whose step serves a load of a requesting die (R102, R133): the nearest serving step, ties to the
earlier one. A leaving tail stays the point of commit. -/
def Flight.nearest (f : Flight) (d : Nat) : Option (Nat × Nat × Nat) :=
  (f.stepList.filter (fun x => x.1 = 1)).foldl (fun best x =>
    match best with
    | none => some x
    | some b => if dieHops d x.2.1 < dieHops d b.2.1 then some x else some b) none

/-- Physical address of a page map entry (R132). -/
def Flight.entryAddr (f : Flight) (e : Nat) : Nat := locatorAddr f.pmap + 32 * e

/-- The frame of a page map entry on a die, where PRESENT is set. -/
def State.entryFrame (s : State) (f : Flight) (e d : Nat) : Option Nat :=
  let x := s.mem.readLE (f.entryAddr e + 4 * d) 4
  if tbit x 31 then some (bits x 18 0) else none

/-- Whether a page map entry is in use (R132). -/
def State.entryInUse (s : State) (f : Flight) (e : Nat) : Bool :=
  (upFrom 0 8).any (fun d => (s.entryFrame f e d).isSome)

/-- Quadrant of a flight's step on a die. -/
def Flight.quadOf (f : Flight) (d : Nat) : Option Nat :=
  (f.stepList.find? (fun x => x.2.1 = d)).map (fun x => x.2.2)

/-- Physical address of an offset of a chained page on a die. -/
def State.chainAddr (s : State) (f : Flight) (e d off : Nat) : Option Nat :=
  match f.quadOf d, s.entryFrame f e d with
  | some q, some fr => some ((4 * d + q) * 2 ^ 35 + fr * 65536 + off)
  | _, _ => none

/-! ### Frame descriptors (R123, R131) -/

/-- The 32 bytes of a descriptor. -/
def Frame.image (x : Frame) : Nat :=
  x.refs % 2 ^ 32 + x.pins % 2 ^ 16 * 2 ^ 32 + x.state % 4 * 2 ^ 48 + x.tier % 4 * 2 ^ 50 +
  x.vi % 64 * 2 ^ 64 + x.next % 2 ^ 32 * 2 ^ 96 + x.loc % 2 ^ 32 * 2 ^ 144 +
  x.rmpa % 2 ^ 35 * 2 ^ 176 + x.rmpart % 32 * 2 ^ 211

/-- A descriptor from its 32 bytes. -/
def frameOf (n : Nat) : Frame where
  refs := bits n 31 0
  pins := bits n 47 32
  state := bits n 49 48
  tier := bits n 51 50
  vi := bits n 69 64
  next := bits n 127 96
  loc := bits n 175 144
  rmpa := bits n 210 176
  rmpart := bits n 215 211

/-- Address of a far frame descriptor (R131). -/
def State.farAddr (s : State) (vi tier loc : Nat) : Nat :=
  locatorAddr (if tier = 1 then (s.viEntry vi).far1 else (s.viEntry vi).far2) + 32 * loc

/-- A far descriptor as reset leaves it: TIER is the table's, LOC its own number, NEXT the next frame. -/
def State.farFresh (s : State) (vi tier loc : Nat) : Frame :=
  let n := if tier = 1 then (s.viEntry vi).n1 else (s.viEntry vi).n2
  { next := if loc + 1 < n then loc + 1 else 0xFFFFFFFF, loc := loc, tier := tier }

/-- The descriptor of a frame of any tier. A far descriptor that nothing has written has its reset values. -/
def State.desc (s : State) (vi tier home loc : Nat) : Frame :=
  if tier = 0 then s.frame (frameKey home loc)
  else
    let x := s.mem.readLE (s.farAddr vi tier loc) 32
    if x = 0 then s.farFresh vi tier loc else frameOf x

def State.setDesc (s : State) (vi tier home loc : Nat) (x : Frame) : State :=
  if tier = 0 then s.setFrame (frameKey home loc) x
  else { s with mem := s.mem.writeLE (s.farAddr vi tier loc) 32 x.image }

/-- Physical address of a frame. -/
def frameBase (tier home loc : Nat) : Nat :=
  if tier = 0 then home * 2 ^ 35 + loc * 65536
  else if tier = 1 then t1Base + loc * 65536 else t2Base + loc * 65536

/-- Pops a frame of a partition's free list (R124, R130): in use, for a virtual interface. -/
def State.popFrame (s : State) (p vi : Nat) : Option (Nat × State) :=
  let x := s.part p
  if x.freecnt = 0 then none
  else
    let f := x.freehead
    let d := s.frame (frameKey p f)
    some (f, (s.setFrame (frameKey p f) { d with state := 1, vi := vi, refs := 0 }).setPart p
      { x with freecnt := x.freecnt - 1, freehead := d.next })

/-- Frees a frame: zeroed and pushed (R124, R105). VI keeps its value: it changes on leaving the free state (R123). -/
def State.pushFrame (s : State) (p f : Nat) : State :=
  let x := s.part p
  let s := s.zeroPhys (frameBase 0 p f) (frameBase 0 p f + 65536)
  (s.setFrame (frameKey p f)
    { (freshFrame f) with next := x.freehead, vi := (s.frame (frameKey p f)).vi }).setPart p
    { x with freecnt := x.freecnt + 1, freehead := f }

/-- Frees a frame of any tier (R124). -/
def State.freeFrame (s : State) (vi tier home loc : Nat) : State :=
  if tier = 0 then s.pushFrame home loc
  else
    let s := s.zeroPhys (frameBase tier home loc) (frameBase tier home loc + 65536)
    s.setDesc vi tier home loc { s.farFresh vi tier loc with vi := (s.desc vi tier home loc).vi }

/-- A frame whose REFS reached 0 (R124): freed, or draining while pins are held. -/
def State.dropFrame (s : State) (vi tier home loc : Nat) : State :=
  let d := s.desc vi tier home loc
  if d.pins = 0 then s.freeFrame vi tier home loc
  else s.setDesc vi tier home loc { d with refs := 0, state := 2, rmpa := 0, rmpart := 0 }

/-! ### The checks of R88 and R122 -/

/-- What an access does. -/
inductive Kind where
  | load | store | atomic
  deriving DecidableEq, Repr

/-- The outcome of the checks for one lane. -/
inductive Check where
  /-- a precise trap -/
  | trap (cause : BitVec 8)
  /-- replayable: served elsewhere and tried again (R129) -/
  | replay (cause : Nat)
  /-- the address of the PTE and the PTE; `demand` where step 3 has still to map the page -/
  | page (at_ pte : Nat) (demand : Bool)
  deriving DecidableEq, Repr

/-- Step 4 of R122: a reserved value, or a LOC beyond its table (R131). -/
def State.pteReserved (s : State) (vi x : Nat) : Bool :=
  tbit x 1 || bits x 40 8 != 0 || pteTier x = 3 || 2 ≤ pteClass x || (pteClass x = 1 && pteTier x != 0) ||
  (pteClass x = 0 && pteTier x = 0 && 524288 ≤ pteLoc x) ||
  (pteTier x = 1 && (s.viEntry vi).n1 ≤ pteLoc x) || (pteTier x = 2 && (s.viEntry vi).n2 ≤ pteLoc x)

/-- Step 5 of R122. -/
def ptePermits (k : Kind) (x : Nat) : Bool :=
  match k with
  | .load => pteRd x
  | .store => pteW x || pteCow x
  | .atomic => pteRd x && (pteW x || pteCow x)

/-- Step 7 of R122: the flight serves the access with a frame. -/
def State.flightServes (s : State) (vi die : Nat) (k : Kind) (x : Nat) : Bool :=
  let f := s.flight (pteFlight x)
  let step := match k with
    | .load => f.nearest die
    | _ => f.stepList.head?
  f.valid && f.owner = vi &&
    (match step with
     | some (_, d, _) => (s.entryFrame f (pteLoc x) d).isSome
     | none => false)

/-- Steps 4 to 9 of R122 on a valid PTE. -/
def State.checkPte (s : State) (vi die : Nat) (k : Kind) (a x : Nat) (demand : Bool) : Check :=
  if s.pteReserved vi x then .trap 0x10
  else if !ptePermits k x then .trap 0x11
  else if pteTier x = 2 then .replay 0x12
  else if pteClass x = 1 && !s.flightServes vi die k x then .trap 0x17
  else if k ≠ .load && pteCow x then .replay 0x13
  else if k ≠ .load && (s.desc vi (pteTier x) (pteHome x) (pteLoc x)).state = 3 && pteClass x = 0 then
    .replay 0x0
  else .page a x demand

/-- The PTE a demand map leaves (R125): LOC, V set, DEMAND clear. -/
def demandPte (x f : Nat) : Nat :=
  setBits (setBits (setBits (setBits x 79 48 f) 0 0 1) 7 7 0) 42 41 0

/-- R122 for one access of a context, from a requesting die; the form check of R88 comes first. -/
def State.checkPage (s : State) (c : DWord) (vi die : Nat) (k : Kind) (va : Nat) : Check :=
  if 2 ^ 57 ≤ va then .trap 0x10
  else
    match s.leaf c va with
    | none => .trap 0x10
    | some a =>
      let x := s.pte a
      if pteV x then s.checkPte vi die k a x false
      else if !pteDemand x then .trap 0x10
      else if (s.part (pteHome x)).freecnt = 0 then .replay 0x12
      else s.checkPte vi die k a (demandPte x (s.part (pteHome x)).freehead) true

/-- The form and alignment checks of R88 before R122: `align` is the multiple the address must be. -/
def State.checkGlobal (s : State) (c : DWord) (vi die : Nat) (k : Kind) (va align : Nat) : Check :=
  if 2 ^ 57 ≤ va then .trap 0x10
  else if va % align ≠ 0 then .trap 0x14
  else s.checkPage c vi die k va

/-- Maps a demand page (R125): a frame of partition HOME, REFS 1, a ring of one; nothing where the list is empty. -/
def State.demandMap (s : State) (vi a : Nat) : State :=
  let x := s.pte a
  match s.popFrame (pteHome x) vi with
  | none => s
  | some (f, s) =>
    let d := s.frame (frameKey (pteHome x) f)
    (s.setFrame (frameKey (pteHome x) f)
      { d with refs := 1, rmpart := a / 2 ^ 35, rmpa := a % 2 ^ 35 }).setPte a
      (setPteNext (demandPte x f) a)

/-- The touch of a page (step 3 of R122, R125): a demand page is mapped, whatever the later steps answer. -/
def State.touchPage (s : State) (c : DWord) (vi va : Nat) : State :=
  if 2 ^ 57 ≤ va then s
  else
    match s.leaf c va with
    | some a => if !pteV (s.pte a) && pteDemand (s.pte a) then s.demandMap vi a else s
    | none => s

/-- CODE of an access fault (R301): the flight of the page for the flight-state fault. -/
def State.flightCode (s : State) (ctx : DWord) (cause : BitVec 8) (va : Nat) : Word :=
  if cause = 0x17 then
    match s.leaf ctx va with
    | some e => BitVec.ofNat 32 (pteFlight (s.pte e))
    | none => 0
  else 0

/-- Where `n` bytes from an address of a checked page fall, for an access of a kind from a die. -/
def pagePlace (die : Nat) (k : Kind) (x va n : Nat) : Place :=
  if pteClass x = 1 then
    { scratch := false, bytes := upFrom (va % 65536) n, chain := some (pteFlight x, pteLoc x), asker := die,
      write := k != .load }
  else
    { scratch := false, bytes := upFrom (frameBase (pteTier x) (pteHome x) (pteLoc x) + va % 65536) n,
      home := pteHome x, asker := die, write := k != .load }

/-- A simple access of an engine or of firmware to a page of a context, once the page is touched: its place, where the
checks pass. -/
def State.reach (s : State) (c : DWord) (vi die : Nat) (k : Kind) (va n : Nat) : Option Place :=
  match s.checkPage c vi die k va with
  | .page a x _ => some (pagePlace die k (if pteV (s.pte a) then s.pte a else x) va n)
  | _ => none

/-- The step of a flight that a chained access is sent to (R133, R344): a load to the nearest serving step, a store or
an atomic to the head. -/
def Flight.entered (f : Flight) (p : Place) : Option (Nat × Nat × Nat) :=
  if p.write then f.stepList.head? else f.nearest p.asker

/-- Partition whose bridge gate an access passes (R130): of a T0 frame, the home partition of a T1 page (R97), or that
of the step which a chained access is sent to. -/
def State.placePart (s : State) (p : Place) : Option Nat :=
  if p.scratch then none
  else
    match p.chain, p.bytes with
    | some (f, _), _ => ((s.flight f).entered p).map (fun x => 4 * x.2.1 + x.2.2)
    | none, a :: _ => some (if isT1 a then p.home else a / 2 ^ 35)
    | none, [] => none

/-- Whether a partition's gate lets packets of a virtual interface pass (R130). -/
def State.gateOf (s : State) (q vi : Nat) : Bool := (s.part q).owned && (s.part q).vi = vi

/-- Partition that the query for a chained load goes to (R102, R133): the tail's, where the line is dirty at the step that
serves it. -/
def State.queryPart (s : State) (p : Place) : Option Nat :=
  match p.chain with
  | none => none
  | some (f, e) =>
    match (s.flight f).entered p, (s.flight f).tail with
    | some (_, d, _), some (_, t, q) =>
      if !p.write && t ≠ d && p.bytes.any (fun o => s.chainDirty.contains (d, f, e, o / 128)) then some (4 * t + q)
      else none
    | _, _ => none

/-- The first partition of an access's packets whose bridge gate drops them (R130): that which it is sent to, then that of
its query to the tail. A chained access travels in chain engine packets with the flight's OWNER. -/
def State.closedPart (s : State) (vi : Nat) (p : Place) : Option Nat :=
  let sender := match p.chain with
    | some (f, _) => (s.flight f).owner
    | none => vi
  ((s.placePart p).toList ++ (s.queryPart p).toList).find? (fun q => !s.gateOf q sender)

/-- Whether the bridge gates let an access of a virtual interface pass (R130). -/
def State.gateOpen (s : State) (vi : Nat) (p : Place) : Bool := (s.closedPart vi p).isNone

end Sys2Proof.Machine
end

