-- ==== Sys2Proof/Machine/Access.lean ====
section
/-!
DEFINITION. Accesses after their checks: what a load returns and when it takes its value (R227, R271, R272),
L1 copies (R91, R95), stores from acceptance to commit (R229, R283), chained stores (R102, R133), releases
and acquires (R253, R273 to R276, R285), and reports of asynchronous faults (R303).
-/
namespace Sys2Proof.Machine

/-- The key by which the stores of a saved team name it. -/
def Saved.key (v : Saved) : Nat := 2 ^ 20 + v.id

/-- Holds an asynchronous fault with its team, a saved one too, until it is taken (R303, R306, R308). -/
def State.report (s : State) (tk g : Nat) (info : TrapInfo) : State :=
  let hold (t : Team) : Team := { t with held := t.held ++ [(g, info)] }
  if tk < 2 ^ 20 then s.mapTeam tk hold
  else { s with saved := s.saved.map (fun v => if v.key = tk then { v with team := hold v.team } else v) }

/-- The team of a key, resident or saved. -/
def State.anyTeam (s : State) (tk : Nat) : Option Team :=
  if tk < 2 ^ 20 then s.team tk else (s.saved.find? (fun v => v.key = tk)).map (·.team)

/-- The trap information of an asynchronous fault of one lane. -/
def asyncInfo (cause : BitVec 8) (mask : DWord) (addr : Nat) (code : Word) (cl : DWord) (ix : Word) :
    TrapInfo :=
  { cause := cause, mask := mask, addr := BitVec.ofNat 64 addr, code := code, async := true,
    origin := some (cl, ix) }

/-! ### L1 -/

/-- KiB of scratch that the teams of a core hold (R92). -/
def State.scratchUsed (s : State) (c : Nat) : Nat :=
  (s.teams.map (·.2)).foldl (fun n t => if t.coreList.contains c then n + t.scratchKB else n) 0

/-- Cache ways of a core: the ways that no unit of scratch lies in (R92). The units of the teams of a core lie packed
in the fewest ways: the manual does not say how they lie (log 72). -/
def State.cacheWays (s : State) (c : Nat) : Nat := 16 - (s.scratchUsed c + 31) / 32

/-- A byte as a core's L1 serves it: from its copy, or from the slice (R91, R272). -/
def State.l1Byte (s : State) (c a : Nat) : Byte :=
  match (s.core c).l1.find? (fun l => l.line = lineOf a) with
  | some l => Sparse.get l.data 0 (a % 128)
  | none => s.byte a

/-- The copies of an L1 in the set of a line: 256 sets of one line a cache way (R92; log 67). -/
def Core.l1Set (x : Core) (line : Nat) : List L1Line :=
  x.l1.filter (fun l => Config.l1Set l.line % 256 = Config.l1Set line % 256)

/-- The copy that a set of some ways gives up for one more (R95). -/
def Core.victimL1 (x : Core) (ways line : Nat) : Option Nat :=
  if x.l1.length < ways || (x.l1Set line).length < ways then none
  else victimOf ((x.l1Set line).map (fun l => (l.line, l.hint, l.used)))

/-- Fills a core's L1 with a line, where the hint and the ways allow it (R91, R92, R95): its set keeps to the cache
ways. -/
def State.fillL1 (s : State) (c line home hint : Nat) : State :=
  let s := s.cacheLine line home hint false
  let x := s.core c
  if x.l1.any (fun l => l.line = line) then
    s.setCore c { x with l1 := x.l1.map (fun l => if l.line = line then
      { l with used := s.now, hint := if hint = 3 then l.hint else hint } else l) }
  else if hint = 3 || s.cacheWays c = 0 then s
  else
    let data := (upFrom 0 128).foldl (fun m o => Memory.write m o (s.byte (line * 128 + o))) []
    let kept := match x.victimL1 (s.cacheWays c) line with
      | some v => x.l1.filter (fun l => l.line ≠ v)
      | none => x.l1
    s.setCore c { x with l1 := { line := line, data := data, hint := hint, used := s.now } :: kept }

/-- Writes bytes into the copies of the issuing core, where it holds them (R91); the access is the copy's latest, and
its hint stands there unless it is bypass (R95). -/
def State.updateL1 (s : State) (c hint : Nat) (ps : List (Nat × Byte)) : State :=
  let x := s.core c
  s.setCore c { x with l1 := x.l1.map (fun l =>
    if ps.any (fun p => lineOf p.1 = l.line) then
      { l with
        data := ps.foldl (fun m p => if lineOf p.1 = l.line then Memory.write m (p.1 % 128) p.2 else m) l.data
        used := s.now
        hint := if hint = 3 then l.hint else hint
        bad := l.bad && !coverLine (ps.map (·.1)) l.line }
    else l) }

/-- Whether a core's L1 holds a copy with an uncorrectable error of a line that some bytes touch and do not cover
whole (R103). -/
def State.badCopy (s : State) (c : Nat) (as : List Nat) : Option Nat :=
  ((s.core c).l1.find? (fun l => l.bad && as.any (fun a => lineOf a = l.line) && !coverLine as l.line)).map
    (fun l => l.line * 128)

/-- The copies of some lines in an L1 hold no error any more. -/
def State.mendL1 (s : State) (c : Nat) (lines : List Nat) : State :=
  let x := s.core c
  s.setCore c { x with l1 := x.l1.map (fun l => if lines.contains l.line then { l with bad := false } else l) }

/-! ### Stores in the merge buffers -/

/-- Whether two places share a byte. -/
def Place.overlaps (p q : Place) : Bool :=
  p.scratch = q.scratch && p.chain = q.chain && p.bytes.any q.bytes.contains

/-- Group of a thread of a team. -/
def State.groupIn (s : State) (tk thread : Nat) : Option Nat := (s.team tk).map (fun t => t.groupOf thread)

/-- Whether a store is a thread's own: its lane's, or a tile's that its group moved to scratch (R222). -/
def State.isOwn (s : State) (tk thread : Nat) (st : Store) : Bool :=
  st.team = tk && (st.thread = thread || (st.tile.isSome && st.tile = s.groupIn tk thread))

/-- The byte of the thread's own latest earlier uncommitted store (R227), at position `i` of a place. -/
def State.forwarded (s : State) (tk thread id : Nat) (p : Place) (a : Nat) : Option Byte :=
  ((s.stores.filter (fun st => s.isOwn tk thread st && st.id < id && st.stranded.isNone &&
      st.rmw.isNone && st.place.scratch = p.scratch && st.place.chain = p.chain && st.place.bytes.contains a)).getLast?).bind
    (fun st => ((st.place.bytes.zip st.data).find? (fun x => x.1 = a)).map (·.2))

/-! ### What a load returns -/

/-- Committed address of a chained byte: the tail's copy (R102, R133). -/
def State.tailAddr (s : State) (f e off : Nat) : Option Nat :=
  match (s.flight f).tail with
  | some (_, d, _) => s.chainAddr (s.flight f) e d off
  | none => none

/-- Where a byte of an access is found: a byte of a chained page in the copy of the step that serves it where the line
is clean there, else at the tail (R102, R344); for an atomic, at the head (R232). -/
def State.byteAddr (s : State) (p : Place) (a : Nat) : Option Nat :=
  match p.chain with
  | none => some a
  | some (f, e) =>
    match (s.flight f).entered p with
    | some (_, d, _) =>
      if !p.write && s.chainDirty.contains (d, f, e, a / 128) then s.tailAddr f e a
      else s.chainAddr (s.flight f) e d a
    | none => none

/-- Where a byte of an access lies in the copy of the step that the access is sent to (R344). -/
def State.stepAddr (s : State) (p : Place) (a : Nat) : Option Nat :=
  match p.chain with
  | none => some a
  | some (f, e) => ((s.flight f).entered p).bind (fun x => s.chainAddr (s.flight f) e x.2.1 a)

/-- A byte where its access is performed: scratch, the slices, or the step of a flight that serves it. -/
def State.pointByte (s : State) (t : Team) (p : Place) (a : Nat) : Byte :=
  if p.scratch then t.scratch.read a
  else match s.byteAddr p a with
    | some x => s.byte x
    | none => 0

/-- The bytes of a place of global memory. -/
def State.placeBytes (s : State) (p : Place) : List Byte :=
  p.bytes.map (fun a => match s.byteAddr p a with
    | some x => s.byte x
    | none => 0)

/-- Whether the line of a chained load is dirty at the step that serves the requesting die (R102). -/
def State.chainDirtyAt (s : State) (f e : Nat) (d : Nat) (p : Place) : Bool :=
  p.bytes.any (fun o => s.chainDirty.contains (d, f, e, o / 128))

/-- An earlier store or atomic of the thread to these bytes of a chained page that the tail has not applied
(R281). -/
def State.ownChained (s : State) (tk thread id : Nat) (p : Place) : Bool :=
  match p.chain with
  | none => false
  | some (f, e) =>
    s.stores.any (fun st => st.team = tk && st.thread = thread && st.id < id && st.stranded.isNone &&
      st.place.overlaps p) ||
    s.landing.any (fun y => y.team = tk && y.thread = thread && y.id < id && y.flight = f && y.entry = e &&
      y.offsets.any p.bytes.contains)

/-- Whether an earlier atomic of the thread whose acquire part is still to come is on its way to the head of a flight
(R116, R273): later accesses of the thread follow it. -/
def State.acquiring (s : State) (tk thread id : Nat) : Bool :=
  s.stores.any (fun st => st.team = tk && st.thread = thread && st.id < id && st.stranded.isNone &&
    (match st.rmw with
     | some r => r.acquire.isSome
     | none => false))

/-- Whether a lane can take its value now without a query to the tail (R102, R130, R281, R344); an accepted atomic
takes its own. -/
def State.canTake (s : State) (t : Team) (w : CWord) (l : Lane) : Bool :=
  !l.rmw && !s.acquiring w.team l.thread w.id && s.gateOpen t.vi l.place && !s.ownChained w.team l.thread w.id l.place &&
  match l.place.chain with
  | none => true
  | some (f, e) =>
    match (s.flight f).nearest (coreDie (t.coreOf (t.groupOf l.thread))) with
    | some (_, d, _) => !s.chainDirtyAt f e d l.place
    | none => false

/-- The value a lane takes, byte by byte: its own uncommitted store's, or the point's or a copy's. -/
def State.laneValue (s : State) (t : Team) (tk id : Nat) (l : Lane) (l1 : Bool) : Nat :=
  ofBytesLE (l.place.bytes.map (fun a =>
    match s.forwarded tk l.thread id l.place a with
    | some b => b
    | none =>
      if l1 && !l.place.scratch && l.place.chain.isNone then s.l1Byte (t.coreOf (t.groupOf l.thread)) a
      else s.pointByte t l.place a))

/-- Marks a lane of a word as having taken a value. -/
def CWord.take (w : CWord) (thread off v : Nat) : CWord :=
  { w with lanes := w.lanes.map (fun l => if l.thread = thread && l.off = off then { l with taken := some v } else l) }

/-- Physical bytes that an access meets, for poison (R103): of a chained load, those of the copy that serves it; of a
chained store or atomic, those of every step's copy. -/
def State.physOf (s : State) (p : Place) : List Nat :=
  if p.scratch then [] else
  match p.chain with
  | none => p.bytes
  | some (f, e) =>
    if p.write then (s.flight f).stepList.flatMap (fun x => p.bytes.filterMap (s.chainAddr (s.flight f) e x.2.1))
    else p.bytes.filterMap (s.byteAddr p)

/-- Address of the first line with an uncorrectable error that a load meets (R103): in scratch, at the copy or the slice
that serves it, or in the L1 of its core. -/
def State.badLine (s : State) (t : Team) (core : Nat) (p : Place) : Option Nat :=
  if p.scratch then t.badAt p.bytes
  else
    match (s.physOf p).find? (fun a => s.poison.contains (lineOf a)) with
    | some a => some (lineOf a * 128)
    | none =>
      if p.chain.isSome then none
      else ((s.core core).l1.find? (fun l => l.bad && p.bytes.any (fun a => lineOf a = l.line))).map (fun l => l.line * 128)

/-- Lines and home partition of the slice that a global access is made at: of a chained access, the slice of the step that
it is sent to (R90, R97, R344). -/
def State.servedLines (s : State) (p : Place) : List (Nat × Nat) :=
  if p.scratch then []
  else match p.chain with
  | none => (sortUp (p.bytes.map lineOf)).map (fun l => (l, p.home))
  | some (f, e) =>
    match (s.flight f).entered p with
    | some (_, d, q) =>
      (sortUp ((p.bytes.filterMap (s.chainAddr (s.flight f) e d)).map lineOf)).map (fun l => (l, 4 * d + q))
    | none => []

/-- The slice that serves a load holds its lines, with its hint (R95). -/
def State.holdLines (s : State) (p : Place) (hint : Nat) : State :=
  (s.servedLines p).foldl (fun s x => s.cacheLine x.1 x.2 hint false) s

/-- A lane takes its value (R227, R271): a plain load may use and fill L1 (R228); a chained one is cached by its slice
alone. A line with an error leaves the destination as it was and is reported (R103, R303; log 100). -/
def State.takeLane (s : State) (w : CWord) (l : Lane) : State :=
  match s.team w.team with
  | none => s
  | some t =>
    let g := t.groupOf l.thread
    match s.badLine t (t.coreOf g) l.place with
    | some a =>
      (s.setWord { w with lanes := w.lanes.filter (fun x => x.thread ≠ l.thread) }).report w.team g
        (asyncInfo 0x30 (t.mask [l.thread]) a 0 w.clause w.widx)
    | none =>
      let v := s.laneValue t w.team w.id l true
      let s := s.setWord (w.take l.thread l.off v)
      if l.place.scratch then s
      else if l.place.chain.isSome then s.holdLines l.place w.hint
      else (sortUp (l.place.bytes.map lineOf)).foldl
        (fun s line => s.fillL1 (t.coreOf g) line l.place.home w.hint) s

/-- Untaken lanes of a thread's earlier loads, oldest first, with their words' identities. -/
def State.untaken (s : State) (tk thread id : Nat) : List (Nat × Lane) :=
  (s.words.filter (fun w => w.team = tk && w.id < id)).flatMap (fun w =>
    (w.lanes.filter (fun l => l.thread = thread && l.taken.isNone)).map (fun l => (w.id, l)))

/-- Lets a list of untaken lanes take their values in order, where they can. -/
def State.takeAll (s : State) (ls : List (Nat × Lane)) : State :=
  ls.foldl (fun s x =>
    match s.word x.1 with
    | none => s
    | some w =>
      match s.team w.team with
      | some t => if s.canTake t w x.2 then s.takeLane w x.2 else s
      | none => s) s

/-- The earlier lanes of a list, newest first, that must take their values before these places are read:
those that overlap them, and those that overlap such lanes (R271). -/
def mustPrecede (newestFirst : List (Nat × Lane)) (ps : List Place) : List (Nat × Lane) :=
  match newestFirst with
  | [] => []
  | x :: rest =>
    if ps.any x.2.place.overlaps then mustPrecede rest (x.2.place :: ps) ++ [x]
    else mustPrecede rest ps

/-- Before a later access of a thread to a place is made: the earlier overlapping loads take their values. -/
def State.settlePlace (s : State) (tk thread id : Nat) (p : Place) : State :=
  s.takeAll (mustPrecede (s.untaken tk thread id).reverse [p])

/-- Before a store of a thread becomes visible: every earlier load of the thread takes its value (R271). -/
def State.settleThread (s : State) (tk thread id : Nat) : State := s.takeAll (s.untaken tk thread id)

/-- Whether earlier loads of a thread still wait, other than those a closed gate will drop. -/
def State.unsettled (s : State) (tk thread id : Nat) (vi : Nat) : Bool :=
  (s.untaken tk thread id).any (fun x => s.gateOpen vi x.2.place)

/-! ### Commit -/

/-- What a monitor on a line of a chained page is armed on: not a physical line, since the tail can move. -/
def chainLine (f e line : Nat) : Nat := 2 ^ 100 + (f * 2 ^ 32 + e) * 512 + line

/-- The lines of a page that a chained store writes. -/
def Flying.lines (y : Flying) : List Nat := sortUp (y.offsets.map (· / 128))

/-- A chained store is performed for every observer when the tail applies it (R281): monitors see it. -/
def State.seen (s : State) (y : Flying) : State := s.recordWrite (y.lines.map (chainLine y.flight y.entry))

/-- Applies a chained store at a step's die: its copy takes the bytes; the line is dirty there unless it is
the tail, or a joining step after it (R102, R133). Its hint is recorded (R95): beyond the head it is default, since the
packet carries none (log 73). -/
def State.applyAt (s : State) (y : Flying) (isTail joining : Bool) : State :=
  let f := s.flight y.flight
  let ps := (y.offsets.zip y.data).filterMap (fun x =>
    (s.chainAddr f y.entry y.die x.1).map (fun a => (a, x.2)))
  let s := s.pokeBytes (4 * y.die + (f.quadOf y.die).getD 0) y.hint ps
  if isTail then s.seen y
  else if joining then s
  else
    let add (l : List (Nat × Nat × Nat × Nat)) (o : Nat) :=
      if l.contains (y.die, y.flight, y.entry, o) then l else l ++ [(y.die, y.flight, y.entry, o)]
    { s with chainDirty := y.lines.foldl add s.chainDirty }

/-- The step after a die in the step list, and whether the die is the tail. -/
def Flight.after (f : Flight) (d : Nat) : Option (Nat × Nat × Nat) :=
  match f.stepList.dropWhile (fun x => x.2.1 ≠ d) with
  | _ :: y :: _ => some y
  | _ => none

/-- Whether a die holds the flight's tail step. -/
def Flight.isTailDie (f : Flight) (d : Nat) : Bool :=
  match f.tail with
  | some (_, e, _) => e = d
  | none => false

/-- Lines of a flight in a die's landing buffer (R116). -/
def State.landed (s : State) (d fl : Nat) : Nat :=
  ((s.landing.filter (fun y => y.die = d && y.flight = fl)).map (fun y => y.lines.length)).foldl (· + ·) 0

/-- Room in a die's landing buffer for some more lines of a flight (R116): in its reserve of 64, or in what the reserves
leave of the 4,096. -/
def State.landingRoom (s : State) (d fl n : Nat) : Bool :=
  let flights := (upFrom 0 64).filter (fun k => (s.flight k).valid && ((s.flight k).quadOf d).isSome)
  let beyond (k : Nat) : Nat := s.landed d k + (if k = fl then n else 0) - 64
  s.landed d fl + n ≤ 64 || (flights.map beyond).foldl (· + ·) 0 + 64 * flights.length ≤ 4096

/-- Dies of a flight before a die, nearest first: where its acknowledgement passes. -/
def Flight.before (f : Flight) (d : Nat) : List Nat :=
  ((f.stepList.takeWhile (fun x => x.2.1 ≠ d)).map (fun x => x.2.1)).reverse

/-- A chained store that the tail has applied, and a joining step after it too, sends its acknowledgement
back (R133). -/
def State.acknowledge (s : State) (y : Flying) : State :=
  { s with acks := s.acks ++ y.lines.map (fun o =>
      { id := y.id, op := y.op, flight := y.flight, entry := y.entry, line := o, team := y.team, thread := y.thread,
        dies := (s.flight y.flight).before y.die, va := y.va, clause := y.clause, widx := y.widx }) }

/-- Whether a leaving step holds this die's forwarding (R133, R263): the successor leaves, or the tail was cut
and this die precedes it. -/
def Flight.holds (f : Flight) (d : Nat) : Bool :=
  match f.after d with
  | some (3, _, _) => true
  | _ => false

/-- Whether the step of a die only forwards: it leaves, and is not the tail (R133). -/
def Flight.forwardsOnly (f : Flight) (d : Nat) : Bool :=
  !f.isTailDie d && f.stepList.any (fun x => x.2.1 = d && x.1 = 3)

/-- A chained store is applied at its step, once: a leaving step only forwards, unless it is the tail (R133). -/
def State.applyStep (s : State) (y : Flying) : State :=
  let f := s.flight y.flight
  if y.applied || f.forwardsOnly y.die then s
  else s.applyAt y (f.isTailDie y.die) (f.stepList.any (fun x => x.2.1 = y.die && x.1 = 2))

/-- Whether the gate of the partition of a landing entry's step lets the flight's packets in (R130). -/
def State.entryGate (s : State) (y : Flying) : Bool :=
  match (s.flight y.flight).quadOf y.die with
  | some q => s.gateOf (4 * y.die + q) (s.flight y.flight).owner
  | none => true

/-- Whether the gate of the next step that an acknowledgement passes lets the flight's packets in (R130). -/
def State.ackGate (s : State) (a : Ack) : Bool :=
  match a.dies with
  | [] => true
  | d :: _ =>
    match (s.flight a.flight).quadOf d with
    | some q => s.gateOf (4 * d + q) (s.flight a.flight).owner
    | none => true

/-- One forwarding of a chained store from a die: applied there, then passed to the next step's landing buffer
or, at the end, acknowledged. The caller has checked the room. -/
def State.passOn (s : State) (y : Flying) : State :=
  let s := s.applyStep y
  match (s.flight y.flight).after y.die with
  | some (_, d, _) => { s with landing := s.landing ++ [{ y with die := d, applied := false, hint := 0 }] }
  | none => s.acknowledge y

/-- Whether a chained store may leave a die now: its step does not hold, and the next landing buffer has room (R116). -/
def State.mayPass (s : State) (y : Flying) : Bool :=
  let f := s.flight y.flight
  !f.holds y.die &&
  (match f.after y.die with
   | some (_, d, _) => s.landingRoom d y.flight y.lines.length
   | none => true) &&
  (f.stepList.any (fun x => x.2.1 = y.die))

/-- Whether a store that arrives at the head leaves it at once: nothing of its flight waits there. -/
def State.passesHead (s : State) (y : Flying) : Bool :=
  s.mayPass y && !(s.landing.any (fun z => z.die = y.die && z.flight = y.flight))

/-- A store enters its flight at the head (R133): applied there, and passed on, or held in the head's landing buffer
until it may pass. -/
def State.enterHead (s : State) (y : Flying) : State :=
  if s.passesHead y then s.passOn y
  else
    let s := s.applyStep y
    { s with landing := s.landing ++ [{ y with applied := true }] }

/-- Whether the head takes a store now: a cut head takes none (R263), there is room to pass or to hold it, and what a cut head
has forwarded to a new one is applied there before it (R116). -/
def State.headTakes (s : State) (y : Flying) : Bool :=
  match (s.flight y.flight).stepList.head? with
  | some (sst, d, _) =>
    sst ≠ 3 && d = y.die && !(s.landing.any (fun z => z.die = y.die && z.flight = y.flight && !z.applied)) &&
    (s.passesHead y || s.landingRoom y.die y.flight y.lines.length)
  | none => false

/-- Reports the fault of a packet that a gate drops (R130, R301): CODE is the destination partition. -/
def State.gateFault (s : State) (tk th : Nat) (va : DWord) (part : Nat) (clause : DWord) (widx : Word) : State :=
  match s.anyTeam tk with
  | none => s
  | some t =>
    s.report tk (t.groupOf th) (asyncInfo 0x16 (t.mask [th]) va.toNat (BitVec.ofNat 32 part) clause widx)

/-- Whether a store follows, in its own thread, in its group for a tile's (R222), or in its word's lane order, an
uncommitted overlapping one. -/
def State.blockedStore (s : State) (st : Store) : Bool :=
  s.stores.any (fun x => x.id < st.id && (s.isOwn st.team st.thread x || s.isOwn x.team x.thread st ||
      (x.team = st.team && x.word = st.word)) &&
    x.place.overlaps st.place && x.stranded.isNone)

/-- Threads of whose earlier loads a store keeps behind (R271): its own, or its whole group's for a tile's. -/
def Store.threads (st : Store) (t : Team) : List Nat :=
  match st.tile with
  | some g => upFrom (g * t.decl.width) t.decl.width
  | none => [st.thread]

/-- Whether a store was accepted before a halt for a stranded store of its group, and waits for the return from
it (R284). -/
def Team.untilReturn (t : Team) (st : Store) : Bool :=
  match t.halt with
  | none => false
  | some h =>
    let trap := (h.outer.map (·.1)).getD h.trap
    trap.info.stranded = some (t.groupOf st.thread) &&
      (match h.mark with
       | some m => st.id < m
       | none => true)

/-- Whether a store is held until TRET (R284): the fault of a stranded store of its group has been taken, and its halt lasts. An
atomic is not. -/
def Team.heldStore (t : Team) (st : Store) : Bool :=
  st.rmw.isNone &&
  (t.raised.any (fun x => x.info.stranded = some (t.groupOf st.thread)) || t.untilReturn st)

/-! ### Atomics (R231, R232) -/

/-- A number of `w` bits read as signed. -/
def signedNat (w x : Nat) : Int := if x < 2 ^ (w - 1) then x else (x : Int) - 2 ^ w

/-- new(AOP, old, b) at a width (R232). -/
def atomNew (aop w old b : Nat) : Nat :=
  match aop with
  | 0 => (old + b) % 2 ^ w
  | 1 => (old + 2 ^ w - b) % 2 ^ w
  | 2 => if signedNat w b < signedNat w old then b else old
  | 3 => if signedNat w old < signedNat w b then b else old
  | 4 => min old b
  | 5 => max old b
  | 6 => old &&& b
  | 7 => old ||| b
  | 8 => old ^^^ b
  | 9 => b
  | 10 => if b ≤ old then 0 else old + 1
  | 11 => if old = 0 || b < old then b else old - 1
  | 12 => (Fmt.fp32.fadd .rne old b).bits
  | 13 => (Fmt.fp32.fminmax false old b).bits
  | _ => (Fmt.fp32.fminmax true old b).bits

/-- What an accepted atomic writes for an old value of `n` bytes; none for a CAS that fails (R232). -/
def Rmw.new (r : Rmw) (n old : Nat) : Option Nat :=
  if r.aop = 15 then (if old = r.compare then some r.operand else none)
  else some (atomNew r.aop (8 * n) old r.operand)

/-- Whether the stores of a store's word cover a whole line (R103). -/
def State.coversLine (s : State) (st : Store) (line : Nat) : Bool :=
  (upFrom (line * 128) 128).all (fun a => st.place.bytes.contains a ||
    s.stores.any (fun x => x.word = st.word && x.place.chain = st.place.chain && !x.place.scratch &&
      x.place.bytes.contains a))

/-- Whether a store covers whole each line of scratch that it touches (R103): an MSTS does, or the stores of its word
together. -/
def State.coversScratch (s : State) (st : Store) (line : Nat) : Bool :=
  if st.tile.isSome then (sortUp (st.place.bytes.map lineOf)).all (fun l =>
    (upFrom (l * 128) 128).all st.place.bytes.contains)
  else (upFrom (line * 128) 128).all (fun a => st.place.bytes.contains a ||
    s.stores.any (fun x => x.word = st.word && x.place.scratch && x.place.bytes.contains a))

/-- The store as it enters its flight. -/
def Store.flying (st : Store) (f e d : Nat) (data : List Byte) : Flying :=
  { id := st.id, op := st.op.getD 0, flight := f, entry := e, die := d, offsets := st.place.bytes, data := data,
    team := st.team, thread := st.thread, hint := st.hint, va := st.va, clause := st.clause, widx := st.widx }

/-- The lane of an accepted atomic takes the old value (R232). -/
def State.giveOld (s : State) (st : Store) (old : Nat) : State :=
  match s.word st.word with
  | some w => s.setWord { w with lanes := w.lanes.map (fun l =>
      if l.thread = st.thread then { l with taken := some old, rmw := false } else l) }
  | none => s

/-- The lane of an atomic that meets a fault keeps its destination (R303). -/
def State.dropLane (s : State) (st : Store) : State :=
  match s.word st.word with
  | some w => if st.rmw.isSome then s.setWord { w with lanes := w.lanes.filter (fun l => l.thread ≠ st.thread) } else s
  | none => s

/-- The acquire part at a scope (R91, R253, R285): wider than .team, the L1 copies of the team's cores go; at
.sys, every clean T1 line of the die's slices goes too. -/
def State.acquire (s : State) (t : Team) (g scope : Nat) : State :=
  let s := if 2 ≤ scope then t.coreList.foldl State.clearL1 s else s
  if scope = 5 then
    { s with l2 := s.l2.filter (fun l =>
        l.dirty || !isT1 (l.line * 128) || l.slice / 32 ≠ coreDie (t.coreOf g)) }
  else s

/-- An accepted store or atomic at the head of its flight (R229, R232): a failing CAS is not forwarded. -/
def State.performChained (s : State) (t : Team) (st : Store) (f e : Nat) : State :=
  match (s.flight f).stepList.head? with
  | none => s
  | some (_, d, _) =>
    match st.rmw with
    | none => s.enterHead (st.flying f e d st.data)
    | some r =>
      let n := st.place.bytes.length
      let old := ofBytesLE (st.place.bytes.map (s.pointByte t st.place))
      let s := match r.acquire with
        | some scope => (s.giveOld st old).acquire t (t.groupOf st.thread) scope
        | none => s.giveOld st old
      match r.new n old with
      | some x => s.enterHead (st.flying f e d (bytesLE n x))
      | none => s

/-- Address of the first line with an uncorrectable error that a global store meets, at its slices or in an L1 of its
team's cores (R103; log 100). -/
def State.badStore (s : State) (t : Team) (st : Store) : Option Nat :=
  match (s.physOf st.place).find? (fun a => s.poison.contains (lineOf a)) with
  | some a => some (lineOf a * 128)
  | none => if st.place.chain.isSome then none else t.coreList.findSome? (fun c => s.badCopy c st.place.bytes)

/-- Writes an accepted store at its point: scratch, the slices, or the head of the flight (R229, R268, R283). A
partial store to a line with an error is discarded and reported; the stores of one word that cover the whole line
clear the poison (R103, R303). -/
def State.perform (s : State) (t : Team) (st : Store) : State :=
  let s := { s with stores := s.stores.filter (fun x => x.id ≠ st.id) }
  if st.place.scratch then
    let whole := s.coversScratch st (lineOf (st.place.bytes.headD 0))
    match s.badLine t 0 st.place with
    | some a =>
      if whole then
        (s.writeScratch st.team (st.place.bytes.zip st.data)).mapTeam st.team (fun t =>
          { t with badScratch := t.badScratch.filter (fun l => !(st.place.bytes.any (fun a => lineOf a = l))) })
      else s.report st.team (t.groupOf st.thread) (asyncInfo 0x30 (t.mask [st.thread]) a 0 st.clause st.widx)
    | none => s.writeScratch st.team (st.place.bytes.zip st.data)
  else
    let phys := s.physOf st.place
    let whole := s.coversLine st (lineOf (st.place.bytes.headD 0))
    match if whole then none else s.badStore t st with
    | some a =>
      (s.dropLane st).report st.team (t.groupOf st.thread) (asyncInfo 0x30 (t.mask [st.thread]) a 0 st.clause st.widx)
    | none =>
      let s := { s with poison := s.poison.filter (fun l => !whole || !(phys.any (fun a => lineOf a = l))) }
      match st.place.chain with
      | some (f, e) => s.performChained t st f e
      | none =>
        let ps := st.place.bytes.zip st.data
        let lines := sortUp (st.place.bytes.map lineOf)
        let s := s.pokeBytes st.place.home st.hint ps
        let s := t.coreList.foldl (fun s c => s.updateL1 c st.hint ps) s
        let s := if whole then t.coreList.foldl (fun s c => s.mendL1 c lines) s else s
        s.recordWrite lines

/-- Whether the point where an accepted store commits takes it now: the head of a flight may hold it (R133). -/
def State.mayEnter (s : State) (t : Team) (st : Store) : Bool :=
  st.stranded.isNone && s.gateOpen t.vi st.place && !s.acquiring st.team st.thread st.id &&
  (match st.place.chain with
   | some (f, e) =>
     (match (s.flight f).stepList.head? with
      | some (_, d, _) => s.headTakes (st.flying f e d [])
      | none => false)
   | none => true)

/-- Whether an accepted store can commit now, apart from the order within its thread. -/
def State.mayCommit (s : State) (t : Team) (st : Store) : Bool := s.mayEnter t st && !t.heldStore st

/-- The earlier loads that a store follows take their values, where they can (R271). -/
def State.settleFor (s : State) (t : Team) (st : Store) : State :=
  (st.threads t).foldl (fun s th => s.settleThread st.team th st.word) s

/-- Whether nothing in its own order keeps a store back: no earlier overlapping store, no earlier load (R227, R271). -/
def State.inOrder (s : State) (t : Team) (st : Store) : Bool :=
  !s.blockedStore st && !((st.threads t).any (fun th => s.unsettled st.team th st.word t.vi))

/-- The held stores of its own thread that a store of a handler follows at some byte (R271, R284). -/
def State.heldUnder (s : State) (t : Team) (st : Store) : List Store :=
  if t.heldStore st then []
  else s.stores.filter (fun x => x.id < st.id && s.isOwn st.team st.thread x && t.heldStore x && x.stranded.isNone &&
    x.place.overlaps st.place)

/-- Held stores are written where nothing but the hold keeps them back: a later access of the handler to their bytes has to
follow them (log 112). -/
def State.performHeld (s : State) (t : Team) (l : List Store) : State :=
  l.foldl (fun s x => if s.mayEnter t x && s.inOrder t x then s.perform t x else s) s

/-- Commits an accepted store where a condition lets it (R283): first the earlier loads of its thread take their values
(R271), and held stores to its bytes are written. Where it cannot commit yet nothing changes but those. -/
def State.commitIf (s : State) (may : State → Team → Store → Bool) (id : Nat) : State :=
  match s.stores.find? (fun x => x.id = id) with
  | none => s
  | some st =>
    match s.team st.team with
    | none => s
    | some t =>
      let s := s.settleFor t st
      let s := s.performHeld t (s.heldUnder t st)
      if may s t st && s.inOrder t st then s.perform t st else s

/-- Commits a store (R283). -/
def State.commit (s : State) (id : Nat) : State := s.commitIf State.mayCommit id

/-- Commits a store, whatever holds it behind a stranded one (R283, R284, R94). -/
def State.pushStore (s : State) (id : Nat) : State := s.commitIf State.mayEnter id

/-- Commits a list of stores in order. -/
def State.commitAll (s : State) (ids : List Nat) : State := ids.foldl State.commit s

/-- Commits the stores that an access of a team follows at its bytes: in a handler those held until its return too (log 112). -/
def State.commitAhead (s : State) (t : Team) (l : List Store) : State :=
  (l.map (·.id)).foldl (if t.inHandler then State.pushStore else State.commit) s

/-! ### Release and acquire -/

/-- Stores of some threads of a team, oldest first; in a handler, those accepted since its halt (R284). -/
def State.storesOf (s : State) (tk : Nat) (threads : List Nat) : List Store :=
  match s.team tk with
  | none => []
  | some t => s.stores.filter (fun st => st.team = tk && (st.threads t).any threads.contains &&
      !(t.inHandler && t.untilReturn st))

/-- Writes back every dirty T1 line (R285). -/
def State.flushT1 (s : State) : State :=
  ((s.l2.filter (fun l => l.dirty && isT1 (l.line * 128))).map (·.line)).foldl State.writeBack s

/-- Every earlier load of some threads takes its value, where it can (R271, R274). -/
def State.settleThreads (s : State) (tk : Nat) (threads : List Nat) : State :=
  threads.foldl (fun s th => s.settleThread tk th s.nextId) s

/-- Whether some thread still has a load to take its value. -/
def State.owesLoads (s : State) (t : Team) (tk : Nat) (threads : List Nat) : Bool :=
  threads.any (fun th => s.unsettled tk th s.nextId t.vi)

/-- The release of some threads at a scope, as far as it can go (R253, R274, R275, R285): their loads take their
values, their stores commit. -/
def State.release (s : State) (tk : Nat) (threads : List Nat) (scope : Nat) : State :=
  let s := s.settleThreads tk threads
  let s := s.commitAll ((s.storesOf tk threads).map (·.id))
  if scope = 5 then s.flushT1 else s

/-- Whether a chained access has nothing left on its way: the tail has acknowledged it, or the head has reported
that it writes nothing (R133, R144, R232). -/
def State.chainedDone (s : State) (op : Nat) : Bool :=
  !(s.stores.any (fun st => st.op = some op && st.stranded.isNone) || s.landing.any (fun y => y.op = op) ||
    s.acks.any (fun a => a.op = op))

/-- Whether a store on its way through a flight is a word's own (R275): a copy engine's is waited for by a counter
alone (R280). -/
def State.ownWord (s : State) (op : Nat) : Bool :=
  match s.op op with
  | some o => o.kind = .chained
  | none => true

/-- Chained stores and atomics of some threads that the tail has not acknowledged, the increments of VPUB among them
(R253, R275). -/
def State.owesChained (s : State) (tk : Nat) (threads : List Nat) : Bool :=
  s.landing.any (fun y => y.team = tk && threads.contains y.thread && s.ownWord y.op) ||
  s.acks.any (fun a => a.team = tk && threads.contains a.thread && s.ownWord a.op)

/-- Whether a release of some threads is complete: nothing uncommitted, every chained store acknowledged, and
no earlier atomic or load still owed (R253, R274, R275). Stores behind a closed gate will be dropped (R130). -/
def State.released (s : State) (t : Team) (tk : Nat) (threads : List Nat) : Bool :=
  (s.storesOf tk threads).all (fun st => !s.gateOpen t.vi st.place) && !s.owesLoads t tk threads &&
  !s.owesChained tk threads

/-- The stranded store that a release point of some threads meets first (R284). -/
def State.strandedOf (s : State) (tk : Nat) (threads : List Nat) : Option Store :=
  (s.storesOf tk threads).find? (fun st => st.stranded.isSome)

end Sys2Proof.Machine
end

