-- ==== Sys2Proof/Machine/Func.lean ====
section
/-!
DEFINITION. FRCP, FRSQ, FSQRT, FEXP2, FLOG2, FSIN, FCOS (R62, R205). The last five but FSQRT are bounded,
not fixed: the hardware's pick (a free value) is taken where it lies inside the bound, else the nearest
value, so every result the manual allows is a result of some pick. The bound is tested against two exact numbers that
enclose the exact value (log 6).
-/
namespace Sys2Proof.Machine

/-- Scale of the fixed-point approximations: numbers are integers over 2^256. -/
def fixBits : Nat := 256

/-- ln 2 over 2^256. -/
def ln2Fix : Nat := 0xb17217f7d1cf79abc9e3b39803f2f6af40f343267298b62d8a0d175b8baafa2b

/-- pi over 2^256. -/
def piFix : Nat := 0x3243f6a8885a308d313198a2e03707344a4093822299f31d0082efa98ec4e6c89

/-- Sum of the exponential series: term over 2^256, with x over 2^256. -/
def expSeries (x : Nat) : (fuel k term sum : Nat) → Nat
  | 0, _, _, sum => sum
  | n + 1, k, term, sum =>
    let t := ((term * x) >>> fixBits) / k
    expSeries x n (k + 1) t (sum + t)

/-- 2^f over 2^256 for f over 2^256 in [0, 1), at most 2^10 too small. -/
def exp2Fix (f : Nat) : Nat :=
  expSeries ((f * ln2Fix) >>> fixBits) 64 1 (2 ^ fixBits) (2 ^ fixBits)

/-- Bits of log2 of y over 2^128 in [1, 2), most significant first; the last one at most two too small. -/
def log2Bits : (fuel y acc : Nat) → Nat
  | 0, _, acc => acc
  | n + 1, y, acc =>
    let z := (y * y) >>> 128
    if z < 2 ^ 129 then log2Bits n z (2 * acc) else log2Bits n (z >>> 1) (2 * acc + 1)

/-- Alternating series of sine (start at term = x, k = 1) or cosine (term = 1, k = 0), over 2^256. -/
def trigSeries (x2 : Nat) : (fuel k : Nat) → (term sum : Int) → Int
  | 0, _, _, sum => sum
  | n + 1, k, term, sum =>
    let t := -((term * x2) / 2 ^ fixBits) / ((k + 1) * (k + 2) : Nat)
    trigSeries x2 n (k + 2) t (sum + t)

def sinFix (x : Nat) : Int := trigSeries ((x * x) >>> fixBits) 45 1 x x

def cosFix (x : Nat) : Int := trigSeries ((x * x) >>> fixBits) 45 0 (2 ^ fixBits) (2 ^ fixBits)

/-- sine (`quarter = 0`) or cosine (`quarter = 1`) of `m * 2^e`, over 2^256, by reduction modulo pi/2. -/
def trigFix (quarter : Nat) (neg : Bool) (m : Nat) (e : Int) : Int :=
  let x : Nat := if 0 ≤ e + 256 then m <<< (e + 256).toNat else m >>> (-(e + 256)).toNat
  let half := piFix / 2
  let q := x / half
  let r := x % half
  let v (i : Nat) : Int :=
    match i % 4 with
    | 0 => sinFix r
    | 1 => cosFix r
    | 2 => -sinFix r
    | _ => -cosFix r
  if quarter = 0 then (if neg then -(v q) else v q) else v (q + 1)

/-- Exponent of the unit in the last place of FP32 in the binade of `A * 2^s` (R62). The manual does not say whether the
ulp is that of the exact result or of the returned value: it is the exact result's (log 93). -/
def ulpExp (A : Nat) (s : Int) : Int :=
  if A = 0 then -149 else max ((Nat.log2 A : Int) + s) (-126) - 23

/-- Two numbers that enclose an exact value. -/
structure Between where
  lo : Dy
  hi : Dy
  deriving DecidableEq, Repr

def Dy.abs (x : Dy) : Dy := ⟨x.n.natAbs, x.e⟩

def Dy.neg (x : Dy) : Dy := ⟨-x.n, x.e⟩

/-- The bound of `k` ulps of a value (R62): its binade is that of the end nearer to zero. -/
def Between.ulps (x : Between) (k : Nat) : Dy :=
  let a := if Dy.le x.lo.abs x.hi.abs then x.lo.abs else x.hi.abs
  ⟨k, ulpExp a.n.natAbs a.e⟩

/-- Whether a number lies within `d` of every value enclosed. -/
def Between.near (x : Between) (d c : Dy) : Bool := Dy.le c (x.lo.add d) && Dy.le (x.hi.add d.neg) c

/-- The hardware's pick where it is finite and its value satisfies the bound, else the FP32 nearest an
approximation. -/
def pickWhere (op : Nat) (input : Word) (approx : Dy) (ok : Dy → Bool) : Nat :=
  let c := (Config.functionPick op input).toNat
  let near := (Fmt.fp32.round .rne false (approx.n < 0) approx.n.natAbs approx.e).bits
  match Fmt.fp32.decode c with
  | .fin n m e => if ok ⟨signed n m, e⟩ then c else near
  | _ => near

/-- The pick within `d` of an enclosed value. -/
def pickWithin (op : Nat) (input : Word) (x : Between) (d : Dy) : Nat := pickWhere op input x.lo (x.near d)

/-- Whether `c` lies within one ulp of 1 / √(m 2^e) (R62), exactly: both `(c - u)² m 2^e ≤ 1`, where c > u, and
`1 ≤ (c + u)² m 2^e`. -/
def withinRoot (m : Nat) (e : Int) (u : Dy) (c : Dy) : Bool :=
  let lo := Dy.add c ⟨-u.n, u.e⟩
  let hi := Dy.add c u
  let sq (x : Dy) : Dy := ⟨x.n * x.n * m, x.e + x.e + e⟩
  (lo.n ≤ 0 || Dy.le (sq lo) ⟨1, 0⟩) && 0 < hi.n && Dy.le ⟨1, 0⟩ (sq hi)

/-- UF for a tiny inexact result, with NX (R205). -/
def tinyConds (bits : Nat) : Conds :=
  if bits % 2 ^ 31 < 2 ^ 23 then Conds.uf ||| Conds.nx else Conds.nx

def nan32 (v : Bool) : Rounded := ⟨Fmt.fp32.nanCode, if v then Conds.nv else 0⟩

def frcp (rm : RM) (a : Word) : Rounded :=
  match Fmt.fp32.decode a.toNat with
  | .nan s => nan32 s
  | .inf s => ⟨Fmt.fp32.signBit s, 0⟩
  | .fin s m e =>
    if m = 0 then ⟨Fmt.fp32.signBit s + Fmt.fp32.infCode, Conds.dz⟩
    else
      let q := divSticky 1 m 0 e
      Fmt.fp32.round rm false s q.1 q.2

def frsq (a : Word) : Rounded :=
  match Fmt.fp32.decode a.toNat with
  | .nan s => nan32 s
  | .inf false => ⟨0, 0⟩
  | .inf true => nan32 true
  | .fin s m e =>
    if m = 0 then ⟨Fmt.fp32.signBit s + Fmt.fp32.infCode, Conds.dz⟩
    else if s then nan32 true
    else
      let k : Nat := if e % 2 = 0 then 256 else 257
      let approx : Dy := ⟨isqrt (2 ^ k / m) 130 0, (-e - k) / 2⟩
      let r := pickWhere 0x51 a approx (withinRoot m e ⟨1, ulpExp approx.n.natAbs approx.e⟩)
      let exact := match Fmt.fp32.decode r with
        | .fin _ n f => let p : Dy := ⟨(n * n * m : Nat), f + f + e⟩; Dy.le p ⟨1, 0⟩ && Dy.le ⟨1, 0⟩ p
        | _ => false
      ⟨r, if exact then 0 else tinyConds r⟩

/-- What encloses a power of two below 2^-200. -/
def belowAll : Between := ⟨⟨0, 0⟩, ⟨1, -200⟩⟩

def fexp2 (a : Word) : Rounded :=
  match Fmt.fp32.decode a.toNat with
  | .nan s => nan32 s
  | .inf false => ⟨Fmt.fp32.infCode, 0⟩
  | .inf true => ⟨0, 0⟩
  | .fin s m e =>
    if exactAt m e 0 then
      let x : Int := signed s (roundTo .rtz false m e 0)
      if 127 < x then ⟨Fmt.fp32.infCode, Conds.oF ||| Conds.nx⟩
      else if -149 ≤ x then Fmt.fp32.round .rne false false 1 x
      else
        let y : Between := if x < -200 then belowAll else ⟨⟨1, x⟩, ⟨1, x⟩⟩
        let r := pickWithin 0x53 a y (y.ulps 2)
        ⟨r, tinyConds r⟩
    else
      -- x = i + f with f in [0, 1) over 2^256
      let fl := Int.fdiv (signed s m * 2 ^ fixBits) (2 ^ (-e).toNat)
      let i := Int.fdiv fl (2 ^ fixBits)
      if 128 ≤ i then ⟨Fmt.fp32.infCode, Conds.oF ||| Conds.nx⟩
      else
        let v := exp2Fix (fl - i * 2 ^ fixBits).toNat
        let y : Between := if i < -200 then belowAll else ⟨⟨v, i - fixBits⟩, ⟨v + 2 ^ 10, i - fixBits⟩⟩
        let r := pickWithin 0x53 a y (y.ulps 2)
        ⟨r, tinyConds r⟩

def flog2 (a : Word) : Rounded :=
  match Fmt.fp32.decode a.toNat with
  | .nan s => nan32 s
  | .inf false => ⟨Fmt.fp32.infCode, 0⟩
  | .inf true => nan32 true
  | .fin s m e =>
    if m = 0 then ⟨Fmt.fp32.signBit true + Fmt.fp32.infCode, Conds.dz⟩
    else if s then nan32 true
    else
      let l := Nat.log2 m
      let top : Int := (l : Int) + e
      if m = 2 ^ l then Fmt.fp32.round .rne false (top < 0) top.natAbs 0
      else
        let frac := log2Bits 90 (m <<< (128 - l)) 0
        let v : Int := top * 2 ^ 90 + frac
        let y : Between := ⟨⟨v, -90⟩, ⟨v + 2, -90⟩⟩
        let r := pickWithin 0x54 a y (y.ulps 2)
        ⟨r, tinyConds r⟩

/-- Whether a number is below 2^-50 in magnitude: its sine and cosine are then told by the first terms of their series. -/
def tiny (m : Nat) (e : Int) : Bool := Dy.le ⟨m, e⟩ ⟨1, -50⟩

/-- Sine (`quarter = 0`) or cosine (`quarter = 1`) of `m * 2^e`, enclosed: of a tiny number x between x - x³/4 and x, and
between 1 - x²/2 and 1. -/
def trigBetween (quarter : Nat) (neg : Bool) (m : Nat) (e : Int) : Between :=
  if tiny m e then
    if quarter = 0 then
      let x : Dy := ⟨signed neg m, e⟩
      let y := x.add ⟨-signed neg (m * m * m), 3 * e - 2⟩
      if neg then ⟨x, y⟩ else ⟨y, x⟩
    else ⟨(⟨1, 0⟩ : Dy).add ⟨-((m * m : Nat) : Int), 2 * e - 1⟩, ⟨1, 0⟩⟩
  else
    let v := trigFix quarter neg m e
    let slack : Int := if Dy.le ⟨m, e⟩ ⟨1, 20⟩ then 2 ^ 56 else 2 ^ 136
    ⟨⟨v - slack, -256⟩, ⟨v + slack, -256⟩⟩

/-- FSIN and FCOS: 2 ulp up to 2^16 pi, and 2^-20 beyond (R205). -/
def ftrig (op quarter : Nat) (a : Word) : Rounded :=
  match Fmt.fp32.decode a.toNat with
  | .nan s => nan32 s
  | .inf _ => nan32 true
  | .fin s m e =>
    if m = 0 then (if quarter = 0 then ⟨a.toNat, 0⟩ else ⟨0x3F800000, 0⟩)
    else
      let y := trigBetween quarter s m e
      let r := pickWithin op a y (if Dy.le ⟨m, e⟩ ⟨piFix, -240⟩ then y.ulps 2 else ⟨1, -20⟩)
      ⟨r, tinyConds r⟩

def fsin (a : Word) : Rounded := ftrig 0x55 0 a

def fcos (a : Word) : Rounded := ftrig 0x56 1 a

end Sys2Proof.Machine
end

