-- ==== Sys2Proof/Machine/Convert.lean ====
section
/-!
DEFINITION. Element conversion (CVT: R50 to R52, R208 to R210), rescaling (RQNT: R63, R211), scale search
(BSMAX: R212), packed arithmetic (R45, R201), the exact sums of MMA and of the projections (R49, R58 to
R60, R68), and the fixed tree of group reductions (R61, R213).
-/
namespace Sys2Proof.Machine

/-- Element `k` of width `w` of a register (R45). -/
def elem (w k : Nat) (x : Nat) : Nat := (x >>> (w * k)) % 2 ^ w

/-- Replaces element `k` of width `w`. -/
def setElem (w k x v : Nat) : Nat :=
  x - (elem w k x) <<< (w * k) + (v % 2 ^ w) <<< (w * k)

/-- The low `w` bits as a two's-complement integer (R6). -/
def sext (w x : Nat) : Int := (BitVec.ofNat w x).toInt

/-- Register width of a CVT format code (R208). -/
def cvtWidth (code : Nat) : Nat :=
  match code with
  | 0 => 32 | 1 => 16 | 2 => 16 | 8 => 32
  | _ => 8

/-- Whether a CVT format is scaled (R208). -/
def cvtScaled (code : Nat) : Bool := 3 ≤ code && code ≤ 7

/-- The exact value of a source element (R209). -/
def cvtDecode (code x : Nat) : FVal :=
  match code with
  | 0 => Fmt.fp32.decode x
  | 1 => Fmt.fp16.decode x
  | 2 => Fmt.bf16.decode x
  | 3 => Fmt.e4m3.decode x
  | 4 => Fmt.e5m2.decode x
  | 5 => l6Byte x
  | 6 => let i := sext 8 x; .fin (i < 0) i.natAbs 0
  | 7 => .fin false (x % 256) 0
  | _ => let i := sext 32 x; .fin (i < 0) i.natAbs 0

/-- Conversion to a floating target (R50, R210). -/
def toFloat (F : Fmt) (rm : RM) (sat : Bool) (v : FVal) : Rounded :=
  match v with
  | .nan s => ⟨F.nanCode, if s then Conds.nv else 0⟩
  | .inf neg =>
    if sat then ⟨F.signBit neg + F.maxCode, Conds.nv⟩
    else if F.kind = .e4m3 then ⟨F.nanCode, Conds.nv⟩
    else ⟨F.signBit neg + F.infCode, 0⟩
  | .fin neg m e => F.round rm sat neg m e

/-- Conversion to an integer target of width `w` (R51, R210); `fromInt` where the source is an integer. -/
def toInteger (w : Nat) (isSigned fromInt : Bool) (rm : RM) (sat : Bool) (v : FVal) : Rounded :=
  let lo : Int := if isSigned then -(2 ^ (w - 1)) else 0
  let hi : Int := if isSigned then 2 ^ (w - 1) - 1 else 2 ^ w - 1
  let wrap (i : Int) : Nat := (i % 2 ^ w).toNat
  match v with
  | .nan _ => ⟨0, Conds.nv⟩
  | .inf neg => ⟨wrap (if neg then lo else hi), Conds.nv⟩
  | .fin neg m e =>
    let y := signed neg (roundTo rm neg m e 0)
    let nx : Conds := if exactAt m e 0 then 0 else Conds.nx
    if lo ≤ y ∧ y ≤ hi then ⟨wrap y, nx⟩
    else if fromInt && !sat then ⟨wrap y, nx⟩
    else ⟨wrap (if y < lo then lo else hi), nx ||| Conds.nv⟩

/-- Encode of R210. `E` is the scale exponent, already clamped. -/
def cvtEncode (src dst : Nat) (rm : RM) (sat : Bool) (E : Int) (v : FVal) : Rounded :=
  let y := if cvtScaled dst then v.scale (-E) else v
  let fromInt := src == 6 || src == 7 || src == 8
  match dst with
  | 0 => toFloat .fp32 rm sat y
  | 1 => toFloat .fp16 rm sat y
  | 2 => toFloat .bf16 rm sat y
  | 3 => toFloat .e4m3 rm sat y
  | 4 => toFloat .e5m2 rm sat y
  | 5 => toL6 v E
  | 6 => toInteger 8 true fromInt rm sat y
  | 7 => toInteger 8 false fromInt rm sat y
  | _ => toInteger 32 true fromInt rm sat y

/-- CVT of one lane (R209): elements `i` from `todo - 1` down to 0 of `n`. -/
def cvtLane (src dst H : Nat) (rm : RM) (sat : Bool) (E : Int) (a : Nat) (n : Nat) :
    (todo : Nat) → (out : Nat) → (c : Conds) → Rounded
  | 0, out, c => ⟨out, c⟩
  | i + 1, out, c =>
    let ws := cvtWidth src
    let wd := cvtWidth dst
    let j := if ws < wd then H * n + i else i
    let k := if wd < ws then H * n + i else i
    let x := cvtDecode src (elem ws j a)
    let r := cvtEncode src dst rm sat E (if cvtScaled src then x.scale E else x)
    cvtLane src dst H rm sat E a n i (setElem wd k out r.bits) (c ||| r.conds)

def clampScale (x : Int) : Int := max (-128) (min 127 x)

def cvt (src dst H : Nat) (rm : RM) (sat : Bool) (E : Int) (a old : Nat) : Rounded :=
  let ws := cvtWidth src
  let wd := cvtWidth dst
  let n := 32 / max ws wd
  cvtLane src dst H rm sat E a n n (if wd < ws then old else 0) 0

/-- One element of RQNT (R63, R211). A NaN is kept bit for bit; a signalling E5M2 NaN sets no condition, since R211 names
none for it (log 91). -/
def rqntElem (fmt : Nat) (delta : Int) (x : Nat) : Rounded :=
  if fmt = 2 then
    let code := l6Code x
    let m := code % 32
    if m = 0 then ⟨code, 0⟩
    else
      let m' : Int := (m : Int) - 4 * delta
      if 31 < m' then ⟨code - m + 31, Conds.oF ||| Conds.nx⟩
      else if 1 ≤ m' then ⟨code - m + m'.toNat, 0⟩
      else if -3 ≤ m' then ⟨code - m + 1, Conds.nx⟩
      else ⟨0, Conds.uf ||| Conds.nx⟩
  else
    let F := if fmt = 0 then Fmt.e4m3 else Fmt.e5m2
    match F.decode x with
    | .fin neg m e =>
      if m = 0 then ⟨x, 0⟩
      else
        -- UF where the element becomes zero, or subnormal and inexact (R211)
        let r := F.round .rne true neg m (e - delta)
        let nx := r.conds &&& Conds.nx
        if r.conds &&& Conds.oF != 0 then ⟨r.bits, Conds.oF ||| Conds.nx⟩
        else if nx != 0 && r.bits / 2 ^ F.fbits % 2 ^ F.ebits = 0 then ⟨r.bits, Conds.uf ||| nx⟩
        else ⟨r.bits, nx⟩
    | _ => ⟨x, 0⟩

def rqnt (fmt : Nat) (delta : Int) (a : Nat) : Rounded :=
  let r := (List.range 4).map fun k => rqntElem fmt delta (elem 8 k a)
  ⟨(r.zipIdx.map fun (x, k) => x.bits % 256 * 256 ^ k).sum, r.foldl (fun c x => c ||| x.conds) 0⟩

/-- Whether `|a| * 2^-E ≤ F` for the limits of R212. -/
def fitsScale (fmt : Nat) (a : Dy) (E : Int) : Bool :=
  let lim : Dy := if fmt = 0 then ⟨448, 0⟩ else if fmt = 1 then ⟨57344, 0⟩ else ⟨0x1AE89FA, -21⟩
  Dy.le ⟨a.n, a.e - E⟩ lim

/-- The least fitting exponent from `127 - k` up, or 127. -/
def leastScale (fmt : Nat) (a : Dy) : (k : Nat) → Int
  | 0 => 127
  | k + 1 => let E : Int := 126 - k; if fitsScale fmt a E then E else leastScale fmt a k

def bsmax (fmt : Nat) (a : Nat) (b : Int) : Int :=
  let need : Int := match Fmt.fp32.decode a with
    | .nan _ => -128
    | .inf _ => 127
    | .fin _ m e => if m = 0 then -128 else leastScale fmt ⟨m, e⟩ 255
  max need (clampScale b)

/-- Type M of an FLT word: 0 F32, 1 F16x2, 2 BF16x2 (R177). -/
def packedFmt (m : Nat) : Fmt := if m = 1 then .fp16 else if m = 2 then .bf16 else .fp32

/-- An element operation over a register, packed or not (R45, R201). -/
def perElem (m : Nat) (f : Fmt → Nat → Rounded) : Rounded :=
  if m = 0 then f .fp32 0
  else
    let lo := f (packedFmt m) 0
    let hi := f (packedFmt m) 1
    ⟨lo.bits % 65536 + hi.bits % 65536 * 65536, lo.conds ||| hi.conds⟩

/-- The element width of type M. -/
def elemWidth (m : Nat) : Nat := if m = 0 then 32 else 16

/-! ### Sums -/

/-- State of an exact sum with the special values of R58: NaN seen, infinities seen, the finite sum, and
whether every term so far is -0. -/
structure Acc where
  nan : Bool
  pinf : Bool
  ninf : Bool
  sum : Dy
  allNegZero : Bool
  deriving DecidableEq, Repr

def Acc.start : Acc := ⟨false, false, false, ⟨0, 0⟩, true⟩

/-- Adds one term; `none` is an invalid product. -/
def Acc.term (a : Acc) (t : Option FVal) : Acc :=
  match t with
  | none => { a with nan := true }
  | some (.nan _) => { a with nan := true }
  | some (.inf true) => { a with ninf := true, allNegZero := false }
  | some (.inf false) => { a with pinf := true, allNegZero := false }
  | some (.fin neg m e) =>
    { a with sum := Dy.add a.sum ⟨signed neg m, e⟩, allNegZero := a.allNegZero && neg && m == 0 }

/-- The rounded sum (R58, R60); `satf` keeps a finite sum finite. -/
def Acc.round (a : Acc) (F : Fmt) (satf : Bool) : Nat :=
  if a.nan || (a.pinf && a.ninf) then F.nanCode
  else if a.pinf then F.infCode
  else if a.ninf then F.signBit true + F.infCode
  else if a.sum.n = 0 then F.signBit a.allNegZero
  else (F.round .rne satf (a.sum.n < 0) a.sum.n.natAbs a.sum.e).bits

/-- Value of a matrix element by format code (R53, R55). -/
def matValue (code x : Nat) : FVal :=
  match code with
  | 0 => Fmt.bf16.decode x
  | 1 => Fmt.fp16.decode x
  | 2 => Fmt.e4m3.decode x
  | 3 => Fmt.e5m2.decode x
  | 4 => l6Byte x
  | 5 => let i := sext 8 x; .fin (i < 0) i.natAbs 0
  | 6 => .fin false (x % 256) 0
  | 8 => Fmt.e3m2.decode (x % 64)
  | 9 => l4Value (x % 16)
  | 10 => let i := sext 4 x; .fin (i < 0) i.natAbs 0
  | _ => Fmt.fp32.decode x

/-- An integer element format (R53, R55): its zero has no sign. -/
def matInt (code : Nat) : Bool := code = 5 || code = 6 || code = 10

/-- The product of two matrix elements; L6 and L4 pairs use their defined product (R49, R53). A zero product of two
integers is +0 (R58); with one integer element its sign is that of the signs (log 76). -/
def matProduct (fa fb x y : Nat) : Option FVal :=
  if fa = 4 ∧ fb = 4 then some (l6Product (l6Code x) (l6Code y))
  else if fa = 9 ∧ fb = 9 then some (l4Product (x % 16) (y % 16))
  else
    match FVal.mul (matValue fa x) (matValue fb y) with
    | some (.fin n m e) => some (.fin (n && !(matInt fa && matInt fb && m = 0)) m e)
    | r => r

/-- An empty node joins without a rounding (R61). -/
def joinNode {α : Type} (op : α → α → α) (x y : Option α) : Option α :=
  match x, y with
  | some x, some y => some (op x y)
  | some x, none => some x
  | none, y => y

/-- Node of level `n` whose first leaf is `i`: lanes `[i, i + 2^n - 1]` (R61). -/
def treeNode {α : Type} (op : α → α → α) (leaf : Nat → Option α) : (n i : Nat) → Option α
  | 0, i => leaf i
  | n + 1, i => joinNode op (treeNode op leaf n i) (treeNode op leaf n (i + 2 ^ n))

/-- The inclusive scan of lanes `[0, L]`: the aligned nodes of the set bits of `L + 1`, largest first (R61). -/
def scanNodes {α : Type} (op : α → α → α) (leaf : Nat → Option α) (count : Nat) :
    (bits base : Nat) → Option α → Option α
  | 0, _, acc => acc
  | k + 1, base, acc =>
    if count.testBit k then
      scanNodes op leaf count k (base + 2 ^ k) (joinNode op acc (treeNode op leaf k base))
    else scanNodes op leaf count k base acc

/-- A join of REDG and SCANG (R213): 0 add, 1 max, 2 min, with the conditions gathered. -/
def reduceOp (m : Nat) (x y : Rounded) : Rounded :=
  let r := if m = 0 then Fmt.fp32.fadd .rne x.bits y.bits else Fmt.fp32.fminmax (m == 1) x.bits y.bits
  ⟨r.bits, x.conds ||| y.conds ||| r.conds⟩

end Sys2Proof.Machine
end

