-- ==== Sys2Proof/Machine/Operands.lean ====
section
/-!
DEFINITION. The word being issued, its active lanes (R6, R168), every operand form (R69, R70, R81 to R86,
R107 to R111), the tags that sources present and destinations take (R65 to R67, R77, R78), and the writing of
every destination.
-/
namespace Sys2Proof.Machine

/-- A word at issue: the state, its team and bundle, and the active threads in home-lane order. -/
structure Ctx where
  s : State
  tk : Nat
  t : Team
  bi : Nat
  b : Bundle
  act : List Nat

/-- The guard of a word: G, N, P (R168). -/
structure Guard where
  g : Bool
  n : Bool
  p : Nat
  deriving DecidableEq, Repr

end Sys2Proof.Machine

namespace Sys2Proof

def RWord.guard (w : RWord) : Machine.Guard := ⟨w.g, w.n, w.p.toNat⟩
def IWord.guard (w : IWord) : Machine.Guard := ⟨w.g, w.n, w.p.toNat⟩
def MWord.guard (w : MWord) : Machine.Guard := ⟨w.g, w.n, w.p.toNat⟩

end Sys2Proof

namespace Sys2Proof.Machine

/-- A predicate of a thread. -/
def Thread.pred (x : Thread) (k : Nat) : Bool := Sparse.get x.p false k

/-- Whether a thread's guard passes (R168). A guard that names an undeclared predicate traps (R69), and whether its
lanes count as active for MASK the manual leaves open: a free value (log 15). -/
def Team.passes (t : Team) (gd : Guard) (th : Nat) : Bool :=
  !gd.g || ((if gd.p < t.decl.preds then (t.thread th).pred gd.p else Config.undeclaredGuard gd.p th) != gd.n)

/-- The active threads of a bundle, by home lane (R6, R26); a word waiting for its replay keeps the lanes it was
first issued with (R129). -/
def Team.active (t : Team) (b : Bundle) (gd : Guard) : List Nat :=
  if b.frozen.isEmpty then (sortByKey t.laneOf b.members).filter (t.passes gd)
  else (sortByKey t.laneOf b.members).filter (fun th => b.frozen.any (fun x => x.thread = th))

/-- The word that the current bundle issues, where one does. -/
def State.ctx (s : State) (gd : Guard) : Option Ctx :=
  match s.cur with
  | none => none
  | some (tk, bi) =>
    match s.team tk with
    | none => none
    | some t =>
      match t.bundle bi with
      | none => none
      | some b => some ⟨s, tk, t, bi, b, t.active b gd⟩

/-- Groups with an active lane, in %grp order. -/
def Ctx.groups (c : Ctx) : List Nat := sortUp (c.act.map c.t.groupOf)

/-- Groups present in the bundle, in %grp order. -/
def Ctx.present (c : Ctx) : List Nat := sortUp (c.b.members.map c.t.groupOf)

/-- Active threads of a group, by home lane. -/
def Ctx.actOf (c : Ctx) (g : Nat) : List Nat := c.act.filter (fun th => c.t.groupOf th = g)

/-- Lowest-numbered active lane of a group, as a thread. -/
def Ctx.leader (c : Ctx) (g : Nat) : Nat := (c.actOf g).headD 0

/-- The group that issues: of the bundle's lowest-numbered thread. -/
def Ctx.group (c : Ctx) : Nat := c.t.groupOf (c.b.members.headD 0)

/-- Core of a thread. -/
def Ctx.coreOf (c : Ctx) (th : Nat) : Nat := c.t.coreOf (c.t.groupOf th)

/-! ### Constants (R84, R85) -/

/-- The FP32 constant table. -/
def constTable : List Nat :=
  [0x00000000, 0x80000000, 0x3B800000, 0x3C000000, 0x3C800000, 0x3D000000, 0x3D800000, 0x3E000000,
   0x3E800000, 0x3F000000, 0x3F800000, 0x40000000, 0x40800000, 0x41000000, 0x41800000, 0x42000000] ++
  [0x42800000, 0x43000000, 0x43800000, 0xBF800000, 0xC0000000, 0xBF000000, 0x40400000, 0x41200000,
   0x3DCCCCCD, 0x3F3504F3, 0x3FB504F3, 0x3F9837F0, 0x3FD744FD, 0x3F8C1BF8, 0x3FA69E72, 0x3FC624F8] ++
  [0x3FEBA27E, 0x40490FDB, 0x3FC90FDB, 0x40C90FDB, 0x3EA2F983, 0x402DF854, 0x3F317218, 0x3FB8AA3B,
   0x40549A78, 0x3E9A209B, 0x3EAAAAAB, 0x7F800000, 0xFF800000, 0x7FC00000, 0x7F7FFFFF, 0xFF7FFFFF] ++
  [0x00800000, 0x00000001, 0x43E00000, 0xC3E00000, 0x47600000, 0x477FE000, 0x7F7F0000, 0x47800000,
   0x37800000, 0x33800000, 0x4B000000, 0x4F000000, 0x42FE0000, 0x437F0000, 0x3FC00000, 0x3F400000]

/-- A table constant in an element form: its value rounded by RNE, in both elements (R85). -/
def constAs (m k : Nat) : Nat :=
  let x := constTable.getD k 0
  if m = 0 then x
  else
    let r := ((packedFmt m).roundVal .rne (Fmt.fp32.decode x)).bits
    r + r * 65536

/-! ### Special registers (R81 to R83) -/

/-- %width (R82). -/
def Decl.widthReg (d : Decl) : Word :=
  BitVec.ofNat 32 (d.scratchKB * 2 ^ 16 + d.acc * 2 ^ 8 + (if d.pair then 128 else 0) + d.width)

/-- %alloc (R82). -/
def Decl.allocReg (d : Decl) : Word :=
  BitVec.ofNat 32 (d.views * 2 ^ 27 + d.preds * 2 ^ 19 + d.sregs * 2 ^ 10 + d.vregs)

/-- A special register read by a thread (R81). -/
def Ctx.special (c : Ctx) (th n : Nat) : Word :=
  let g := c.t.groupOf th
  let x := c.t.decl.teamX
  let y := c.t.decl.teamY
  let core := c.t.coreOf g
  let cycle := c.s.cycle core
  match n with
  | 1088 => BitVec.ofNat 32 (c.t.laneOf th)
  | 1089 => BitVec.ofNat 32 g
  | 1090 => c.t.index
  | 1091 => BitVec.ofNat 32 (th % x)
  | 1092 => BitVec.ofNat 32 (th / x % y)
  | 1093 => BitVec.ofNat 32 (th / (x * y))
  | 1094 => BitVec.ofNat 32 c.t.teamX
  | 1095 => BitVec.ofNat 32 c.t.teamY
  | 1096 => BitVec.ofNat 32 c.t.teamZ
  | 1097 => BitVec.ofNat 32 c.t.gridX
  | 1098 => BitVec.ofNat 32 c.t.gridY
  | 1099 => BitVec.ofNat 32 c.t.gridZ
  | 1100 => BitVec.ofNat 32 core
  | 1101 => BitVec.ofNat 32 (coreDie core)
  | 1102 => BitVec.ofNat 32 (corePart core)
  | 1103 => c.t.decl.widthReg
  | 1104 => c.t.decl.allocReg
  | 1105 => (c.t.thread th).rm.setWidth 32
  | 1106 => (c.t.thread th).fstat.setWidth 32
  | 1107 => (c.t.group g).trapcause
  | 1108 => (c.t.group g).trapidx
  | 1109 => (c.t.group g).skidReg
  | 1110 => if c.t.yieldreq then 1 else 0
  | 1112 => BitVec.ofNat 32 cycle
  | 1113 => BitVec.ofNat 32 (cycle / 2 ^ 32)
  | 1114 => c.t.args.setWidth 32
  | 1115 => (c.t.args >>> 32).setWidth 32
  | 1116 => (c.t.group g).trapaddr.setWidth 32
  | 1117 => ((c.t.group g).trapaddr >>> 32).setWidth 32
  | _ => 0

/-! ### Reading sources -/

/-- A vector or uniform register, with its tag; a word waiting for its replay reads what it first read (R129). -/
def Ctx.reg (c : Ctx) (th n : Nat) : Word × Bool :=
  match c.b.frozen.find? (fun x => x.thread = th && x.reg = n) with
  | some x => (x.value, x.tag)
  | none =>
    if n < 768 then (Sparse.get (c.t.thread th).v 0 n, Sparse.get (c.t.thread th).vt false n)
    else (Sparse.get (c.t.group (c.t.groupOf th)).s 0 (n - 768), false)

/-- Entries of a pipe q0 to q15. -/
def Team.pipe (t : Team) (q : Nat) : List (Sparse Word) := Sparse.get t.pipes [] q

/-- What a queue port presents to a thread: its home-lane element of the head entry (R107, R109, R111). -/
def Ctx.port (c : Ctx) (th q : Nat) : Word :=
  match c.b.frozen.find? (fun x => x.thread = th && x.reg = 1024 + q) with
  | some x => x.value
  | none =>
  if q < 16 then Sparse.get ((c.t.pipe q).headD []) 0 (c.t.laneOf th)
  else if q = 16 then c.t.notices.headD 0
  else
    match c.t.replies.find? (fun r => r.1 = q && r.2.1 = c.t.groupOf th) with
    | some r => Sparse.get r.2.2 0 (c.t.laneOf th)
    | none => 0

/-- The 32-bit value and the tag of a source field in a lane (R69). -/
def Ctx.src (c : Ctx) (th n : Nat) : Word × Bool :=
  if n < 1024 then c.reg th n
  else if n < 1088 then (c.port th (n - 1024), false)
  else if n < 1152 then (c.special th n, false)
  else if n < 1280 then (if (c.t.thread th).pred (n - 1152) then 1 else 0, false)
  else if n < 1536 then (BitVec.ofNat 32 (n - 1280), false)
  else (BitVec.ofNat 32 (constTable.getD (n - 1536) 0), false)

/-- The value of a source field. -/
def Ctx.val (c : Ctx) (th n : Nat) : Word := (c.src th n).1

/-- The tag of a source field. -/
def Ctx.tag (c : Ctx) (th n : Nat) : Bool := (c.src th n).2

/-- A source of a FLT word of element form M (R85). -/
def Ctx.valF (c : Ctx) (m th n : Nat) : Word :=
  if 1536 ≤ n && n < 1600 then BitVec.ofNat 32 (constAs m (n - 1536)) else c.val th n

/-- The 64-bit value of a pair, a 64-bit special register or an inline constant (R70). -/
def Ctx.pair (c : Ctx) (th n : Nat) : DWord :=
  if 1280 ≤ n then (c.val th n).setWidth 64
  else (c.val th (n + 1)) ++ (c.val th n)

/-- The OR of the tags of `k` registers from one (R70, R218). -/
def Ctx.tags (c : Ctx) (th n k : Nat) : Bool := n < 768 && (upFrom n k).any (fun r => c.tag th r)

/-! ### Operand shapes (R69, R70, R86, R172) -/

/-- What an entry calls for in a field. -/
inductive Shape where
  /-- any 32-bit source -/
  | src
  /-- any destination -/
  | dst
  /-- a 64-bit source -/
  | pair
  /-- an address pair: a vector or uniform pair -/
  | addr
  /-- an even vector or uniform register of a destination pair -/
  | dstPair
  /-- an even vector register of a pair -/
  | vecPair
  /-- `count` vector registers from a multiple of `align` -/
  | vec (align count : Nat)
  /-- a vector or uniform register -/
  | vecOrUni
  /-- a vector, uniform or predicate register -/
  | vecUniPred
  /-- a predicate -/
  | pred
  /-- a predicate or an inline constant -/
  | predOrConst
  /-- a predicate at a multiple of 32 -/
  | predBlock
  /-- a vector register number, not checked against the declaration (R74) -/
  | base
  /-- a guard or carry predicate by its own number -/
  | predNumber
  /-- a view register number (R176) -/
  | view
  /-- an accumulator tile (R69) -/
  | tile
  /-- MOVS: a uniform pair, a 64-bit special register or an inline constant (R181) -/
  | movs
  /-- 64-bit store data: a pair or an inline constant (R229) -/
  | data64
  /-- 32-bit store data or data of fewer bits -/
  | data32
  /-- a queue port number up to 23 (R259) -/
  | port
  deriving DecidableEq, Repr

def Decl.isVec (d : Decl) (n : Nat) : Bool := n < 768 && n < d.vregs
def Decl.isUni (d : Decl) (n : Nat) : Bool := 768 ≤ n && n < 1024 && n - 768 < d.sregs
def Decl.isPred (d : Decl) (n : Nat) : Bool := 1152 ≤ n && n < 1280 && n - 1152 < d.preds

/-- A special register number that R81 assigns. -/
def isSpecial (n : Nat) : Bool := 1088 ≤ n && n ≤ 1117 && n != 1111

/-- Whether a field's number has the shape its entry calls for, under a kernel's declarations. -/
def Shape.ok (sh : Shape) (d : Decl) (n : Nat) : Bool :=
  match sh with
  | .src => d.isVec n || d.isUni n || (1024 ≤ n && n ≤ 1047) || isSpecial n || d.isPred n ||
      (1280 ≤ n && n < 1600)
  | .dst => d.isVec n || d.isUni n || (1024 ≤ n && n ≤ 1039) || n = 1105 || n = 1106 || d.isPred n
  | .pair => n % 2 = 0 && ((d.isVec n && d.isVec (n + 1)) || (d.isUni n && d.isUni (n + 1)) ||
      n = 1112 || n = 1114 || n = 1116) || (1280 ≤ n && n < 1536)
  | .addr => n % 2 = 0 && ((d.isVec n && d.isVec (n + 1)) || (d.isUni n && d.isUni (n + 1)))
  | .dstPair => n % 2 = 0 && ((d.isVec n && d.isVec (n + 1)) || (d.isUni n && d.isUni (n + 1)))
  | .vecPair => n % 2 = 0 && d.isVec n && d.isVec (n + 1)
  | .vec align count => n % align = 0 && n + count ≤ 768 && n + count ≤ d.vregs
  | .vecOrUni => d.isVec n || d.isUni n
  | .vecUniPred => d.isVec n || d.isUni n || d.isPred n
  | .pred => d.isPred n
  | .predOrConst => d.isPred n || (1280 ≤ n && n < 1536)
  | .predBlock => d.isPred n && n % 32 = 0
  | .base => n < 768
  | .predNumber => n < d.preds
  | .view => n < 16 && n < d.views
  | .tile => n < d.acc
  | .movs => n % 2 = 0 && ((d.isUni n && d.isUni (n + 1)) || n = 1112 || n = 1114 || n = 1116) ||
      (1280 ≤ n && n < 1536)
  | .data64 => n % 2 = 0 && ((d.isVec n && d.isVec (n + 1)) || (d.isUni n && d.isUni (n + 1))) ||
      (1280 ≤ n && n < 1536)
  | .data32 => d.isVec n || d.isUni n || (1024 ≤ n && n ≤ 1047) || isSpecial n || d.isPred n ||
      (1280 ≤ n && n < 1600)
  | .port => n ≤ 23

/-- A field with the code that a record gives it: 0 D, 1 A, 2 B, 3 C, 4 P, 5 view, 6 tile (R301). -/
structure Field where
  code : Nat
  value : Nat
  shape : Shape

/-- The field D, A, B, C of a word in a shape; view and tile fields have codes of their own. -/
def Field.mk' (pos : Nat) (n : BitVec 11) (sh : Shape) : Field :=
  ⟨match sh with
   | .view => 5
   | .tile => 6
   | .predNumber => 4
   | _ => pos, n.toNat, sh⟩

def fD (n : BitVec 11) (sh : Shape) : Field := Field.mk' 0 n sh
def fA (n : BitVec 11) (sh : Shape) : Field := Field.mk' 1 n sh
def fB (n : BitVec 11) (sh : Shape) : Field := Field.mk' 2 n sh
def fC (n : BitVec 11) (sh : Shape) : Field := Field.mk' 3 n sh

/-- CODE of a field (R301). -/
def Field.info (f : Field) : Word := BitVec.ofNat 32 (f.code + f.value % 2048 * 16)

/-! ### Traps at a word -/

/-- A precise trap on the active lanes. -/
def Ctx.trap (c : Ctx) (cause : BitVec 8) (code : Word := 0) (addr : DWord := 0) : TrapInfo :=
  { cause := cause, mask := c.t.mask c.act, addr := addr, code := code }

/-- A precise trap on some lanes. -/
def Ctx.trapOn (c : Ctx) (lanes : List Nat) (cause : BitVec 8) (code : Word := 0) (addr : DWord := 0) :
    TrapInfo :=
  { cause := cause, mask := c.t.mask lanes, addr := addr, code := code }

/-- The first failing field of a list, as the operand-number trap (R69, R179 step 6). -/
def Ctx.shapeTrap (c : Ctx) (fs : List Field) : Option TrapInfo :=
  (fs.find? (fun f => !f.shape.ok c.t.decl f.value)).map (fun f => c.trap 0x03 f.info)

/-- The bounded-operand trap of fields whose tags are checked (R67): code, number, how many registers. -/
def Ctx.tagTrap (c : Ctx) (fs : List (Nat × Nat × Nat)) : Option TrapInfo :=
  let bad := c.act.filter (fun th => fs.any (fun f => c.tags th f.2.1 f.2.2))
  match fs.find? (fun f => c.act.any (fun th => c.tags th f.2.1 f.2.2)) with
  | some f => some (c.trapOn bad 0x09 (Field.info ⟨f.1, f.2.1, .src⟩))
  | none => none

/-! ### Destinations -/

/-- The result of a word in one lane: value, tag, and the conditions its %fstat takes (R83). -/
structure Res where
  value : Word
  tag : Bool := false
  conds : Conds := 0

/-- Whether a destination carries no tag: any write of a tagged value into it traps (R67). -/
def untagged (d : Nat) : Bool := 768 ≤ d

/-- The traps of writing results to a destination: a tagged value into a destination without tags (R67, R77,
R78, R107), and a reserved bit into %fctl or %fstat (R83). -/
def Ctx.writeTrap (c : Ctx) (d : Nat) (res : Nat → Res) : Option TrapInfo :=
  let bad := c.act.filter (fun th => (res th).tag)
  if untagged d && !bad.isEmpty then some (c.trapOn bad 0x09 (Field.info ⟨0, d, .dst⟩))
  else if d = 1105 && c.act.any (fun th => 4 ≤ (res th).value.toNat) then
    some (c.trap 0x03 (Field.info ⟨0, d, .dst⟩))
  else if d = 1106 && c.act.any (fun th => 32 ≤ (res th).value.toNat) then
    some (c.trap 0x03 (Field.info ⟨0, d, .dst⟩))
  else none

/-- Writes a vector register of a thread with its tag: an error in it is gone (R103). -/
def Thread.setV (x : Thread) (n : Nat) (v : Word) (tag : Bool) : Thread :=
  { x with v := Sparse.put x.v 0 n v, vt := Sparse.put x.vt false n tag, bad := x.bad.filter (· ≠ n) }

/-- Writes a predicate of a thread: an error in it is gone (R103). -/
def Thread.setP (x : Thread) (n : Nat) (v : Bool) : Thread :=
  { x with p := Sparse.put x.p false n v, bad := x.bad.filter (· ≠ n + 1152) }

/-- Writes a uniform register of a group. -/
def Group.setS (x : Group) (n : Nat) (v : Word) : Group :=
  { x with s := Sparse.put x.s 0 n v, bad := x.bad.filter (· ≠ n + 768) }

/-- Writes one lane of a destination other than a uniform register or a queue (R69, R78, R83). -/
def Thread.setDst (x : Thread) (d : Nat) (v : Word) (tag : Bool) : Thread :=
  if d < 768 then x.setV d v tag
  else if d = 1105 then { x with rm := v.setWidth 2 }
  else if d = 1106 then { x with fstat := v.setWidth 5 }
  else if 1152 ≤ d && d < 1280 then x.setP (d - 1152) (v != 0)
  else x

/-- Writes a destination in the active lanes (R6): per lane, per group (R77), or one pipe entry (R107). -/
def Ctx.write (c : Ctx) (t : Team) (d : Nat) (res : Nat → Res) : Team :=
  if 768 ≤ d && d < 1024 then
    c.groups.foldl (fun t g => t.mapGroup g (fun x => x.setS (d - 768) (res (c.leader g)).value)) t
  else if 1024 ≤ d && d < 1040 then
    if c.act.isEmpty then t
    else
      let e := c.act.foldl (fun e th => Sparse.put e 0 (c.t.laneOf th) (res th).value) []
      { t with pipes := Sparse.put t.pipes [] (d - 1024) (t.pipe (d - 1024) ++ [e]) }
  else
    c.act.foldl (fun t th => t.mapThread th (fun x => x.setDst d (res th).value (res th).tag)) t

/-- Writes a pair in the active lanes (R70). -/
def Ctx.writePair (c : Ctx) (t : Team) (d : Nat) (res : Nat → DWord) (tag : Nat → Bool) : Team :=
  let t := c.write t d (fun th => ⟨(res th).setWidth 32, tag th, 0⟩)
  c.write t (d + 1) (fun th => ⟨(res th >>> 32).setWidth 32, tag th, 0⟩)

/-- Queue ports a list of source fields names, each once (R107). -/
def portsOf (fields : List Nat) : List Nat :=
  sortUp ((fields.filter (fun n => 1024 ≤ n && n < 1048)).map (· - 1024))

/-- Drops the oldest reply on a port addressed to a group. -/
def dropReply (rs : List (Nat × Nat × Sparse Word)) (q g : Nat) : List (Nat × Nat × Sparse Word) :=
  match rs with
  | [] => []
  | r :: rest => if r.1 = q && r.2.1 = g then rest else r :: dropReply rest q g

/-- Where the entry that a pop of a queue port takes stands among the port's: at the head, or, of a reply port, the
oldest that is addressed to the group (R111). -/
def Team.popsAt (t : Team) (q g : Nat) : Nat :=
  if q ≤ 16 then 0 else (t.replies.filter (fun r => r.1 = q)).findIdx (fun r => r.2.1 = g)

/-- One pop of a queue port, for a group (R107, R109, R111). -/
def Team.popOne (t : Team) (q g : Nat) : Team :=
  let ranks := Sparse.put t.ranks [] q ((Sparse.get t.ranks [] q).eraseIdx (t.popsAt q g))
  if q < 16 then { t with pipes := Sparse.put t.pipes [] q (t.pipe q).tail, ranks := ranks }
  else if q = 16 then { t with notices := t.notices.tail, ranks := ranks }
  else { t with replies := dropReply t.replies q g, ranks := ranks }

/-- Pops the queue ports that a word's source fields name, once each (R107, R109, R111). -/
def Ctx.pop (c : Ctx) (t : Team) (fields : List Nat) : Team :=
  if c.act.isEmpty || !c.b.frozen.isEmpty then t
  else (portsOf fields).foldl (fun t q =>
    if q ≤ 16 then t.popOne q 0 else c.groups.foldl (fun t g => t.popOne q g) t) t

/-- The rank of the entry that a pop of a queue port takes, for a group; the entries before it have theirs too. -/
def Team.rankOne (t : Team) (q g : Nat) : Nat × Team :=
  let rs := Sparse.get t.ranks [] q
  let i := t.popsAt q g
  let all := rs ++ upFrom t.nextRank (i + 1 - rs.length)
  (all.getD i 0, { t with ranks := Sparse.put t.ranks [] q all, nextRank := t.nextRank + (i + 1 - rs.length) })

/-- Entries of a port that parked accesses have popped, and that stand in it again where the access is taken back
(R299, R318). -/
def Team.owed (t : Team) (q : Nat) : Nat :=
  ((t.bundles.filter (fun b => match b.wait with
    | .monitor => false
    | .barw _ _ => false
    | _ => true)).flatMap (fun b => b.popped.filter (fun x => x.1 = q))).length

/-- Whether the queue ports of a word let it issue (R107, R111): an entry in each port it reads, a free slot in
the pipe it writes after its own pops. -/
def Ctx.portsReady (c : Ctx) (fields : List Nat) (dst : Option Nat) : Bool :=
  c.act.isEmpty ||
  ((!c.b.frozen.isEmpty || (portsOf fields).all (fun q =>
      if q < 16 then !(c.t.pipe q).isEmpty
      else q = 16 || c.groups.all (fun g => c.t.replies.any (fun r => r.1 = q && r.2.1 = g)))) &&
   (match dst with
    | some d =>
      if 1024 ≤ d && d < 1040 then
        (c.s.words.filter (fun w => w.team = c.tk && w.pipe = some (d - 1024))).length +
          (c.t.pipe (d - 1024)).length + c.t.owed (d - 1024) -
          (if (portsOf fields).contains (d - 1024) then 1 else 0) < 8
      else true
    | none => true))

/-- A queue port among some source fields has no entry to read yet (R107): the word cannot check what depends on
that entry, and waits for it once its other checks have passed. -/
def Ctx.dry (c : Ctx) (fields : List Nat) : Bool := !c.portsReady fields none

/-- Whether a source operand has its value: where it names a queue port, the port holds an entry (R107). A check of step 8
that needs no more than such operands is made at once (R179). -/
def Ctx.has (c : Ctx) (n : BitVec 11) : Bool := !c.dry [n.toNat]

/-- What a record shows of an operand: what no rule gives while its queue port holds no entry (log 15). -/
def Ctx.shown (c : Ctx) (th : Nat) (n : BitVec 11) : Word :=
  if c.has n then c.val th n.toNat else Config.missingEntry c.s.now

/-- The traps of writing results whose sources may still lack an entry: a reserved bit depends on the value, a
tag only where `pick` fields choose the source. -/
def Ctx.resultTrap (c : Ctx) (srcs pick : List Nat) (d : Nat) (res : Nat → Res) : Option TrapInfo :=
  if c.dry pick then none
  else if c.dry srcs && (d = 1105 || d = 1106) then c.writeTrap d (fun th => { res th with value := 0 })
  else c.writeTrap d res

/-- Registers and ports of the source fields as they read now, kept for a replay (R129) or a wait; the last entry
of a lane only says that it is active. -/
def Ctx.freeze (c : Ctx) (fields : List Nat) : List Frozen :=
  c.act.flatMap (fun th =>
    (((fields.filter (· < 1024)).flatMap (fun f => upFrom f 4)).map (fun n =>
      let x := c.reg th n
      ⟨th, n, x.1, x.2⟩ : Nat → Frozen)) ++
    (portsOf fields).map (fun q => ⟨th, 1024 + q, c.port th q, false⟩) ++ [⟨th, 4096, 0, false⟩])

end Sys2Proof.Machine
end

