-- ==== Sys2Proof/Machine/Flags.lean ====
section
/-!
DEFINITION. The flags and counters: completion flags (R140, R141), outstanding-operation counters (R144,
R145), the floating-point conditions of %fstat (R83), and the skid (R148).
-/
namespace Sys2Proof.Machine

/-- The flag a word with a long-latency effect counts on (R140): by its F bit; none without an active lane. -/
def Ctx.flag (c : Ctx) (f : Bool) : Option Nat :=
  if c.act.isEmpty then none
  else match c.b.clause with
    | some cl => headerFlag cl.header f
    | none => none

/-- Adds 1 to a flag of each of some groups. -/
def Team.raiseFlag (t : Team) (gs : List Nat) (f : Option Nat) : Team :=
  match f with
  | none => t
  | some i => gs.foldl (fun t g => t.mapGroup g (fun x => x.addFlag i)) t

/-- Subtracts 1 from a flag of each of some groups. -/
def Team.lowerFlag (t : Team) (gs : List Nat) (f : Option Nat) : Team :=
  match f with
  | none => t
  | some i => gs.foldl (fun t g => t.mapGroup g (fun x => x.subFlag i)) t

/-- A flag at 63 stalls the word that would raise it (R141); a parked access has raised it (R143). -/
def Ctx.flagFull (c : Ctx) (f : Option Nat) : Bool :=
  match f with
  | none => false
  | some i => c.b.frozen.isEmpty && c.groups.any (fun g => 63 ≤ (c.t.group g).flag i)

/-- A counter at 1,023 stalls the word that would raise it for some groups (R145); a parked access counts already. -/
def Ctx.fullFor (c : Ctx) (gs : List Nat) (i : Nat) : Bool :=
  gs.any (fun g => !c.b.counted.contains g && 1023 ≤ (c.t.group g).counter i)

/-- A counter at 1,023 stalls the word that would raise it (R145). -/
def Ctx.counterFull (c : Ctx) (i : Nat) : Bool := c.fullFor c.groups i

/-- Adds 1 to a counter of a group (R144). -/
def Team.raiseCounter (t : Team) (g i : Nat) : Team := t.mapGroup g (fun x => x.addCounter i)

/-- Subtracts 1 from a counter of a group (R145). -/
def Team.lowerCounter (t : Team) (g i : Nat) : Team := t.mapGroup g (fun x => x.subCounter i)

/-- The flag of a counted word rises for its groups, once: at issue, also where the access is then parked (R140,
R143). -/
def Ctx.raise (c : Ctx) (t : Team) (f : Option Nat) : Team :=
  if c.b.frozen.isEmpty then t.raiseFlag c.groups f else t

/-- A counter rises for some groups, once; a group for which a parked access counted, and which it concerns no more,
falls again (R144). -/
def Ctx.raiseFor (c : Ctx) (t : Team) (gs : List Nat) (i : Nat) : Team :=
  let t := (gs.filter (fun g => !c.b.counted.contains g)).foldl (fun t g => t.raiseCounter g i) t
  if c.act.isEmpty then t
  else (c.b.counted.filter (fun g => !gs.contains g)).foldl (fun t g => t.lowerCounter g i) t

/-- Whether a clause's WAIT field holds for some groups (R141, R29). -/
def Team.waitMet (t : Team) (header : DWord) (gs : List Nat) : Bool :=
  (upFrom 0 12).all (fun i => !header.getLsbD (20 + i) ||
    gs.all (fun g => (t.group g).flag i = 0))

/-- ORs the conditions of each active lane's result into its %fstat (R83): after the write. -/
def Ctx.orConds (c : Ctx) (t : Team) (res : Nat → Res) : Team :=
  c.act.foldl (fun t th => t.mapThread th (fun x => { x with fstat := x.fstat ||| (res th).conds })) t

/-- Whether a halt spreads in the team. -/
def Team.stops (t : Team) : Bool :=
  match t.halt with
  | some h => h.phase == .stopping
  | none => false

/-- A word retires during the skid of a halt (R148, R307). -/
def Team.countSkid (t : Team) (gs : List Nat) : Team :=
  if t.stops then gs.foldl (fun t g => t.mapGroup g (fun x => { x with skid := x.skid + 1 })) t else t

/-- The bundle moves past the word and its literals (R162, R170). A parked access that a halt lets complete is no word of
the skid (R143, R307). -/
def Ctx.finish (c : Ctx) (t : Team) (len : Nat) : Team :=
  let t := t.mapBundle c.bi (fun b => b.advance len)
  if c.b.frozen.isEmpty then t.countSkid c.present else t

/-- What a word's source ports give up when it is issued. -/
def Ctx.poppedBy (c : Ctx) (fields : List Nat) : List (Nat × Nat × Sparse Word) :=
  (portsOf fields).flatMap (fun q =>
    if q < 16 then [(q, 0, (c.t.pipe q).headD [])]
    else if q = 16 then
      match c.t.notices with
      | n :: _ => [(q, 0, [(0, n)])]
      | [] => []
    else c.groups.filterMap (fun g => c.t.replies.find? (fun r => r.1 = q && r.2.1 = g)))

/-- The pops of a word that waits, each with the rank of its entry (R106, R129). -/
def popRanked (t : Team) (xs : List (Nat × Nat × Sparse Word)) : Team × List Nat :=
  xs.foldl (fun acc x =>
    let r := acc.1.rankOne x.1 x.2.1
    (r.2.popOne x.1 x.2.1, acc.2 ++ [r.1])) (t, [])

/-- The bundle stays at a word that it has issued: the word has read its sources and popped its ports (R129). -/
def Ctx.keep (c : Ctx) (t : Team) (w : Wait) (srcs : List Nat) : Team :=
  if c.b.frozen.isEmpty then
    let xs := if c.act.isEmpty then [] else c.poppedBy srcs
    let r := popRanked t xs
    r.1.mapBundle c.bi (fun b => { b with wait := w, frozen := c.freeze srcs, popped := xs, poppedRanks := r.2 })
  else t.mapBundle c.bi (fun b => { b with wait := w })

/-- The bundle waits at its word, and the cycle of its issue stands (R248, R252). -/
def Ctx.waitAt (c : Ctx) (t : Team) (w : Wait) (srcs : List Nat) : Team :=
  (c.keep t w srcs).mapBundle c.bi (fun b =>
    { b with since := some (b.since.getD (c.s.cycle (c.coreOf (c.act.headD 0)))) })

/-- Whether a lane of a copy has ended (R256). -/
def CopyLane.complete (l : CopyLane) : Bool := l.failed || l.count / 16 ≤ l.moved.length

/-- Lowest-numbered group of a bundle. -/
def Bundle.lead (b : Bundle) (t : Team) : Nat := (sortUp (b.members.map t.groupOf)).headD 0

/-- The place of a group's alcove in the order of R108: the even core's alcoves, then the odd core's. -/
def Team.alcoveRank (t : Team) (g : Nat) : Nat := g % 4 + 4 * (t.coreOf g - t.core)

/-- Whether a pipe has served, in this cycle, an alcove that comes after that of a group (R108). -/
def State.pipeServed (s : State) (t : Team) (q g : Nat) : Bool :=
  let u := Sparse.get t.pipeUsed (0, 0) q
  u.1 = s.cycle t.core && t.alcoveRank g < u.2

/-- A counted word enters the list of words in flight (R140). -/
def State.addWord (s : State) (w : CWord) : State := { s with words := s.words ++ [w], nextId := s.nextId + 1 }

/-- A word in flight for the active lanes, counted on its flag. -/
def Ctx.newWord (c : Ctx) (f : Bool) : CWord :=
  { id := c.s.nextId, team := c.tk, clause := c.b.pc, widx := c.b.widx, flag := c.flag f, groups := c.groups,
    lead := c.b.lead c.t }

/-- Registers a completion writes, in the team (R142). -/
def Team.writeReg (t : Team) (w : RegWrite) : Team :=
  if 768 ≤ w.reg && w.reg < 1024 then t.mapGroup (t.groupOf w.thread) (fun x => x.setS (w.reg - 768) w.value)
  else t.mapThread w.thread (fun x => x.setDst w.reg w.value w.tag)

/-- Destination registers for a lane: a vector register is the lane's own; a uniform register takes only the
value of its group's lowest-numbered active lane (R77). -/
def Ctx.regsOf (c : Ctx) (d k th : Nat) : List Nat :=
  if 768 ≤ d && d < 1024 then (if c.leader (c.t.groupOf th) = th then upFrom d k else []) else upFrom d k

end Sys2Proof.Machine
end

