-- ==== Sys2Proof/Machine/Issue.lean ====
section
/-!
DEFINITION. The issue of one word: the checks of R179 in their order, the stalls (R107, R141, R145), and the
effect. Every meaning of a word is `issue` of its own description.
-/
namespace Sys2Proof.Machine

/-- The class of an opcode (R165): 0 GEN, 1 FLT, 2 MAT, 3 MEM, 4 SYN. -/
def opClass (op : Nat) : Nat :=
  if op < 0x40 then 0 else if op < 0x70 then 1 else if op < 0x80 then 2 else if op < 0xA0 then 3 else 4

/-- What an address check or a replayable cause answers before any lane accesses memory (R227). -/
inductive Verdict where
  | pass
  | trap (info : TrapInfo)
  /-- cause, failing lanes, address of the lowest, whether the access writes -/
  | replay (cause : Nat) (threads : List Nat) (address : Nat) (write : Bool)

/-- How many registers a field of a shape names. -/
def Shape.extent (sh : Shape) : Nat :=
  match sh with
  | .src | .data32 | .vecOrUni | .vecUniPred | .pred | .predOrConst => 1
  | .pair | .addr | .dstPair | .vecPair | .movs | .data64 => 2
  | .vec _ n => n
  | .predBlock => 32
  | _ => 0

/-- Whether a word reads a field: a source, and D of a store, a CAS, a BITF3 or a PLOP (R229, R232, R191, R194); a VSET does
not read the view register that it writes (R234). -/
def Field.read (op : Nat) (f : Field) : Bool :=
  (1 ≤ f.code && f.code ≤ 3) || (f.code = 0 && [0x24, 0x31, 0x81, 0x83, 0x84, 0x8A].contains op) ||
  (f.code = 5 && op ≠ 0x91)

/-- Registers that a word reads through its fields: by operand number vector and uniform registers and predicates, and view
register k as 2048 + k. -/
def fieldReads (op : Nat) (fields : List Field) : List Nat :=
  (fields.filter (Field.read op)).flatMap (fun f =>
    match f.shape with
    | .view => [2048 + f.value]
    | .predNumber => [1152 + f.value]
    | sh => (upFrom f.value sh.extent).filter (fun n => n < 1024 || (1152 ≤ n && n < 1280)))

/-- A word as the issue sees it: everything R179 asks of it, and its effect. -/
structure WordSpec where
  op : Nat
  /-- the word with its literals (R170) -/
  len : Nat := 1
  guard : Guard
  /-- operand fields read as data: queue ports among them are popped -/
  srcs : List Nat := []
  /-- a destination field that may name a queue port -/
  dst : Option Nat := none
  /-- a control transfer (R166) -/
  transfer : Bool := false
  /-- step 4 -/
  form : Ctx → Bool
  /-- step 5 -/
  viewStore : Bool := false
  /-- step 6 -/
  fields : List Field := []
  /-- step 7 -/
  policy : Ctx → Option TrapInfo := fun _ => none
  /-- step 8: the entry's own checks in the entry's order -/
  own : Ctx → Option TrapInfo := fun _ => none
  /-- the stalls of the entry beyond its queue ports -/
  stall : Ctx → Bool := fun _ => false
  /-- step 9: addresses and replayable causes, made when the access is made -/
  access : Ctx → Verdict := fun _ => .pass
  /-- the state once the pages that step 9 touches are mapped, whatever it answers (R122, R125) -/
  touch : Ctx → State := fun c => c.s
  /-- bytes of scratch that the word meets as it issues, by a thread of the access (R103) -/
  scratch : Ctx → List (Nat × List Nat) := fun _ => []
  /-- the registers that an active lane reads, each of a thread's own lane or group (R103) -/
  reads : Ctx → Nat → List (Nat × Nat) := fun _ th => (fieldReads op fields).map (fun n => (th, n))
  /-- F of a word that counts on a flag also while it is parked (R143) -/
  flagged : Option Bool := none
  /-- counter and groups of the engine operation that the word is (R144) -/
  counts : Ctx → Option (Nat × List Nat) := fun _ => none
  /-- the whole effect, the move past the word included -/
  run : Ctx → State

/-- Step 2 of R179: the class stands in the clause (R165). -/
def Ctx.classOk (c : Ctx) (op : Nat) : Bool :=
  match c.b.clause with
  | some cl => opClass op = 0 || opClass op = fld cl.header 43 40
  | none => false

/-- Step 3 of R179: a control transfer is the last word (R166). -/
def Ctx.lastWord (c : Ctx) : Bool := c.b.idx + 1 = c.b.count

/-- The guard's predicate is declared (R69). -/
def Guard.ok (gd : Guard) (d : Decl) : Bool := !gd.g || gd.p < d.preds

/-- A VSET of a group of this word is parked in another bundle, and fills a view register that the word names: the word
stalls (R234). -/
def Ctx.viewPending (c : Ctx) (fields : List Field) : Bool :=
  c.t.bundles.zipIdx.any (fun x => decide (x.2 ≠ c.bi) && fld x.1.stopWord 63 56 = 0x91 &&
    fields.any (fun f => f.code = 5 && f.value = fld x.1.stopWord 33 23) &&
    x.1.frozen.any (fun y => c.present.contains (c.t.groupOf y.thread)))

/-- Steps 2 to 8 of R179. Step 1 is the decoder's: an unassigned opcode is a word of its own. While a VSET fills the word's
view register, no check of the entry that may read the register is made: the bounded-operand check (0x09) reads none (log 118). -/
def Ctx.check (c : Ctx) (w : WordSpec) : Option TrapInfo :=
  if !c.classOk w.op then some (c.trap 0x01)
  else if w.transfer && !c.lastWord then some (c.trap 0x01)
  else if !w.form c then some (c.trap 0x01)
  else if w.viewStore then some (c.trap 0x0A)
  else
    match c.shapeTrap w.fields with
    | some i => some i
    | none =>
      if !w.guard.ok c.t.decl then some (c.trap 0x03 (Field.info ⟨4, w.guard.p, .predNumber⟩))
      else
        match w.policy c with
        | some i => some i
        | none => (w.own c).filter (fun i => !c.viewPending w.fields || i.cause = 0x09)

/-- Whether the word waits: its ports, or its entry's own stalls. -/
def Ctx.stalls (c : Ctx) (w : WordSpec) : Bool :=
  !c.portsReady w.srcs w.dst || c.viewPending w.fields || w.stall c

/-- The bundle stays at its word. -/
def Ctx.hold (c : Ctx) (w : Wait) : State :=
  c.s.setTeam c.tk (c.t.mapBundle c.bi (fun b => { b with wait := w }))

/-- Bundles of a core parked by a replayable cause: the entries of its fault buffer (R129). -/
def State.faultBuffer (s : State) (core : Nat) : Nat :=
  (s.teams.map (·.2)).foldl (fun n t => n + (t.bundles.filter (fun b =>
    (match b.wait with
     | .replay .. => true
     | .fetchReplay _ => true
     | _ => false) && t.coreOf (t.groupOf (b.members.headD 0)) = core)).length) 0

/-- Posts a migration request where the die's queue has room (R115). A page for which a request waits gets no second
one (log 74). -/
def State.postMigration (s : State) (die : Nat) (m : Migrate) : State :=
  let d := s.die die
  if d.migration.any (fun x => x.ctx = m.ctx && x.vi = m.vi && x.va = m.va && x.target = m.target) ||
      1024 ≤ d.migration.length then s
  else s.setDie die { d with migration := d.migration ++ [m] }

/-- A word that is parked counts from its issue on (R143, R144): its flag and its counter rise once. -/
def Ctx.countParked (c : Ctx) (w : WordSpec) (t : Team) : Team :=
  if !c.b.frozen.isEmpty then t
  else
    let t := match w.flagged with
      | some f => t.raiseFlag c.groups (c.flag f)
      | none => t
    match w.counts c with
    | some (i, gs) => (gs.foldl (fun t g => t.raiseCounter g i) t).mapBundle c.bi (fun b => { b with counted := gs })
    | none => t

/-- Parks a bundle on a replayable cause (R129): its operands stay as first read, its request is posted. -/
def Ctx.park (c : Ctx) (w : WordSpec) (cause : Nat) (threads : List Nat) (address : Nat) (write : Bool) : State :=
  let core := c.coreOf (threads.headD 0)
  if 64 ≤ c.s.faultBuffer core then c.hold .stalled
  else
    let s := c.s.setTeam c.tk ((c.countParked w (c.keep c.t (.replay cause threads address write) w.srcs)).mapBundle
      c.bi (fun b => { b with since := some (b.since.getD c.s.now) }))
    if cause = 0 then s
    else s.postMigration (coreDie core) { ctx := c.t.ctx, vi := c.t.vi, va := BitVec.ofNat 64 address }

/-- The word as it stands once step 9 has touched its pages (R122, R125). -/
def Ctx.touched (c : Ctx) (w : WordSpec) : Ctx := { c with s := w.touch c }

/-- Issues a word on the current bundle. A trap is taken, a wait holds the bundle, otherwise the word has its
effect. Outside an issue there is no word. -/
def issue (w : WordSpec) (s : State) : Out :=
  match s.ctx w.guard with
  | none => .fault .noBundle
  | some c =>
    match c.check w with
    | some i => .next (raiseTrap s c.tk c.bi i)
    | none =>
      if c.stalls w then .next (c.hold .stalled)
      else
        match w.access c with
        | .trap i => .next (raiseTrap (w.touch c) c.tk c.bi i)
        | .replay cause ths a wr => .next ((c.touched w).park w cause ths a wr)
        | .pass => .next (w.run c)

/-- The effect of a word that changes its team alone: the change, the ports popped, the move past the word. -/
def Ctx.done (c : Ctx) (w : WordSpec) (t : Team) : State :=
  c.s.setTeam c.tk (c.finish (c.pop t w.srcs) w.len)

/-- A word that writes one result per active lane to a destination and records no condition (R180): `res` gives
value and tag from the sources as they stand; `pick` fields choose which source a lane reads. -/
def genSpec (i : Instr) (op : Nat) (guard : Guard) (d : BitVec 11) (srcs : List (BitVec 11))
    (fields : List Field) (own : Ctx → Option TrapInfo) (res : Ctx → Nat → Res)
    (pick : List (BitVec 11) := []) : WordSpec :=
  let ns := srcs.map BitVec.toNat
  { op := op, guard := guard, srcs := ns, dst := some d.toNat,
    form := fun _ => formOk i, fields := fields,
    own := fun c => match own c with
      | some x => some x
      | none => c.resultTrap ns (pick.map BitVec.toNat) d.toNat (res c),
    run := fun c => c.s.setTeam c.tk (c.finish (c.pop (c.write c.t d.toNat (res c)) ns) 1) }

/-- A FLT word that writes one result per active lane and ORs its conditions into %fstat after the write
(R201, R83). -/
def fltSpec (i : Instr) (op : Nat) (guard : Guard) (d : BitVec 11) (srcs : List (BitVec 11))
    (fields : List Field) (own : Ctx → Option TrapInfo) (res : Ctx → Nat → Res) : WordSpec :=
  let ns := srcs.map BitVec.toNat
  { op := op, guard := guard, srcs := ns, dst := some d.toNat,
    form := fun _ => formOk i, fields := fields,
    own := fun c => match own c with
      | some x => some x
      | none => c.resultTrap ns [] d.toNat (res c),
    run := fun c => c.s.setTeam c.tk
      (c.finish (c.pop (c.orConds (c.write c.t d.toNat (res c)) (res c)) ns) 1) }

/-- No check of the entry's own. -/
def noOwn (_ : Ctx) : Option TrapInfo := none

/-- The bounded-operand check of some 32-bit source fields (R67), in the order D, A, B, C. -/
def tagsOf (fs : List (Nat × BitVec 11)) (c : Ctx) : Option TrapInfo :=
  c.tagTrap (fs.map (fun f => (f.1, f.2.toNat, 1)))

end Sys2Proof.Machine
end

