-- ==== Sys2Proof/Machine/Flt.lean ====
section
/-!
DEFINITION. Vector floating-point, conversion, group reductions and the tag instructions (R201 to R215).
-/
namespace Sys2Proof.Machine

/-- The rounding mode FCTL of a thread (R83). -/
def Ctx.rm (c : Ctx) (th : Nat) : RM := RM.ofBits (c.t.thread th).rm

/-- A rounded result as a lane's result. -/
def Rounded.res (r : Rounded) (tag : Bool) : Res := ⟨BitVec.ofNat 32 r.bits, tag, r.conds⟩

/-- Two sources of element type M; the destination tag propagates (R66, R201). -/
def fltSpec2 (i : Instr) (op : Nat) (w : RWord) (f : Fmt → RM → Nat → Nat → Rounded) : WordSpec :=
  let m := w.m.toNat
  fltSpec i op w.guard w.d [w.a, w.b] [fD w.d .dst, fA w.a .src, fB w.b .src] noOwn (fun c th =>
    let a := (c.valF m th w.a.toNat).toNat
    let b := (c.valF m th w.b.toNat).toNat
    (perElem m (fun F k => f F (c.rm th) (elem (elemWidth m) k a) (elem (elemWidth m) k b))).res
      (c.tag th w.a.toNat || c.tag th w.b.toNat))

/-- One source of element type M. -/
def fltSpec1 (i : Instr) (op : Nat) (w : RWord) (f : Fmt → RM → Nat → Rounded) : WordSpec :=
  let m := w.m.toNat
  fltSpec i op w.guard w.d [w.a] [fD w.d .dst, fA w.a .src] noOwn (fun c th =>
    let a := (c.valF m th w.a.toNat).toNat
    (perElem m (fun F k => f F (c.rm th) (elem (elemWidth m) k a))).res (c.tag th w.a.toNat))

/-! ### Arithmetic (R202 to R204) -/

def faddSpec (w : RWord) : WordSpec := fltSpec2 (.fadd w) 0x40 w (fun F rm a b => F.fadd rm a b)
def execFadd (w : RWord) (s : State) : Out := issue (faddSpec w) s

def fsubSpec (w : RWord) : WordSpec := fltSpec2 (.fsub w) 0x41 w (fun F rm a b => F.fsub rm a b)
def execFsub (w : RWord) (s : State) : Out := issue (fsubSpec w) s

def fmulSpec (w : RWord) : WordSpec := fltSpec2 (.fmul w) 0x42 w (fun F rm a b => F.fmul rm a b)
def execFmul (w : RWord) (s : State) : Out := issue (fmulSpec w) s

/-- FFMA (R202): one rounding. -/
def ffmaSpec (w : RWord) : WordSpec :=
  let m := w.m.toNat
  fltSpec (.ffma w) 0x43 w.guard w.d [w.a, w.b, w.c]
    [fD w.d .dst, fA w.a .src, fB w.b .src, fC w.c .src] noOwn (fun c th =>
      let a := (c.valF m th w.a.toNat).toNat
      let b := (c.valF m th w.b.toNat).toNat
      let x := (c.valF m th w.c.toNat).toNat
      (perElem m (fun F k => F.ffma (c.rm th) (elem (elemWidth m) k a) (elem (elemWidth m) k b)
        (elem (elemWidth m) k x))).res
        (c.tag th w.a.toNat || c.tag th w.b.toNat || c.tag th w.c.toNat))
def execFfma (w : RWord) (s : State) : Out := issue (ffmaSpec w) s

def fminSpec (w : RWord) : WordSpec := fltSpec2 (.fmin w) 0x44 w (fun F _ a b => F.fminmax false a b)
def execFmin (w : RWord) (s : State) : Out := issue (fminSpec w) s

def fmaxSpec (w : RWord) : WordSpec := fltSpec2 (.fmax w) 0x45 w (fun F _ a b => F.fminmax true a b)
def execFmax (w : RWord) (s : State) : Out := issue (fmaxSpec w) s

/-- The sign bit of an element cleared, or inverted: NaN payloads stay (R202). -/
def Fmt.fabs (F : Fmt) (a : Nat) : Rounded := ⟨a % F.signBit true, 0⟩
def Fmt.fneg (F : Fmt) (a : Nat) : Rounded := ⟨a ^^^ F.signBit true, 0⟩

def fabsSpec (w : RWord) : WordSpec := fltSpec1 (.fabs w) 0x46 w (fun F _ a => F.fabs a)
def execFabs (w : RWord) (s : State) : Out := issue (fabsSpec w) s

def fnegSpec (w : RWord) : WordSpec := fltSpec1 (.fneg w) 0x47 w (fun F _ a => F.fneg a)
def execFneg (w : RWord) (s : State) : Out := issue (fnegSpec w) s

/-- The mode that FRND names, or FCTL (R204). -/
def frndMode (code : Nat) (fctl : RM) : RM := if code = 4 then fctl else RM.ofBits (BitVec.ofNat 2 code)

def frndSpec (w : RWord) : WordSpec :=
  fltSpec1 (.frnd w) 0x4A w (fun F rm a => F.frnd (frndMode (fld w.c 2 0) rm) a)
def execFrnd (w : RWord) (s : State) : Out := issue (frndSpec w) s

/-! ### Functions (R205) -/

/-- A function of one FP32 source. -/
def funSpec (i : Instr) (op : Nat) (w : RWord) (f : RM → Word → Rounded) : WordSpec :=
  fltSpec i op w.guard w.d [w.a] [fD w.d .dst, fA w.a .src] noOwn (fun c th =>
    (f (c.rm th) (c.val th w.a.toNat)).res (c.tag th w.a.toNat))

def frcpSpec (w : RWord) : WordSpec := funSpec (.frcp w) 0x50 w frcp
def execFrcp (w : RWord) (s : State) : Out := issue (frcpSpec w) s

def frsqSpec (w : RWord) : WordSpec := funSpec (.frsq w) 0x51 w (fun _ a => frsq a)
def execFrsq (w : RWord) (s : State) : Out := issue (frsqSpec w) s

def fsqrtSpec (w : RWord) : WordSpec := funSpec (.fsqrt w) 0x52 w (fun rm a => Fmt.fp32.fsqrt rm a.toNat)
def execFsqrt (w : RWord) (s : State) : Out := issue (fsqrtSpec w) s

def fexp2Spec (w : RWord) : WordSpec := funSpec (.fexp2 w) 0x53 w (fun _ a => fexp2 a)
def execFexp2 (w : RWord) (s : State) : Out := issue (fexp2Spec w) s

def flog2Spec (w : RWord) : WordSpec := funSpec (.flog2 w) 0x54 w (fun _ a => flog2 a)
def execFlog2 (w : RWord) (s : State) : Out := issue (flog2Spec w) s

def fsinSpec (w : RWord) : WordSpec := funSpec (.fsin w) 0x55 w (fun _ a => fsin a)
def execFsin (w : RWord) (s : State) : Out := issue (fsinSpec w) s

def fcosSpec (w : RWord) : WordSpec := funSpec (.fcos w) 0x56 w (fun _ a => fcos a)
def execFcos (w : RWord) (s : State) : Out := issue (fcosSpec w) s

def fdivSpec (w : RWord) : WordSpec := fltSpec2 (.fdiv w) 0x57 w (fun F rm a b => F.fdiv rm a b)
def execFdiv (w : RWord) (s : State) : Out := issue (fdivSpec w) s

/-! ### Compare and classify (R206, R207) -/

def fcmpSpec (w : RWord) : WordSpec :=
  fltSpec (.fcmp w) 0x48 w.guard w.d [w.a, w.b] [fD w.d .dst, fA w.a .src, fB w.b .src]
    (tagsOf [(1, w.a), (2, w.b)]) (fun c th =>
      let r := fcmp (fld w.c 3 0) (c.val th w.a.toNat).toNat (c.val th w.b.toNat).toNat
      ⟨truth r.1, false, r.2⟩)
where
  /-- a truth value as a register -/
  truth (b : Bool) : Word := if b then 1 else 0
def execFcmp (w : RWord) (s : State) : Out := issue (fcmpSpec w) s

/-- FCLASS of a word under a mask, for a predicate or another destination (R207). -/
def fclassResult (mask : Nat) (a : Word) : Word := BitVec.ofNat 32 (2 ^ fclass a.toNat) &&& BitVec.ofNat 32 mask

def fclassSpec (w : RWord) : WordSpec :=
  let isPred := 1152 ≤ w.d.toNat && w.d.toNat < 1280
  fltSpec (.fclass w) 0x49 w.guard w.d [w.a] [fD w.d .dst, fA w.a .src]
    (if isPred then tagsOf [(1, w.a)] else noOwn) (fun c th =>
      ⟨fclassResult (fld w.c 9 0) (c.val th w.a.toNat), c.tag th w.a.toNat && !isPred, 0⟩)
def execFclass (w : RWord) (s : State) : Out := issue (fclassSpec w) s

/-! ### Conversion and rescaling (R208 to R212) -/

/-- The rounding mode of CVT (R208). -/
def cvtMode (code : Nat) (fctl : RM) : RM := if code = 0 then .rne else if code = 1 then .rtz else fctl

/-- CVT (R208 to R210): a narrowing form merges into the old D, which is then a data source. -/
def cvtSpec (w : RWord) : WordSpec :=
  let src := fld w.c 3 0
  let dst := fld w.c 7 4
  let narrows := cvtBits dst < cvtBits src
  fltSpec (.cvt w) 0x60 w.guard w.d ([w.a, w.b] ++ if narrows then [w.d] else [])
    [fD w.d .dst, fA w.a .src, fB w.b .src]
    (tagsOf [(2, w.b)]) (fun c th =>
      (cvt src dst w.m.toNat (cvtMode (fld w.c 10 9) (c.rm th)) (w.c.getLsbD 8)
        (clampScale (c.val th w.b.toNat).toInt) (c.val th w.a.toNat).toNat (c.val th w.d.toNat).toNat).res
        (c.tag th w.a.toNat || (narrows && c.tag th w.d.toNat)))
def execCvt (w : RWord) (s : State) : Out := issue (cvtSpec w) s

def rqntSpec (w : RWord) : WordSpec :=
  fltSpec (.rqnt w) 0x61 w.guard w.d [w.a, w.b] [fD w.d .dst, fA w.a .src, fB w.b .src]
    (tagsOf [(2, w.b)]) (fun c th =>
      (rqnt w.m.toNat (c.val th w.b.toNat).toInt (c.val th w.a.toNat).toNat).res (c.tag th w.a.toNat))
def execRqnt (w : RWord) (s : State) : Out := issue (rqntSpec w) s

def bsmaxSpec (w : RWord) : WordSpec :=
  fltSpec (.bsmax w) 0x66 w.guard w.d [w.a, w.b] [fD w.d .dst, fA w.a .src, fB w.b .src]
    (tagsOf [(2, w.b)]) (fun c th =>
      ⟨BitVec.ofInt 32 (bsmax w.m.toNat (c.val th w.a.toNat).toNat (c.val th w.b.toNat).toInt), false, 0⟩)
def execBsmax (w : RWord) (s : State) : Out := issue (bsmaxSpec w) s

/-! ### Group reductions (R213, R61) -/

/-- The leaf of a home lane: its value where the lane is active (R213). -/
def Ctx.leaf (c : Ctx) (a : BitVec 11) (lane : Nat) : Option Rounded :=
  (c.act.find? (fun th => c.t.laneOf th = lane)).map (fun th => ⟨(c.val th a.toNat).toNat, 0⟩)

/-- Levels of the tree over a group width of 16, 32 or 64. -/
def treeLevels (width : Nat) : Nat := if width = 16 then 4 else if width = 32 then 5 else 6

/-- REDG (R213): as for SCANG, MASK names the lanes whose source is tagged (R301). -/
def redgSpec (w : RWord) : WordSpec :=
  fltSpec (.redg w) 0x62 w.guard w.d [w.a] [fD w.d .dst, fA w.a .src]
    (fun c => if untagged w.d.toNat then
        c.writeTrap w.d.toNat (fun th => ⟨0, c.tag th w.a.toNat, 0⟩) else none) (fun c _ =>
    ((treeNode (reduceOp w.m.toNat) (c.leaf w.a) (treeLevels c.t.decl.width) 0).getD ⟨0, 0⟩).res
      (c.act.any (fun th => c.tag th w.a.toNat)))
def execRedg (w : RWord) (s : State) : Out := issue (redgSpec w) s

/-- SCANG (R213). A destination without tags traps on any tagged contributing lane, whichever lane it is. -/
def scangSpec (w : RWord) : WordSpec :=
  fltSpec (.scang w) 0x63 w.guard w.d [w.a] [fD w.d .dst, fA w.a .src]
    (fun c => if untagged w.d.toNat then
        c.writeTrap w.d.toNat (fun th => ⟨0, c.tag th w.a.toNat, 0⟩) else none)
    (fun c th =>
      let l := c.t.laneOf th
      ((scanNodes (reduceOp w.m.toNat) (c.leaf w.a) (l + 1) 7 0 none).getD ⟨0, 0⟩).res
        (c.act.any (fun x => c.t.laneOf x ≤ l && c.tag x w.a.toNat)))
def execScang (w : RWord) (s : State) : Out := issue (scangSpec w) s

/-! ### The tag instructions (R214, R215) -/

/-- ADMIT (R214): the values with the tags clear. -/
def admitSpec (w : RWord) : WordSpec :=
  if w.m = 0 then
    fltSpec (.admitWord w) 0x64 w.guard w.d [w.a] [fD w.d .dst, fA w.a .src] noOwn
      (fun c th => ⟨c.val th w.a.toNat, false, 0⟩)
  else
    { op := 0x64, guard := w.guard, form := fun _ => formOk (.admitWord w),
      fields := [fD w.d .vecPair, fA w.a .vecPair],
      run := fun c => c.s.setTeam c.tk (c.finish
        (c.writePair c.t w.d.toNat (fun th => c.pair th w.a.toNat) (fun _ => false)) 1) }
def execAdmit (w : RWord) (s : State) : Out := issue (admitSpec w) s

/-- BTAG (R215): reads the tag, or sets it. -/
def btagSpec (w : RWord) : WordSpec :=
  if w.m = 0 then
    fltSpec (.btag w) 0x65 w.guard w.d [w.a] [fD w.d .dst, fA w.a .src] noOwn
      (fun c th => ⟨if c.tag th w.a.toNat then 1 else 0, false, 0⟩)
  else
    fltSpec (.btag w) 0x65 w.guard w.d [w.a] [fD w.d (.vec 1 1), fA w.a .src] noOwn
      (fun c th => ⟨c.val th w.a.toNat, true, 0⟩)
def execBtag (w : RWord) (s : State) : Out := issue (btagSpec w) s

end Sys2Proof.Machine
end

