-- ==== Sys2Proof/Machine/Barrier.lean ====
section
/-!
DEFINITION. Release points of a group (R275, R284) and the completion of team and launch barriers (R251, R40,
R41), shared by the words, the ends of threads and teams, and the resumptions.
-/
namespace Sys2Proof.Machine

/-- All threads of a group. -/
def Team.threadsOf (t : Team) (g : Nat) : List Nat := upFrom (g * t.decl.width) t.decl.width

/-- All threads of some groups. -/
def Team.threadsOfAll (t : Team) (gs : List Nat) : List Nat := gs.flatMap t.threadsOf

/-- The fault that R122 now gives for a stranded store (R284); where it gives none any more, the one that stranded it. -/
def State.strandCause (s : State) (t : Team) (st : Store) : BitVec 8 :=
  match s.checkPage t.ctx t.vi (coreDie (t.coreOf (t.groupOf st.thread))) (if st.rmw.isSome then .atomic else .store)
    (st.va.toNat + st.off) with
  | .trap cause => cause
  | _ => st.stranded.getD 0

/-- The fault of a stranded store (R284): the record names the store's address, the stranded lanes of its group, and its
word. -/
def State.strandedInfo (s : State) (t : Team) (st : Store) : TrapInfo :=
  let g := t.groupOf st.thread
  let lanes := (s.stores.filter (fun x => x.stranded.isSome && x.word = st.word && t.groupOf x.thread = g)).map (·.thread)
  { cause := s.strandCause t st, mask := t.mask lanes, addr := st.va, async := true,
    origin := some (st.clause, st.widx), stranded := some g }

/-- The fault of the first stranded store that a release point of some threads meets (R284). -/
def Ctx.strandedTrap (c : Ctx) (threads : List Nat) : Option TrapInfo :=
  (c.s.strandedOf c.tk threads).map (c.s.strandedInfo c.t)

/-- A return past the word of a stranded store's fault: the group's next stranded store halts the team at once (R284,
R310). -/
def State.nextStranded (s : State) (tk : Nat) (before : Team) : State :=
  match before.halt.bind (fun h => if h.outer.isSome then none else h.trap.info.stranded) with
  | none => s
  | some g =>
    match s.team tk, s.strandedOf tk (before.threadsOf g) with
    | some t, some st => s.report tk g (s.strandedInfo t st)
    | _, _ => s

/-- A release of some threads at a scope cannot complete yet (R253, R275). -/
def Ctx.releaseWaits (c : Ctx) (threads : List Nat) (scope : Nat) : Bool :=
  !(c.s.release c.tk threads scope).released c.t c.tk threads

/-! ### Yield requests and resumptions (R297) -/

/-- A request reaches a team that is not halted (R297): %yieldreq, the deadline counter, and the end of every SLEEP. -/
def Team.request (t : Team) (cycle deadline : Nat) : Team :=
  if t.yieldreq then { t with withdrawing := false }
  else
    { t with
      yieldreq := true, requested := false, deadline := some (cycle, if deadline = 0 then 20000 else deadline)
      bundles := t.bundles.map (fun b => match b.wait with
        | .sleep _ => b.advance 1
        | _ => b) }

/-- A team that stood halted before runs on (R297, R308): its deadline counter goes on, a request that was raised meanwhile
reaches it, and a bound that fell due in the halt is reached now. A return into the handler lets the handler's words alone
go on (R314). -/
def State.restartDeadline (s : State) (tk : Nat) (before : Team) : State :=
  s.mapTeam tk (fun t =>
    if before.isHalted && !t.isHalted then
      let t := t.mapBounds (fun _ => true) Monitor.resume PhaseWait.resume s.cycle
      let t : Team := { t with deadline := t.deadline.map (fun d => (s.cycle t.core, d.2)) }
      if t.requested then t.request (s.cycle t.core) (s.ctxDeadline t.ctx) else t
    else if before.isHalted && !before.inHandler && t.inHandler then
      t.mapBounds (·.handler) Monitor.resume PhaseWait.resume s.cycle
    else t)

/-! ### Barriers (R251) -/

/-- Whether a group has arrived at a barrier (R251): its counted threads all stand there. In a handler only the
handler's bundles move (R308, R314). -/
def Team.arrivedAt (t : Team) (launch : Bool) (id g : Nat) : Bool :=
  (t.liveOf g).all (fun th => t.bundles.any (fun b =>
    b.wait = .barrier launch id && b.members.contains th && (!t.inHandler || b.handler)))

/-- Groups that a barrier counts: those with a live thread (R251). -/
def Team.counted (t : Team) : List Nat := (upFrom 0 t.groups.length).filter (fun g => !(t.liveOf g).isEmpty)

/-- Whether every counted group of a team has arrived; a halted team's barriers do not advance (R308). -/
def Team.allArrived (t : Team) (launch : Bool) (id : Nat) : Bool :=
  (!t.isHalted || t.inHandler) && !t.counted.isEmpty && t.counted.all (t.arrivedAt launch id)

/-- The waiting groups leave the word (R251). -/
def Team.leaveBarrier (t : Team) (launch : Bool) (id : Nat) : Team :=
  { t with bundles := t.bundles.map (fun b => if b.wait = .barrier launch id then b.advance 1 else b) }

/-- Completes the team barriers that every counted group has reached (R251). -/
def Team.finishBarriers (t : Team) : Team :=
  (upFrom 0 16).foldl (fun t id => if t.allArrived false id then t.leaveBarrier false id else t) t

/-- Resident teams of a launch, by key. -/
def State.teamsOf (s : State) (launch : Nat) : List Nat :=
  (s.teams.filter (fun x => x.2.launch = launch)).map (·.1)

/-- Completes the launch barriers that every team of the launch has reached (R251): a saved team of the launch
has not ended, and a halted one blocks. Completion acquires at .ten. -/
def State.finishLaunchBarriers (s : State) (launch : Nat) : State :=
  let ks := s.teamsOf launch
  if s.saved.any (fun v => v.team.launch = launch) || ks.isEmpty then s
  else (upFrom 0 16).foldl (fun s id =>
    let ts := ks.filterMap s.team
    if ts.any (fun t => t.allArrived true id) &&
        ts.all (fun t => !t.isHalted && (t.counted.isEmpty || t.allArrived true id)) then
      ks.foldl (fun s k =>
        let s := match s.team k with
          | some t => s.acquire t 0 3
          | none => s
        s.mapTeam k (fun t => t.leaveBarrier true id)) s
    else s) s

/-- Completes what a changed team lets complete. -/
def State.finishBarriers (s : State) (tk : Nat) : State :=
  match s.team tk with
  | none => s
  | some t => (s.mapTeam tk Team.finishBarriers).finishLaunchBarriers t.launch

end Sys2Proof.Machine
end

