-- ==== Sys2Proof/Machine/Pages.lean ====
section
/-!
DEFINITION. Pages as the device's agents change them: pins (R123), the accesses to a page that are still to be made
(R283), descriptors and sharing rings (R121, R123, R132), the copy of a frame, and copy-on-write (R126).
-/
namespace Sys2Proof.Machine

/-! ### Pins (R123) -/

/-- Pins (R123): identity of the frame of a physical address; frames beyond T0 are their virtual interface's. -/
def pinId (vi a : Nat) : Nat := (if a < t1Base then 0 else vi * 2 ^ 40) + a / 65536

/-- The descriptor of a pinned frame. -/
def State.pinDesc (s : State) (id : Nat) : Frame :=
  let x := id % 2 ^ 40
  if x < 2 ^ 24 then s.frame x
  else if x < 2 ^ 33 then s.desc (id / 2 ^ 40) 1 0 (x - 2 ^ 24)
  else s.desc (id / 2 ^ 40) 2 0 (x - 2 ^ 33)

def State.setPinDesc (s : State) (id : Nat) (d : Frame) : State :=
  let x := id % 2 ^ 40
  if x < 2 ^ 24 then s.setFrame x d
  else if x < 2 ^ 33 then s.setDesc (id / 2 ^ 40) 1 0 (x - 2 ^ 24) d
  else s.setDesc (id / 2 ^ 40) 2 0 (x - 2 ^ 33) d

/-- Takes pins. -/
def State.pin (s : State) (ids : List Nat) : State :=
  ids.foldl (fun s i => let d := s.pinDesc i; s.setPinDesc i { d with pins := d.pins + 1 }) s

/-- A pin request at 0xFFFF waits (R123). -/
def State.pinFull (s : State) (ids : List Nat) : Bool :=
  ids.any (fun i => 0xFFFF < (s.pinDesc i).pins + (ids.filter (· = i)).length)

/-- Physical addresses from which a place is read: of a chained page, the copy that serves it. -/
def State.servedAt (s : State) (p : Place) : List Nat := p.bytes.filterMap (s.byteAddr p)

/-- Page map entries in use (R132). -/
def State.entriesInUse (s : State) (f : Flight) : List Nat := (upFrom 0 f.npage).filter (s.entryInUse f)

/-- The frame of an entry with its descriptor: the first that is present, from the head. -/
def State.entryHead (s : State) (f : Flight) (e : Nat) : Frame :=
  match f.stepList.find? (fun x => (s.entryFrame f e x.2.1).isSome) with
  | some (_, d, q) => match s.entryFrame f e d with
    | some fr => s.frame (frameKey (4 * d + q) fr)
    | none => s.frame 0
  | none => s.frame 0

/-! ### Accesses to a page -/

/-- First byte of a plain page's frame. -/
def pteBase (x : Nat) : Nat := frameBase (pteTier x) (pteHome x) (pteLoc x)

/-- Whether a place lies in the page that a PTE maps: in its frame, or in its page map entry. -/
def onPage (x : Nat) (p : Place) : Bool :=
  if pteClass x = 1 then p.chain = some (pteFlight x, pteLoc x)
  else !p.scratch && p.chain.isNone && p.bytes.any (fun a => a / 65536 = pteBase x / 65536)

/-- Loads translated to a page that have not taken their values. -/
def State.loadsOn (s : State) (x : Nat) : Bool :=
  s.words.any (fun w => w.lanes.any (fun l => l.taken.isNone && onPage x l.place))

/-- Projections whose records on a page have not been read. -/
def State.projsOn (s : State) (x : Nat) : Bool :=
  s.words.any (fun w => w.projs.any (fun p => p.places.any (onPage x))) ||
  s.ops.any (fun o => match o.kind with
    | .view ps _ => ps.any (fun p => p.places.any (onPage x))
    | _ => false)

/-- Chained stores to a page on their way through its flight. -/
def State.flyingOn (s : State) (x : Nat) : Bool :=
  pteClass x = 1 && (s.landing.any (fun y => y.flight = pteFlight x && y.entry = pteLoc x) ||
    s.acks.any (fun y => y.flight = pteFlight x && y.entry = pteLoc x))

/-- Whether an accepted store may still be written to a page. -/
def Store.on (st : Store) (x : Nat) : Bool := st.stranded.isNone && onPage x st.place

/-- Accepted stores to a page that may still be written, those of saved teams too (R283, R284). -/
def State.storesOn (s : State) (x : Nat) : Bool :=
  s.stores.any (fun st => st.on x) || s.saved.any (fun v => v.stores.any (fun st => st.on x))

/-- Changes a saved team. -/
def State.mapSaved (s : State) (id : Nat) (f : Saved → Saved) : State :=
  { s with saved := s.saved.map (fun v => if v.id = id then f v else v) }

/-- A store of a saved team is written where it stands, if nothing in its own order keeps it back (R283), or dropped by a
closed gate (R130). The team holds no
core, so no L1 copy is its own. -/
def State.commitSaved (s : State) (v : Saved) (st : Store) : State :=
  let t : Team := { v.team with core := 2 ^ 16 }
  let first := match s.saved.find? (fun y => y.id = v.id) with
    | some y => y.stores.any (fun z => z.id < st.id && z.stranded.isNone && z.place.overlaps st.place)
    | none => true
  if first then s
  else if let some q := s.closedPart t.vi st.place then
    (s.gateFault v.key st.thread st.va q st.clause st.widx).mapSaved v.id (fun y =>
      { y with stores := y.stores.filter (fun z => z.id ≠ st.id) })
  else if !s.mayEnter t st then s
  else (s.perform t st).mapSaved v.id (fun y => { y with stores := y.stores.filter (fun z => z.id ≠ st.id) })

/-- Commits the pending stores of a page (R283). -/
def State.commitPage (s : State) (x : Nat) : State :=
  let s := ((s.stores.filter (fun st => st.on x)).map (·.id)).foldl State.pushStore s
  (s.saved.flatMap (fun v => (v.stores.filter (fun st => st.on x)).map (fun st => (v, st)))).foldl
    (fun s y => s.commitSaved y.1 y.2) s

/-- A store of a team of a context that a PTE has translated is stranded, each part by its own page (R283, R284). -/
def State.strandStore (s : State) (ctx : Option DWord) (a x : Nat) (cause : BitVec 8) (st : Store) : Store :=
  if st.on x && ctx.bind (fun c => s.leaf c (st.va.toNat + st.off)) = some a then { st with stranded := some cause }
  else st

/-- Strands the uncommitted stores translated by a PTE, with the fault that R122 now gives (R283, R284). -/
def State.strand (s : State) (a x : Nat) (cause : BitVec 8) : State :=
  { s with
    stores := s.stores.map (fun st => s.strandStore ((s.team st.team).map (·.ctx)) a x cause st)
    saved := s.saved.map (fun v => { v with stores := v.stores.map (s.strandStore (some v.team.ctx) a x cause) }) }

/-! ### Descriptors and rings (R121, R123, R132) -/

/-- The descriptor that holds a page's REFS and ring: its frame's, or the head frame's of its entry. -/
def State.pageDesc (s : State) (vi x : Nat) : Frame :=
  if pteClass x = 1 then s.entryHead (s.flight (pteFlight x)) (pteLoc x)
  else s.desc vi (pteTier x) (pteHome x) (pteLoc x)

/-- Frames of a page map entry: die, quadrant and frame, head first. -/
def State.entryFrames (s : State) (f : Flight) (e : Nat) : List (Nat × Nat × Nat) :=
  f.stepList.filterMap (fun x => (s.entryFrame f e x.2.1).map (fun fr => (x.2.1, x.2.2, fr)))

/-- Sets REFS and the ring of a page: of a chained page, REFS in every frame and the ring in the head's (R132). -/
def State.setPageDesc (s : State) (vi x : Nat) (d : Frame) : State :=
  if pteClass x = 1 then
    match s.entryFrames (s.flight (pteFlight x)) (pteLoc x) with
    | [] => s
    | h :: rest =>
      let s := rest.foldl (fun s y =>
        let k := frameKey (4 * y.1 + y.2.1) y.2.2
        s.setFrame k { s.frame k with refs := d.refs }) s
      let k := frameKey (4 * h.1 + h.2.1) h.2.2
      s.setFrame k { s.frame k with refs := d.refs, rmpa := d.rmpa, rmpart := d.rmpart }
  else s.setDesc vi (pteTier x) (pteHome x) (pteLoc x) d

/-- The PTE that a descriptor's ring is entered by. -/
def Frame.ring (d : Frame) : Nat := d.rmpart * 2 ^ 35 + d.rmpa

/-- A descriptor whose ring is entered by a PTE. -/
def Frame.setRing (d : Frame) (a : Nat) : Frame := { d with rmpart := a / 2 ^ 35, rmpa := a % 2 ^ 35 }

/-- The PTEs of a ring from one on. -/
def State.ringFrom (s : State) (start a fuel : Nat) : List Nat :=
  match fuel with
  | 0 => []
  | n + 1 => if pteNext (s.pte a) = start then [a] else a :: s.ringFrom start (pteNext (s.pte a)) n

/-- The PTEs of a descriptor's ring. -/
def State.ringOf (s : State) (d : Frame) : List Nat := s.ringFrom d.ring d.ring d.refs

/-- Writes a PTE and joins it to its page's ring, behind the PTE that the descriptor names (log 117): REFS + 1. -/
def State.joinRing (s : State) (vi a x : Nat) : State :=
  let d := s.pageDesc vi x
  if d.refs = 0 then (s.setPte a (setPteNext x a)).setPageDesc vi x { d.setRing a with refs := 1 }
  else
    let r := d.ring
    let s := s.setPte a (setPteNext x (pteNext (s.pte r)))
    (s.setPte r (setPteNext (s.pte r) a)).setPageDesc vi x { d with refs := d.refs + 1 }

/-- A page whose last mapping went: its frame, or every frame of its entry, follows R124. -/
def State.releasePage (s : State) (vi x : Nat) : State :=
  if pteClass x = 1 then
    let f := s.flight (pteFlight x)
    let s := (s.entryFrames f (pteLoc x)).foldl (fun s y => s.dropFrame vi 0 (4 * y.1 + y.2.1) y.2.2) s
    { s with mem := s.mem.writeLE (f.entryAddr (pteLoc x)) 32 0 }
  else s.dropFrame vi (pteTier x) (pteHome x) (pteLoc x)

/-- Zeroes a PTE and takes it out of its ring: REFS - 1. -/
def State.unlink (s : State) (vi a : Nat) : State :=
  let x := s.pte a
  let d := s.pageDesc vi x
  if d.refs ≤ 1 then
    ((s.setPageDesc vi x { d.setRing 0 with refs := 0 }).releasePage vi x).setPte a 0
  else
    let next := pteNext x
    let s := match (s.ringOf d).find? (fun b => pteNext (s.pte b) = a) with
      | some p => s.setPte p (setPteNext (s.pte p) next)
      | none => s
    (s.setPte a 0).setPageDesc vi x
      { (if d.ring = a then d.setRing next else d) with refs := d.refs - 1 }

/-! ### Copying a frame -/

/-- The page copy engine (R126, R128): the source's dirty lines are written back, then its bytes are the target's;
an uncorrectable line stays one. -/
def State.copyFrame (s : State) (src dst : Nat) : State :=
  let s := ((s.l2.filter (fun l => l.line / 512 = src / 65536)).map (·.line)).foldl State.writeBack s
  let here : Memory := if isT1 src then s.pool else s.mem
  let off := if isT1 src then src - t1Base else src
  let bytes := (here.filter (fun e => off ≤ e.1 && e.1 < off + 65536)).map (fun e => (e.1 - off, e.2))
  let bad := (s.poison.filter (fun l => l / 512 = src / 65536)).map (fun l => l - src / 128 + dst / 128)
  let s := s.zeroPhys dst (dst + 65536)
  let s := { s with poison := s.poison ++ bad }
  if isT1 dst then { s with pool := s.pool.writeBytes (bytes.map (fun e => (e.1 + (dst - t1Base), e.2))) }
  else { s with mem := s.mem.writeBytes (bytes.map (fun e => (e.1 + dst, e.2))) }

/-- A free frame of a tier (R124, R126, R128): the top of a partition's list, or the free far entry with the lowest number
(log 108). -/
def State.takeFrame (s : State) (vi tier part : Nat) : Option (Nat × State) :=
  if tier = 0 then s.popFrame part vi
  else
    let n := if tier = 1 then (s.viEntry vi).n1 else (s.viEntry vi).n2
    ((upFrom 0 n).find? (fun i => (s.desc vi tier 0 i).state = 0)).map (fun i =>
      (i, s.setDesc vi tier 0 i { s.desc vi tier 0 i with refs := 0, state := 1, vi := vi }))

/-- Whether a thread on a core has a monitor armed on a line. -/
def State.armedOn (s : State) (core line : Nat) : Bool :=
  s.teams.any (fun kt => kt.2.threads.zipIdx.any (fun x =>
    kt.2.coreOf (kt.2.groupOf x.2) = core && (match x.1.monitor with
      | some m => m.line = line
      | none => false)))

/-- A core tracks some monitored lines, oldest first: beyond 256 the oldest go, and every monitor on them records a write
(R247). -/
def State.track (s : State) (core : Nat) (lines : List Nat) : State :=
  let n := lines.length - 256
  ((lines.take n).foldl (fun s l => s.recordWhere (fun c l' => c = core && l' = l)) s).setCore core
    { s.core core with tracked := lines.drop n }

/-- The selected monitors follow the lines of a page that has moved; a core tracks each line that a monitor of its
threads is armed on. -/
def State.moveMonitors (s : State) (sel : Team → Monitor → Bool) (line line' : Nat) : State :=
  let within (l : Nat) : Bool := line ≤ l && l < line + 512
  let s := (s.teams.map (·.1)).foldl (fun s k => s.mapTeam k (fun t =>
    { t with threads := t.threads.map (fun th => { th with monitor := th.monitor.map (fun m =>
        if within m.line && sel t m then { m with line := m.line - line + line' } else m) }) })) s
  (s.cores.map (·.1)).foldl (fun s c => s.track c ((s.core c).tracked.flatMap (fun l =>
    if within l then [l, l - line + line'].filter (s.armedOn c) else [l]))) s

/-! ### Copy-on-write (R126) -/

/-- A PTE that may be stored through again. -/
def pteOwn (x : Nat) : Nat := setBits (setBits x 4 4 0) 3 3 1

/-- A new page map entry with a copy of an entry on every step (R126), from the tail's frame: the lowest entry that is not
in use, and none where every entry below NPAGE is (log 95). -/
def State.copyEntry (s : State) (vi fl e : Nat) : Option (Nat × State) :=
  let f := s.flight fl
  match (upFrom 0 f.npage).find? (fun i => !s.entryInUse f i), s.tailAddr fl e 0 with
  | some e', some src =>
    ((s.entryFrames f e).foldl (fun (acc : Option State) y =>
      acc.bind (fun s => (s.popFrame (4 * y.1 + y.2.1) vi).map (fun r =>
        let s := r.2.copyFrame src (frameBase 0 (4 * y.1 + y.2.1) r.1)
        { s with mem := s.mem.writeLE (f.entryAddr e' + 4 * y.1) 4 (2 ^ 31 + r.1) }))) (some s)).map
      (fun s => (e', s))
  | _, _ => none

/-- Frames of the page that a PTE maps, as pins know them (R123). -/
def State.pagePins (s : State) (vi x : Nat) : List Nat :=
  if pteClass x = 1 then
    (s.entryFrames (s.flight (pteFlight x)) (pteLoc x)).map (fun y => pinId vi (frameBase 0 (4 * y.1 + y.2.1) y.2.2))
  else [pinId vi (pteBase x)]

/-- Copy-on-write of the page at a PTE (R126): none while it cannot be made, for want of a frame or of a pin on the
source (R123), or while accesses to the page under the old entry are still to be made. The copy is made in this step, so
the page copy engine gives its pins back in it (log 24). -/
def State.resolveCow (s : State) (ctx : DWord) (vi a : Nat) : Option State :=
  let x := s.pte a
  if (s.pageDesc vi x).refs ≤ 1 then some (s.setPte a (pteOwn x))
  else
    let s := s.commitPage x
    if s.storesOn x || s.loadsOn x || s.projsOn x || s.flyingOn x || s.pinFull (s.pagePins vi x) then none
    else
      let here (t : Team) (m : Monitor) : Bool := t.ctx = ctx && s.leaf ctx (m.page * 65536) = some a
      if pteClass x = 1 then
        (s.copyEntry vi (pteFlight x) (pteLoc x)).map (fun r =>
          ((r.2.unlink vi a).joinRing vi a (setBits (pteOwn x) 79 48 r.1)).moveMonitors here
            (chainLine (pteFlight x) (pteLoc x) 0) (chainLine (pteFlight x) r.1 0))
      else
        (s.takeFrame vi (pteTier x) (pteHome x)).map (fun r =>
          let dst := frameBase (pteTier x) (pteHome x) r.1
          (((r.2.copyFrame (pteBase x) dst).unlink vi a).joinRing vi a
            (setBits (pteOwn x) 79 48 r.1)).moveMonitors here (pteBase x / 128) (dst / 128))

/-- Whether a copy-on-write finds the frames it needs (step 3 of R126). -/
def State.cowFrames (s : State) (vi a : Nat) : Bool :=
  let x := s.pte a
  (s.pageDesc vi x).refs ≤ 1 ||
  (if pteClass x = 1 then (s.copyEntry vi (pteFlight x) (pteLoc x)).isSome
   else (s.takeFrame vi (pteTier x) (pteHome x)).isSome)

end Sys2Proof.Machine
end

