-- ==== Sys2Proof/Machine/Views.lean ====
section
/-!
DEFINITION. View descriptors and their projections: the fields of an image (R134 to R136), records and
matrices (R135), the digital sum (R60) and the bounded product (R68), the plinth that serves (R19, R226), the
view cache (R99), drift (R101), notices (R110) and the RES field (R350).
-/
namespace Sys2Proof.Machine

/-! ### The image (R134) -/

def vMatva (x : BitVec 512) : Nat := fld x 63 0
def vMatfmt (x : BitVec 512) : Nat := fld x 67 64
def vLatfmt (x : BitVec 512) : Nat := fld x 71 68
def vOutfmt (x : BitVec 512) : Nat := fld x 72 72
def vMode (x : BitVec 512) : Nat := fld x 74 73
def vMscl (x : BitVec 512) : Nat := fld x 87 80
def vInlen (x : BitVec 512) : Nat := fld x 106 96
def vOutlen (x : BitVec 512) : Nat := fld x 120 112
def vTstride (x : BitVec 512) : Nat := fld x 159 128
def vPlace (x : BitVec 512) : Nat := fld x 191 160
def vGen (x : BitVec 512) : Nat := fld x 223 192
/-- The descriptor's address, as VSET records it (R233). -/
def vDesc (x : BitVec 512) : Nat := fld x 511 448

def View.valid (v : View) : Bool := v.fourth.getLsbD 0
def View.cstart (v : View) : Nat := fld v.fourth 15 8

/-- The view register of a thread's group. -/
def Ctx.view (c : Ctx) (th n : Nat) : View := Sparse.get (c.t.group (c.t.groupOf th)).views {} n

/-- Bytes of `n` elements of a format, packed (R135, R47). -/
def packedBytes (fmt n : Nat) : Nat := if fmt = 0 then 2 * n else if fmt = 4 then 12 * ((n + 15) / 16) else n

/-- Bytes of a record, and its alignment (R135). -/
def recordBytes (x : BitVec 512) : Nat :=
  (if vLatfmt x = 0 then 0 else 16) + packedBytes (vLatfmt x) (vInlen x)
def recordAlign (x : BitVec 512) : Nat := if vLatfmt x = 0 then 4 else 16

/-- A format code of a record or a matrix (R134). -/
def viewFmtOk (f : Nat) : Bool := f = 0 || f = 2 || f = 3 || f = 4

/-- The rules of R136 for a descriptor as read. -/
def viewOk (x : BitVec 512) : Bool :=
  fld x 511 240 = 0 && fld x 127 121 = 0 && fld x 111 107 = 0 && fld x 95 88 = 0 && fld x 79 75 = 0 &&
  vMode x != 3 && viewFmtOk (vLatfmt x) && viewFmtOk (vMatfmt x) &&
  1 ≤ vInlen x && vInlen x ≤ 1024 && 1 ≤ vOutlen x && vOutlen x ≤ 256 &&
  vMatva x < 2 ^ 57 && vMatva x % 16 = 0 &&
  recordBytes x ≤ vTstride x && vTstride x % recordAlign x = 0 && vPlace x != 0 &&
  !(vMatfmt x = 0 && vMscl x != 128)

/-! ### Elements -/

/-- Element `i` of packed elements: its value without a scale (R45, R47, R135). -/
def packedElem (fmt : Nat) (bs : List Byte) (i : Nat) : FVal :=
  let b (k : Nat) : Nat := (bs.getD k 0).toNat
  match fmt with
  | 0 => matValue 0 (b (2 * i) + 256 * b (2 * i + 1))
  | 4 => l6Value (packedCode bs i)
  | f => matValue f (b i)
where
  /-- the 6-bit code of element `i` of packed L6 groups -/
  packedCode (bs : List Byte) (i : Nat) : Nat :=
    ofBytesLE ((bs.drop (12 * (i / 16))).take 12) / 2 ^ (6 * (i % 16)) % 64

/-- The product of element `i` of a record with element `i` of a matrix row, scales included (R60, R49). -/
def viewProduct (x : BitVec 512) (scale : Int) (record row : List Byte) (i : Nat) : Option FVal :=
  let p := if vLatfmt x = 4 && vMatfmt x = 4
    then some (l6Product (packedElem.packedCode record i) (packedElem.packedCode row i))
    else FVal.mul (packedElem (vLatfmt x) record i) (packedElem (vMatfmt x) row i)
  p.map (fun v => v.scale scale)

/-- The common scale exponent of the products (R135). -/
def viewScale (x : BitVec 512) (record : List Byte) : Int :=
  (if vLatfmt x = 0 then 0 else ((record.headD 0).toNat : Int) - 128) + ((vMscl x : Int) - 128)

/-- The elements of a record after its header (R135). -/
def recordElems (x : BitVec 512) (record : List Byte) : List Byte :=
  if vLatfmt x = 0 then record else record.drop 16

def outFmt (x : BitVec 512) : Fmt := if vOutfmt x = 0 then .bf16 else .fp32

/-- The exact sum of a column (R60). -/
def viewSum (x : BitVec 512) (record row : List Byte) : Acc :=
  let sc := viewScale x record
  let es := recordElems x record
  (upFrom 0 (vInlen x)).foldl (fun a i => a.term (viewProduct x sc es row i)) Acc.start

/-- The digital result of a column, in OUTFMT (R60). -/
def viewDigital (x : BitVec 512) (record row : List Byte) : Nat := (viewSum x record row).round (outFmt x) false

/-- Magnitude of a value. -/
def absDy (v : FVal) : Dy := ⟨(v.dy).n.natAbs, v.dy.e⟩

/-- The larger of two magnitudes. -/
def maxDy (a b : Dy) : Dy := if Dy.le a b then b else a

/-- Product of two exact numbers. -/
def mulDy (a b : Dy) : Dy := ⟨a.n * b.n, a.e + b.e⟩

/-- The bound of R68 on a column: 2^-8 of the sum of |x||w|, and 2^-16 n max|x| max|w|. -/
def viewBound (x : BitVec 512) (record row : List Byte) : Dy :=
  let sc := viewScale x record
  let es := recordElems x record
  let is := upFrom 0 (vInlen x)
  let ws : Nat → FVal := fun i => packedElem (vMatfmt x) row i
  let xs : Nat → FVal := fun i => packedElem (vLatfmt x) es i
  let total := is.foldl (fun (a : Dy) i => a.add (mulDy (absDy (xs i)) (absDy (ws i)))) ⟨0, 0⟩
  let mx := is.foldl (fun a i => maxDy a (absDy (xs i))) ⟨0, 0⟩
  let mw := is.foldl (fun a i => maxDy a (absDy (ws i))) ⟨0, 0⟩
  let t1 : Dy := ⟨total.n, total.e + sc - 8⟩
  let t2 : Dy := ⟨(mulDy mx mw).n * vInlen x, (mulDy mx mw).e + sc - 16⟩
  t1.add t2

/-- The crossbar result of a column (R68): any OUTFMT value to which some number within the bound rounds; the
hardware's pick where it is one, the exact result rounded where the pick is none, or where a special value
decides. Log 7. -/
def viewCrossbar (x : BitVec 512) (record row : List Byte) (pick : Word) : Nat :=
  let a := viewSum x record row
  let F := outFmt x
  let exact := a.round F false
  if a.nan || a.pinf || a.ninf then exact
  else
    let d := viewBound x record row
    let at_ (v : Dy) : FVal := F.decode (F.round .rne false (v.n < 0) v.n.natAbs v.e).bits
    let lo := at_ (a.sum.add ⟨-d.n, d.e⟩)
    let hi := at_ (a.sum.add d)
    let p := pick.toNat % 2 ^ (if vOutfmt x = 0 then 16 else 32)
    let v := F.decode p
    if !v.isNan && !(FVal.lt v lo) && !(FVal.lt hi v) then p else exact

/-! ### Plinths (R19, R90, R97, R136) -/

/-- Whether a plinth lies in the effective placement of a view for a virtual interface (R136). -/
def State.placed (s : State) (x : BitVec 512) (vi plinth : Nat) : Bool :=
  tbit (vPlace x) (plinth % 32) && (s.part (plinth / 8)).owned && (s.part (plinth / 8)).vi = vi

/-- Distance of a number from another. -/
def gap (a b : Nat) : Nat := (a - b) + (b - a)

/-- Nearness of plinth j to plinth i of a die (R19): own quadrant first, then quadrants by distance. -/
def plinthNear (i j : Nat) : Nat :=
  let ki := i % 32 / 8
  let kj := j % 32 / 8
  if ki = kj then gap i j * 64 + j % 32
  else 100000 + gap ki kj * 10000 + kj * 1000 + gap (i % 8) (j % 8) * 64 + j % 8

/-- The plinth that serves an LDV whose record's first line lies at a plinth (R19): itself where it is placed
or where no plinth of the die is. -/
def State.servingPlinth (s : State) (x : BitVec 512) (vi i : Nat) : Nat :=
  if s.placed x vi i then i
  else
    let set := (upFrom (i / 32 * 32) 32).filter (s.placed x vi)
    (set.foldl (fun best j => match best with
      | none => some j
      | some b => if plinthNear i j < plinthNear i b then some j else some b) none).getD i

/-- Arrays of a plinth, by calibration key. -/
def arrayKeys (plinth : Nat) : List Nat := upFrom (plinth * 64) 64

/-- Arrays of a plinth that hold a view in a state, for its descriptor and generation. -/
def State.viewArrays (s : State) (plinth : Nat) (desc : Nat) (gen : Word) (ast : Nat) : List Nat :=
  (arrayKeys plinth).filter (fun k =>
    let a := s.array k
    a.desc.toNat = desc && a.gen = gen && a.ast = ast)

/-- Arrays a view occupies (R100). -/
def arraysNeeded (x : BitVec 512) : Nat := (vInlen x + 255) / 256 * ((vOutlen x + 127) / 128)

/-- Whether a plinth holds a view resident at a generation (R100). -/
def State.resident (s : State) (plinth : Nat) (v : View) : Bool :=
  (s.viewArrays plinth (vDesc v.image) v.gen 2).length = arraysNeeded v.image

/-- Whether MODE lets arrays serve (R235). -/
def boundedMode (x : BitVec 512) : Bool := vMode x = 1 || vMode x = 2

/-! ### Notices and RES -/

/-- Posts a notice (R110): a full port turns its newest entry into the count of the lost ones. -/
def Team.notify (t : Team) (n : Word) : Team :=
  if t.notices.length + t.owed 16 < 32 then { t with notices := t.notices ++ [n] }
  else
    let last := t.notices.getLastD 0
    let lost := if fld last 31 28 = 15 then min 0xFFFF (fld last 15 0 + 1) else 2
    { t with notices := t.notices.dropLast ++ [BitVec.ofNat 32 (15 * 2 ^ 28 + lost)] }

/-- A notice of a kind about a plinth, a view register and a group (R110). -/
def notice (kind plinth reg g : Nat) : Word :=
  BitVec.ofNat 32 (kind * 2 ^ 28 + plinth / 32 * 2 ^ 25 + plinth % 32 * 2 ^ 20 + reg % 16 * 2 ^ 16 + g % 65536)

/-- A write that a plinth or the device itself makes to a page, where the head of a flight takes it now (R116, R133). -/
def State.deviceStore (s : State) (f e die : Nat) (offsets : List Nat) (data : List Byte) : Option State :=
  let y : Flying := { id := s.nextId, op := 0, flight := f, entry := e, die := die, offsets := offsets, data := data,
                      team := 2 ^ 20, thread := 0 }
  if s.headTakes y then some ({ s with nextId := s.nextId + 1 }.enterHead y) else none

/-- The read-modify-write of a bit of RES at its place (R350), or none where a flight's head does not take it now. -/
def State.flipRes (s : State) (x : ResWrite) (p : Place) : Option State :=
  let b := ((s.placeBytes p).headD 0).toNat
  let b' := BitVec.ofNat 8 (if x.on then b ||| 2 ^ (x.bit % 8) else b - (b &&& 2 ^ (x.bit % 8)))
  match p.chain with
  | none => some ((s.pokeBytes p.home 0 (p.bytes.map (fun a => (a, b')))).recordWrite (p.bytes.map lineOf))
  | some (f, e) =>
    match (s.flight f).stepList.head? with
    | some (_, d, _) => s.deviceStore f e d p.bytes [b']
    | none => some s

/-- A write of RES through the translation of its context, as an atomic (R350, R122): none where it has to wait, for a
migration, for a frame to copy the page to, or for the head of a flight. It is dropped where the page is unmapped, without
RD or W, or in T2; and where a gate drops it, no step of its flight serves it, or its line holds an error (log 24). -/
def State.tryRes (s : State) (x : ResWrite) : Option State :=
  let s := s.touchPage x.ctx x.vi x.desc
  let owned (e : Nat) : Bool := pteRd e && pteW e
  match s.checkPage x.ctx x.vi x.die .atomic x.desc, s.leaf x.ctx x.desc with
  | .page _ e _, _ =>
    let p := pagePlace x.die .atomic e (x.desc + x.bit / 8) 1
    if !owned e || !s.gateOpen x.vi p || s.poisoned (s.physOf p) then some s else s.flipRes x p
  | .replay c, some a =>
    if !owned (s.pte a) || c = 0x12 then some s
    else if c = 0x13 then
      (s.resolveCow x.ctx x.vi a).bind (fun s =>
        let p := pagePlace x.die .atomic (s.pte a) (x.desc + x.bit / 8) 1
        if !s.gateOpen x.vi p || s.poisoned (s.physOf p) then some s else s.flipRes x p)
    else none
  | _, _ => some s

/-- One bit of RES, written as a plinth writes it (R350): now, or later where it has to wait, after the earlier writes of its
descriptor. -/
def State.writeRes (s : State) (ctx : DWord) (vi die : Nat) (desc : Nat) (bit : Nat) (on : Bool) : State :=
  let x : ResWrite := { id := s.nextId, ctx := ctx, vi := vi, die := die, desc := desc, bit := bit, on := on }
  let later : State := { s with nextId := s.nextId + 1, resWrites := s.resWrites ++ [x] }
  if s.resWrites.any (fun y => y.vi = vi && y.desc = desc) then later else (s.tryRes x).getD later

/-- A waiting write of RES is made, if it can be now and is the oldest of its descriptor. -/
def State.commitRes (s : State) (id : Nat) : State :=
  match s.resWrites.find? (fun y => y.id = id) with
  | none => s
  | some x =>
    if s.resWrites.any (fun y => y.id < id && y.vi = x.vi && y.desc = x.desc) then s
    else ((s.tryRes x).map (fun s => { s with resWrites := s.resWrites.filter (fun y => y.id ≠ id) })).getD s

/-- Whether some array of a die holds a descriptor of a context in a state. -/
def State.dieHolds (s : State) (die : Nat) (a : ArrayEntry) (ast : Nat) : Bool :=
  s.arrays.any (fun x => x.1 / 2048 = die && x.2.desc = a.desc && x.2.ctx = a.ctx && x.2.vi = a.vi && x.2.ast = ast)

/-- The last programming of a view on a die has ended (R350): bit 232 + d goes, and bit 224 + d says whether some
plinth of the die holds the view. -/
def State.endProgramming (s : State) (die : Nat) (a : ArrayEntry) : State :=
  if s.dieHolds die a 1 then s
  else
    let s := s.writeRes a.ctx a.vi die a.desc.toNat (232 + die) false
    if s.dieHolds die a 2 then s.writeRes a.ctx a.vi die a.desc.toNat (224 + die) true else s

/-- Erases arrays (R100, R137): DESC, GEN, IBLK and CBLK go; RES drops the die where the last array left (R350). -/
def State.eraseArrays (s : State) (keys : List Nat) (ast : Nat) : State :=
  keys.foldl (fun s k =>
    let a := s.array k
    let die := k / 2048
    let s := s.setArray k { progs := a.progs, drift := a.drift, since := a.since, ast := ast }
    if a.ast = 1 then s.endProgramming die a
    else if (a.ast = 2 || a.ast = 3) && !s.dieHolds die a 2 && !s.dieHolds die a 3 then
      s.writeRes a.ctx a.vi die a.desc.toNat (224 + die) false
    else s) s

/-! ### The view cache (R99, R236) -/

/-- What reading matrix lines gives. -/
inductive Fetch where
  | bytes (bs : List Byte)
  /-- a fault at an address, with CODE (R301) -/
  | fault (cause : BitVec 8) (address : Nat) (code : Word)
  /-- a page on T2 to wait for -/
  | wait (address : Nat)
  /-- a frame whose pins are all taken (R123) -/
  | busy

/-- A plinth's view cache with one more entry: 1 MiB of 128-byte lines, the least recently used goes (R99). -/
def fillView (l : List VLine) (e : VLine) : List VLine :=
  let mine := l.filter (fun x => x.plinth = e.plinth)
  if mine.length < 8192 then l ++ [e]
  else
    match (sortByKey (·.used) mine).head? with
    | some v => l.filter (fun x => !(x.plinth = v.plinth && x.line = v.line && x.gen = v.gen && x.vi = v.vi)) ++ [e]
    | none => l ++ [e]

/-- One matrix line for a request of a generation: the plinth's entry, or memory at .dev scope, which fills an
entry. An entry's line address is the global one, and contexts of one virtual interface share it (log 75). The pin on
its frame is taken and given back in this step; where all are taken the line waits (R123). ADDR of an error is the physical
line, and the global one for an entry of the cache (R301; log 101). -/
def State.matrixLine (s : State) (ctx : DWord) (vi plinth : Nat) (gen : Word) (va : Nat) : Fetch × State :=
  let own (e : VLine) : Bool := e.plinth = plinth && e.line = va / 128 && e.gen = gen && e.vi = vi
  let a := va / 128 * 128
  match s.vcache.find? own with
  | some e =>
    if e.bad then (.fault 0x30 a 0, s)
    else (.bytes e.data, { s with vcache := s.vcache.map (fun x => if own x then { x with used := s.now } else x) })
  | none =>
    let s := s.touchPage ctx vi a
    match s.checkPage ctx vi (plinth / 32) .load a with
    | .trap cause => (.fault cause a (s.flightCode ctx cause a), s)
    | .replay _ => (.wait a, s)
    | .page _ x _ =>
      let p := pagePlace (plinth / 32) .load x a 128
      match s.closedPart vi p with
      | some q => (.fault 0x16 a (BitVec.ofNat 32 q), s)
      | none =>
      if s.poisoned (s.physOf p) then (.fault 0x30 (lineOf ((s.physOf p).headD 0) * 128) 0, s)
      else if s.pinFull (((s.servedAt p).take 1).map (pinId vi)) then (.busy, s)
      else
        let e : VLine := { plinth := plinth, line := va / 128, gen := gen, vi := vi, data := s.placeBytes p,
                           used := s.now }
        (.bytes e.data, { s with vcache := fillView s.vcache e })

/-- The bytes of a stretch of a matrix, line by line. -/
def State.matrixBytes (s : State) (ctx : DWord) (vi plinth : Nat) (gen : Word) (va n : Nat) : Fetch × State :=
  let lines := upFrom (va / 128) ((va + n - 1) / 128 - va / 128 + 1)
  let r := lines.foldl (fun (acc : Fetch × State) l =>
    match acc.1 with
    | .bytes bs =>
      match acc.2.matrixLine ctx vi plinth gen (l * 128) with
      | (.bytes more, s) => (.bytes (bs ++ more), s)
      | r => r
    | _ => acc) (.bytes [], s)
  match r with
  | (.bytes bs, s) => (.bytes ((bs.drop (va % 128)).take n), s)
  | r => r

/-! ### Serving a projection (R226, R235 to R238, R101) -/

/-- The rows of a matrix for some columns. -/
def State.matrixRows (s : State) (ctx : DWord) (vi plinth : Nat) (v : View) (cs : List Nat) :
    List Fetch × State :=
  cs.foldl (fun acc j =>
    let rb := packedBytes (vMatfmt v.image) (vInlen v.image)
    let r := acc.2.matrixBytes ctx vi plinth v.gen (vMatva v.image + j * rb) rb
    (acc.1 ++ [r.1], r.2)) ([], s)

/-- The first fault or wait among fetched rows. -/
def firstBad (l : List Fetch) : Option Fetch :=
  l.find? (fun f => match f with
    | .bytes _ => false
    | _ => true)

def Fetch.data (f : Fetch) : List Byte :=
  match f with
  | .bytes b => b
  | _ => []

/-- Drift of the arrays that formed a product (R101, R137), each with the largest deviation of its own reference
columns in units of 2^-20 of full scale: SINCE rises; a deviation above 2^-10 raises the array's DRIFT; one above 2^-9
in any of them marks every array of the view at the plinth drifting. -/
def State.drift (s : State) (keys : List Nat) (deviations : List Nat) : State :=
  keys.zipIdx.foldl (fun s k =>
    let a := s.array k.1
    s.setArray k.1 { a with
      since := min 0xFFFFFFFF (a.since + 1)
      drift := if 1024 < deviations.getD k.2 0 then min 0xFFFF (a.drift + 1) else a.drift
      ast := if deviations.any (2048 < ·) then 3 else a.ast
      used := s.now }) s

/-- Who is told of a retrim (R110, R317): a team, by its launch and index, once for a view register and group. -/
def ArrayEntry.tell (a : ArrayEntry) (t : Team) (reg g : Nat) : ArrayEntry :=
  let x := (t.launch, t.index, reg, g)
  if a.alerts.contains x then a else { a with alerts := a.alerts ++ [x] }

/-- What keeps a projection from its result. -/
inductive Unserved where
  /-- a matrix line that cannot be read (R238): cause, address, CODE -/
  | fault (cause : BitVec 8) (address : Nat) (code : Word)
  /-- a page on T2 -/
  | wait (address : Nat)
  | busy

/-- The digital service of a request (R236, R238), at the plinth that gives it. -/
def State.serveDigital (s : State) (t : Team) (p : Proj) (record : List Byte) : Except Unserved (List Nat) × State :=
  let (rows, s) := s.matrixRows t.ctx t.vi (p.digital.getD p.plinth) p.view (upFrom p.cstart p.count)
  match firstBad rows with
  | some (.fault cause a code) => (.error (.fault cause a code), s)
  | some (.wait a) => (.error (.wait a), s)
  | some .busy => (.error .busy, s)
  | _ => (.ok (rows.map (fun r => viewDigital p.view.image record r.data)), s)

/-- A drift discard (R101, R317): the arrays are marked, the team has its notice of KIND 1, and is told of the
retrim. -/
def State.discard (s : State) (t : Team) (tk : Nat) (p : Proj) (arrays deviations : List Nat) : State :=
  let g := t.groupOf p.thread
  let s := s.drift arrays deviations
  let s := arrays.foldl (fun s k => s.setArray k ((s.array k).tell t p.viewReg g)) s
  s.mapTeam tk (fun t => t.notify (notice 1 p.plinth p.viewReg g))

/-- A request at its plinth (R235, R226, R101): its elements and whether arrays served it, with the deviations of the
reference columns of its arrays. A drift discard recomputes digitally. -/
def State.serve (s : State) (t : Team) (tk : Nat) (p : Proj) (record : List Byte) (deviations : List Nat) :
    Except Unserved (List Nat × Bool) × State :=
  let x := p.view.image
  let arrays := s.viewArrays p.plinth (vDesc x) p.view.gen 2
  let crossbar := boundedMode x && s.resident p.plinth p.view && s.placed x t.vi p.plinth
  let ds := deviations.take arrays.length
  if crossbar && ds.all (· ≤ 2048) then
    let weights := ((arrays.head?).map (fun k => (s.array k).weights)).getD []
    let rb := packedBytes (vMatfmt x) (vInlen x)
    let formats := fld x 106 80 * 512 + fld x 72 64
    let es := (upFrom p.cstart p.count).map (fun j =>
      let row := (weights.drop (j * rb)).take rb
      viewCrossbar x record row (Config.crossbarPick formats (vInlen x) record row))
    (.ok (es, true), s.drift arrays ds)
  else
    let s := if crossbar then s.discard t tk p arrays ds else s
    match s.serveDigital t p record with
    | (.error e, s) => (.error e, s)
    | (.ok es, s) => (.ok (es, false), s)

/-- Elements packed into words (R45): BF16 two to a word, FP32 one. -/
def packElems (bf16 : Bool) (es : List Nat) (n : Nat) : List Word :=
  (upFrom 0 n).map (fun i =>
    if bf16 then BitVec.ofNat 32 (es.getD (2 * i) 0 % 65536 + es.getD (2 * i + 1) 0 % 65536 * 65536)
    else BitVec.ofNat 32 (es.getD i 0))

/-- An OUTFMT element as FP32 (R226). -/
def asFp32 (x : BitVec 512) (e : Nat) : Word :=
  if vOutfmt x = 0 then BitVec.ofNat 32 (e * 65536) else BitVec.ofNat 32 e

end Sys2Proof.Machine
end

