-- ==== Sys2Proof/Machine/Mat.lean ====
section
/-!
DEFINITION. Matrix and crossbar words (R216 to R226): register images, MMA and MMAZ with their format word
(R54 to R59), tile moves, row operations, and XMV.
-/
namespace Sys2Proof.Machine

/-! ### Register images (R218) -/

/-- Registers of an A or B fragment. -/
def Decl.fragRegs (d : Decl) : Nat := 256 / d.width
/-- Registers of a tile image. -/
def Decl.imageRegs (d : Decl) : Nat := 1024 / d.width
/-- Registers of a row vector. -/
def Decl.rowRegs (d : Decl) : Nat := if d.width = 16 then 2 else 1

/-- The thread at a home lane of the issuing group. -/
def Ctx.laneThread (c : Ctx) (lane : Nat) : Nat := c.group * c.t.decl.width + lane

/-- Word `i` of an image from a first register: register first + i div W, lane i mod W, of every home lane. -/
def Ctx.imageWord (c : Ctx) (first i : Nat) : Word :=
  (c.reg (c.laneThread (i % c.t.decl.width)) (first + i / c.t.decl.width)).1

/-- The OR of the tags of `n` registers over every home lane (R216). -/
def Ctx.imageTag (c : Ctx) (first n : Nat) : Bool :=
  (upFrom 0 c.t.decl.width).any (fun l => (upFrom first n).any (fun r => (c.reg (c.laneThread l) r).2))

/-- The 1 KiB of a fragment as bytes. -/
def Ctx.fragment (c : Ctx) (first : Nat) : List Byte :=
  (upFrom 0 256).flatMap (fun i => bytesLE 4 (c.imageWord first i).toNat)

/-- Row value r_i of a row vector (R218, R224): whatever the guard in its lane. -/
def Ctx.rowValue (c : Ctx) (first i : Nat) : Word := c.imageWord first i

/-- Tile elements: tile a, row i, column j (R79). -/
def tileKey (a i j : Nat) : Nat := a * 1024 + i * 32 + j
def Team.tileElem (t : Team) (a i j : Nat) : Word := Sparse.get t.tiles 0 (tileKey a i j)
def Team.tileTag (t : Team) (a : Nat) : Bool := Sparse.get t.tileTags false a

/-- Replaces a whole tile in one step (R220). -/
def Team.setTile (t : Team) (a : Nat) (f : Nat → Nat → Word) (tag : Bool) : Team :=
  let cells := (upFrom 0 1024).foldl (fun m k =>
    Sparse.put m 0 (a * 1024 + k) (f (k / 32) (k % 32))) (Sparse.clear t.tiles (a * 1024) (a * 1024 + 1024))
  { t with tiles := cells, tileTags := Sparse.put t.tileTags false a tag, badTiles := t.badTiles.filter (· ≠ a) }

/-- A tile still owed to an emulated word or to an XMV.t (R220): later words of the tile wait. -/
def Ctx.tileBusy (c : Ctx) (a : Nat) : Bool :=
  c.t.emulated.any (fun e => e.tile = a) || c.s.words.any (fun w => w.team = c.tk && w.tile = some a)

/-- A word that overwrites a tile without reading it takes its place after the writes still owed, which nothing can read
any more (R219, R220): they no longer reach the tile. -/
def State.supersede (s : State) (tk a : Nat) : State :=
  { s.mapTeam tk (fun t => { t with emulated := t.emulated.filter (fun e => e.tile ≠ a) }) with
    words := s.words.map (fun w => if w.team = tk && w.tile = some a then { w with tile := none } else w) }

/-- In a pair team every tile of one word lies on the same core (R216, R22). -/
def Ctx.tilesApart (c : Ctx) (a b : Nat) : Bool :=
  c.t.decl.pair && (decide (a < c.t.decl.acc / 2) != decide (b < c.t.decl.acc / 2))

/-! ### The format word (R54 to R57) -/

def fwA (x : Word) : Nat := fld x 3 0
def fwB (x : Word) : Nat := fld x 7 4
def fwAcc (x : Word) : Nat := fld x 9 8
def fwSat (x : Word) : Nat := fld x 27 26

/-- A format code that R55 defines. -/
def fmtDefined (f : Nat) : Bool := f ≤ 6 || (8 ≤ f && f ≤ 11)

/-- An integer format code of R56. -/
def fmtInt (f : Nat) : Bool := f = 5 || f = 6 || f = 10

/-- R56: well formed. -/
def fwWellFormed (x : Word) : Bool :=
  fmtDefined (fwA x) && fmtDefined (fwB x) && fld x 31 28 = 0 && fwSat x != 3 && fwAcc x ≤ 1 &&
  (if fwAcc x = 1 then
     fmtInt (fwA x) && fmtInt (fwB x) && fld x 17 10 = 128 && fld x 25 18 = 128 && fwSat x ≤ 1
   else fwSat x = 0 || fwSat x = 2)

/-- R56: native. -/
def fwNative (x : Word) : Bool :=
  let a := fwA x
  let b := fwB x
  (a = 0 && b = 0) || (a = 1 && b = 1) || ((a = 2 || a = 3) && (b = 2 || b = 3)) || (a = 4 && b = 4) ||
  ((a = 5 || a = 6) && (b = 5 || b = 6))

/-- The checks of R57 on the active lanes. -/
def Ctx.formatTrap (c : Ctx) (n : BitVec 11) : Option TrapInfo :=
  match tagsOf [(3, n)] c with
  | some i => some i
  | none =>
    match if c.dry [n.toNat] then [] else c.act with
    | [] => none
    | th :: _ =>
      let x := c.val th n.toNat
      let bad := c.act.filter (fun l => c.val l n.toNat ≠ x)
      if !bad.isEmpty then some (c.trapOn bad 0x06 x)
      else if !fwWellFormed x then some (c.trap 0x07 x)
      else if !fwNative x && !tbit (c.s.ctxPolicy c.t.ctx) 3 then some (c.trap 0x08 x)
      else none

/-! ### MMA and MMAZ (R58, R59, R219) -/

/-- Bytes of an element in a fragment (R53, R218). -/
def fragElemBytes (f : Nat) : Nat := if f = 0 || f = 1 then 2 else if f = 11 then 4 else 1

/-- K by AFMT (R218). -/
def fragK (f : Nat) : Nat := 32 / fragElemBytes f

/-- Byte of a fragment; beyond the image a free value (log 12). -/
def fragByte (bs : List Byte) (k : Nat) : Byte := bs.getD k (Config.beyondImage k)

/-- Element k of row or column i of a fragment: byte 32 i + k e (R218). -/
def fragElem (bs : List Byte) (f i k : Nat) : Nat :=
  let e := fragElemBytes f
  ofBytesLE ((upFrom (32 * i + k * e) e).map (fragByte bs))

/-- The sum of a tile element with its old value: FP32 (R58). -/
def mmaFloat (x : Word) (old : Word) (fa fb : List Byte) (i j : Nat) : Word :=
  let sc : Int := (fld x 17 10 : Int) - 128 + ((fld x 25 18 : Int) - 128)
  let start := Acc.start.term (some (Fmt.fp32.decode old.toNat))
  let a := (upFrom 0 (fragK (fwA x))).foldl (fun (a : Acc) k =>
    a.term ((matProduct (fwA x) (fwB x) (fragElem fa (fwA x) i k) (fragElem fb (fwB x) j k)).map
      (fun v => v.scale sc))) start
  BitVec.ofNat 32 (a.round .fp32 (fwSat x = 2))

/-- The sum of a tile element with its old value: INT32 (R59). -/
def mmaInt (x : Word) (old : Word) (fa fb : List Byte) (i j : Nat) : Word :=
  let v := (upFrom 0 (fragK (fwA x))).foldl (fun (n : Int) k =>
    n + (matValue (fwA x) (fragElem fa (fwA x) i k)).dy.n * (matValue (fwB x) (fragElem fb (fwB x) j k)).dy.n)
    old.toInt
  if fwSat x = 1 then BitVec.ofInt 32 (max (-(2 ^ 31)) (min (2 ^ 31 - 1) v)) else BitVec.ofInt 32 v

/-- One element of MMA or MMAZ (R219). -/
def mmaElem (x : Word) (old : Word) (fa fb : List Byte) (i j : Nat) : Word :=
  if fwAcc x = 1 then mmaInt x old fa fb i j else mmaFloat x old fa fb i j

/-- The tile operation of MMA (`accumulate`) and MMAZ. -/
def Team.mma (t : Team) (a : Nat) (x : Word) (accumulate : Bool) (fa fb : List Byte) (tag : Bool) : Team :=
  t.setTile a (fun i j => mmaElem x (if accumulate then t.tileElem a i j else 0) fa fb i j)
    (tag || (accumulate && t.tileTag a))

/-- MMA and MMAZ: MMA waits for the writes owed to its tile, MMAZ does not; an emulated word is captured for the control
core (R316). -/
def mmaSpec' (i : Instr) (op : Nat) (accumulate : Bool) (w : RWord) (d : Decl) : WordSpec :=
  let frag : Shape := .vec d.fragRegs d.fragRegs
  let a := w.d.toNat
  { op := op, guard := w.guard, srcs := [w.c.toNat], form := fun _ => formOk i,
    fields := [fD w.d .tile, fA w.a frag, fB w.b frag, fC w.c .src],
    own := fun c => c.formatTrap w.c,
    stall := fun c => accumulate && !c.act.isEmpty && c.tileBusy a,
    run := fun c =>
      match c.act with
      | [] => c.s.setTeam c.tk (c.finish c.t 1)
      | th :: _ =>
        let x := c.val th w.c.toNat
        let fa := c.fragment w.a.toNat
        let fb := c.fragment w.b.toNat
        let tag := c.imageTag w.a.toNat d.fragRegs || c.imageTag w.b.toNat d.fragRegs
        let t (t : Team) : Team := if fwNative x then t.mma a x accumulate fa fb tag
          else { t with emulated := t.emulated ++
            [{ id := c.s.nextId, tile := a, accumulate := accumulate, format := x, fragA := fa, fragB := fb,
               tag := tag }] }
        let s := if fwNative x && !accumulate then c.s.supersede c.tk a else c.s
        { (s.mapTeam c.tk (fun u => c.finish (c.pop (t u) [w.c.toNat]) 1)) with nextId := c.s.nextId + 1 } }

/-- The declarations of the team whose bundle issues. -/
def State.decl (s : State) : Decl :=
  match s.cur with
  | some (tk, _) => match s.team tk with
    | some t => t.decl
    | none => default
  | none => default

def mmaSpec (w : RWord) (d : Decl) : WordSpec := mmaSpec' (.mma w) 0x70 true w d
def execMma (w : RWord) (s : State) : Out := issue (mmaSpec w s.decl) s

def mmazSpec (w : RWord) (d : Decl) : WordSpec := mmaSpec' (.mmaz w) 0x71 false w d
def execMmaz (w : RWord) (s : State) : Out := issue (mmazSpec w s.decl) s

/-! ### Tile moves (R222) -/

/-- A word whose effect is on tiles alone: nothing without an active lane (R216). -/
def tileSpec (i : Instr) (op : Nat) (w : RWord) (fields : List Field) (own : Ctx → Option TrapInfo)
    (tiles : List Nat) (f : Ctx → Team) : WordSpec :=
  { op := op, guard := w.guard, form := fun _ => formOk i, fields := fields, own := own,
    stall := fun c => !c.act.isEmpty && tiles.any c.tileBusy,
    run := fun c => c.s.setTeam c.tk (c.finish (if c.act.isEmpty then c.t else f c) 1) }

def mldaSpec (w : RWord) (d : Decl) : WordSpec :=
  tileSpec (.mlda w) 0x72 w [fD w.d .tile, fA w.a (.vec d.imageRegs d.imageRegs)] noOwn [w.d.toNat] (fun c =>
    c.t.setTile w.d.toNat (fun i j => c.imageWord w.a.toNat (32 * i + j)) (c.imageTag w.a.toNat d.imageRegs))
def execMlda (w : RWord) (s : State) : Out := issue (mldaSpec w s.decl) s

/-- Register writes of an image in the active lanes: word `i` of the image to register first + i div W. -/
def Ctx.imageWrites (c : Ctx) (first n : Nat) (f : Nat → Word) (tag : Bool) : List RegWrite :=
  c.act.flatMap (fun th => (upFrom 0 n).map (fun r =>
    { thread := th, reg := first + r, value := f (r * c.t.decl.width + c.t.laneOf th), tag := tag }))

/-- A counted word whose values are known at issue and reach the registers at its completion (R216, R142). -/
def Ctx.later (c : Ctx) (f : Bool) (ws : List RegWrite) : State :=
  let t := c.t.raiseFlag c.groups (c.flag f)
  (c.s.setTeam c.tk (c.finish t 1)).addWord { c.newWord f with writes := ws, awaited := true }

def mstaSpec (w : RWord) (d : Decl) : WordSpec :=
  { op := 0x73, guard := w.guard, form := fun _ => formOk (.msta w),
    fields := [fD w.d (.vec d.imageRegs d.imageRegs), fA w.a .tile],
    stall := fun c => !c.act.isEmpty && (c.tileBusy w.a.toNat || c.flagFull (c.flag w.f)),
    run := fun c =>
      if c.act.isEmpty then c.s.setTeam c.tk (c.finish c.t 1)
      else c.later w.f (c.imageWrites w.d.toNat d.imageRegs
        (fun i => c.t.tileElem w.a.toNat (i / 32) (i % 32)) (c.t.tileTag w.a.toNat)) }
def execMsta (w : RWord) (s : State) : Out := issue (mstaSpec w s.decl) s

def mzeroSpec (w : RWord) : WordSpec :=
  tileSpec (.mzero w) 0x74 w [fD w.d .tile] noOwn [w.d.toNat] (fun c =>
    c.t.setTile w.d.toNat (fun _ _ => 0) false)
def execMzero (w : RWord) (s : State) : Out := issue (mzeroSpec w) s

/-- A scratch stretch of a team (R93): whether `n` bytes from an address lie within S. -/
def Team.scratchOk (t : Team) (a n : Nat) : Bool :=
  let s := t.scratchKB * 1024
  if t.decl.pair then a < 2 ^ 21 && a % 2 ^ 20 + n ≤ s && (a % 2 ^ 20 < s)
  else a < s && a + n ≤ s

/-- The alignment and bounds checks of a scratch access of some lanes (R93, R227): the lowest failing lane
decides; the record names its address. -/
def Ctx.scratchTrap (c : Ctx) (threads : List Nat) (addr : Nat → Nat) (n align : Nat) : Option TrapInfo :=
  let bad := threads.filter (fun th => addr th % align ≠ 0 || !c.t.scratchOk (addr th) n)
  match bad with
  | [] => none
  | th :: _ => some (c.trapOn bad (if addr th % align ≠ 0 then 0x14 else 0x19) 0 (BitVec.ofNat 64 (addr th)))

/-- Accepted stores to scratch that some threads' program order holds: a tile's is its whole group's (R222). Those held until the
return from a halt are not waited for (R284). -/
def State.scratchOf (s : State) (tk : Nat) (threads : List Nat) : List Store :=
  match s.team tk with
  | none => []
  | some t => s.stores.filter (fun st => st.team = tk && st.place.scratch && (st.threads t).any threads.contains &&
      !t.heldStore st)

/-- Scratch accesses of some threads made before a later access of their group is made (R222, R94): their loads
take their values and their stores are performed. -/
def State.settleScratch (s : State) (tk : Nat) (threads : List Nat) : State :=
  let lanes := (s.words.filter (fun w => w.team = tk)).flatMap (fun w =>
    (w.lanes.filter (fun l => threads.contains l.thread && l.taken.isNone && l.place.scratch)).map
      (fun l => (w.id, l)))
  let s := s.takeAll lanes
  s.commitAll ((s.scratchOf tk threads).map (·.id))

/-- Whether a scratch load of some threads has still to take its value. -/
def State.owesScratch (s : State) (tk : Nat) (threads : List Nat) : Bool :=
  s.words.any (fun w => w.team = tk && w.lanes.any (fun l =>
    threads.contains l.thread && l.taken.isNone && l.place.scratch))

/-- Bytes of scratch as a group finds them in its program order (R222): those of its own latest uncommitted stores
first. -/
def State.groupScratch (s : State) (tk : Nat) (t : Team) (g : Nat) (as : List Nat) : List Byte :=
  let own := s.stores.filter (fun st => st.team = tk && st.place.scratch && t.groupOf st.thread = g)
  as.map (fun a =>
    match (own.filter (fun st => st.place.bytes.contains a)).getLast? with
    | some st => (((st.place.bytes.zip st.data).find? (fun x => x.1 = a)).map (·.2)).getD 0
    | none => t.scratch.read a)

/-- A word that reads or writes scratch in its group's program order waits while a scratch load of the group has no
value (R222). -/
def Ctx.scratchWaits (c : Ctx) : Bool :=
  !c.act.isEmpty && (c.s.settleScratch c.tk (c.t.threadsOf c.group)).owesScratch c.tk (c.t.threadsOf c.group)

/-- MLDS and MSTS check the address of the lowest active lane (R222). -/
def Ctx.tileScratchTrap (c : Ctx) (code : Nat) (n : BitVec 11) : Option TrapInfo :=
  match tagsOf [(code, n)] c with
  | some i => some i
  | none => match if c.dry [n.toNat] then [] else c.act with
    | [] => none
    | th :: _ => c.scratchTrap [th] (fun th => (c.val th n.toNat).toNat) 4096 128

def mldsSpec (w : RWord) : WordSpec :=
  { op := 0x79, guard := w.guard, srcs := [w.a.toNat], form := fun _ => formOk (.mlds w),
    fields := [fD w.d .tile, fA w.a .src], own := fun c => c.tileScratchTrap 1 w.a,
    scratch := fun c => c.act.head?.toList.map (fun th => (th, upFrom (c.val th w.a.toNat).toNat 4096)),
    stall := fun c => !c.act.isEmpty && c.tileBusy w.d.toNat || c.scratchWaits,
    run := fun c =>
      match c.act with
      | [] => c.s.setTeam c.tk (c.finish c.t 1)
      | th :: _ =>
        let a := (c.val th w.a.toNat).toNat
        let s := c.s.settleScratch c.tk (c.t.threadsOf c.group)
        s.mapTeam c.tk (fun t => c.finish (c.pop (t.setTile w.d.toNat
          (fun i j => BitVec.ofNat 32 (ofBytesLE (s.groupScratch c.tk t c.group (upFrom (a + 4 * (32 * i + j)) 4))))
          false) [w.a.toNat]) 1) }
def execMlds (w : RWord) (s : State) : Out := issue (mldsSpec w) s

/-- MSTS (R222): an accepted store of the group, which commits behind the group's earlier loads (R271). -/
def mstsSpec (w : RWord) : WordSpec :=
  { op := 0x7A, guard := w.guard, srcs := [w.b.toNat], form := fun _ => formOk (.msts w),
    fields := [fA w.a .tile, fB w.b .src],
    own := fun c =>
      if !c.act.isEmpty && c.t.tileTag w.a.toNat then some (c.trap 0x09 (Field.info ⟨6, w.a.toNat, .tile⟩))
      else c.tileScratchTrap 2 w.b,
    stall := fun c => !c.act.isEmpty && (c.tileBusy w.a.toNat || c.flagFull (c.flag w.f)) || c.scratchWaits,
    run := fun c =>
      match c.act with
      | [] => c.s.setTeam c.tk (c.finish c.t 1)
      | th :: _ =>
        let a := (c.val th w.b.toNat).toNat
        let s := c.s.settleScratch c.tk (c.t.threadsOf c.group)
        let st : Store :=
          { id := s.nextId + 1, word := s.nextId, team := c.tk, thread := th, clause := c.b.pc, widx := c.b.widx,
            va := BitVec.ofNat 64 a, place := { scratch := true, bytes := upFrom a 4096 }, tile := some c.group,
            data := (upFrom 0 1024).flatMap (fun k => bytesLE 4 (c.t.tileElem w.a.toNat (k / 32) (k % 32)).toNat) }
        let s := (s.mapTeam c.tk (fun t =>
          c.finish (c.pop (t.raiseFlag c.groups (c.flag w.f)) [w.b.toNat]) 1)).addWord { c.newWord w.f with id := s.nextId, awaited := true }
        { s with stores := s.stores ++ [st], nextId := s.nextId + 1 } }
def execMsts (w : RWord) (s : State) : Out := issue (mstsSpec w) s

/-! ### Row operations (R224) -/

/-- MROW over the first ncol columns of a row: maximum, or sum in the tree of R61. -/
def Team.rowReduce (t : Team) (a i ncol : Nat) (add : Bool) : Word :=
  let op (x y : Nat) : Nat :=
    if add then (Fmt.fp32.fadd .rne x y).bits else (Fmt.fp32.fminmax true x y).bits
  BitVec.ofNat 32 ((treeNode op (fun j => if j < ncol then some (t.tileElem a i j).toNat else none) 5 0).getD 0)

def mrowSpec (w : RWord) (d : Decl) : WordSpec :=
  { op := 0x75, guard := w.guard, form := fun _ => formOk (.mrow w),
    fields := [fD w.d (.vec 1 d.rowRegs), fA w.a .tile],
    stall := fun c => !c.act.isEmpty && (c.tileBusy w.a.toNat || c.flagFull (c.flag w.f)),
    run := fun c =>
      if c.act.isEmpty then c.s.setTeam c.tk (c.finish c.t 1)
      else c.later w.f (c.imageWrites w.d.toNat d.rowRegs
        (fun i => c.t.rowReduce w.a.toNat (i % 32) w.c.toNat (w.m = 1)) (c.t.tileTag w.a.toNat)) }
def execMrow (w : RWord) (s : State) : Out := issue (mrowSpec w s.decl) s

/-- One element of MAPPLY (R224). -/
def mapplyElem (m : Nat) (a r : Word) : Word :=
  match m with
  | 0 => BitVec.ofNat 32 (fexp2 (BitVec.ofNat 32 (Fmt.fp32.fsub .rne a.toNat r.toNat).bits)).bits
  | 1 => BitVec.ofNat 32 (Fmt.fp32.fsub .rne a.toNat r.toNat).bits
  | _ => BitVec.ofNat 32 (Fmt.fp32.fadd .rne a.toNat r.toNat).bits

def mapplySpec (w : RWord) (d : Decl) : WordSpec :=
  tileSpec (.mapply w) 0x76 w [fD w.d .tile, fA w.a .tile, fB w.b (.vec 1 d.rowRegs)]
    (fun c => if c.tilesApart w.d.toNat w.a.toNat then some (c.trap 0x03 (Field.info ⟨6, w.a.toNat, .tile⟩))
      else none) [w.d.toNat, w.a.toNat]
    (fun c => c.t.setTile w.d.toNat
      (fun i j => if j < w.c.toNat then
          mapplyElem w.m.toNat (c.t.tileElem w.a.toNat i j) (c.rowValue w.b.toNat i) else 0)
      (c.t.tileTag w.a.toNat || c.imageTag w.b.toNat d.rowRegs))
def execMapply (w : RWord) (s : State) : Out := issue (mapplySpec w s.decl) s

def mscaleSpec (w : RWord) (d : Decl) : WordSpec :=
  let scalar := w.m = 1
  let sp := tileSpec (.mscale w) 0x77 w [fD w.d .tile, fB w.b (if scalar then .src else .vec 1 d.rowRegs)]
    noOwn [w.d.toNat] (fun c =>
      let th := c.act.headD 0
      c.pop (c.t.setTile w.d.toNat
        (fun i j =>
          let r := if scalar then c.val th w.b.toNat else c.rowValue w.b.toNat i
          BitVec.ofNat 32 (Fmt.fp32.fmul .rne (c.t.tileElem w.d.toNat i j).toNat r.toNat).bits)
        (c.t.tileTag w.d.toNat ||
          (if scalar then c.tag th w.b.toNat else c.imageTag w.b.toNat d.rowRegs)))
        (if scalar then [w.b.toNat] else []))
  { sp with srcs := if scalar then [w.b.toNat] else [] }
def execMscale (w : RWord) (s : State) : Out := issue (mscaleSpec w s.decl) s

/-! ### XMV (R225, R226) -/

/-- The plinths of a core's partition in the effective placement. -/
def State.xmvSet (s : State) (v : View) (vi core : Nat) : List Nat :=
  (upFrom (corePart core * 8) 8).filter (s.placed v.image vi)

/-- The plinth that serves an XMV of a core digitally (R226): the lowest placed plinth of its partition, or plinth 8k of
its quadrant (log 97). -/
def State.xmvDigital (s : State) (v : View) (vi core : Nat) : Nat :=
  (s.xmvSet v vi core).headD (corePart core * 8)

/-- The plinth that an XMV of a core goes to (R226): arrays of the core's partition that hold the view, the lowest-numbered
placed plinth with such (log 97), else the one of its digital service. -/
def State.xmvPlinth (s : State) (v : View) (vi core : Nat) : Nat :=
  match (s.xmvSet v vi core).find? (fun p => boundedMode v.image && s.resident p v) with
  | some p => p
  | none => s.xmvDigital v vi core

/-- Elements an XMV returns (R225). -/
def xmvCount (v : View) (cstart : Nat) (tile : Bool) : Nat :=
  min (vOutlen v.image - cstart) (if tile || vOutfmt v.image = 0 then 32 else 16)

/-- A view register without its valid bit, or a first column beyond the view (R86, R225). -/
def Ctx.viewTrap (c : Ctx) (threads : List Nat) (n : Nat) (cstart : Nat) : Option TrapInfo :=
  if threads.any (fun th => !(c.view th n).valid) then
    some (c.trap 0x0B (BitVec.ofNat 32 n))
  else
    match threads.find? (fun th => vOutlen (c.view th n).image ≤ cstart) with
    | some th => some (c.trap 0x0B (BitVec.ofNat 32 n) (BitVec.ofNat 64 (vDesc (c.view th n).image)))
    | none => none

def xmvSpec (w : RWord) : WordSpec :=
  let tile := w.m = 1
  let v (c : Ctx) (th : Nat) : View := c.view th w.b.toNat
  let addr (c : Ctx) (th : Nat) : Nat := (c.val th w.a.toNat).toNat
  { op := 0x78, guard := w.guard, srcs := [w.a.toNat],
    form := fun c => formOk (.xmv w) && !(tile && c.t.decl.width = 64),
    fields := [fD w.d (if tile then .tile else .vec 1 16), fA w.a .src, fB w.b .view],
    own := fun c =>
      match tagsOf [(1, w.a)] c with
      | some i => some i
      | none =>
        match c.viewTrap c.act w.b.toNat w.c.toNat with
        | some i => some i
        | none =>
          match if c.dry [w.a.toNat] then [] else c.act with
          | [] => none
          | th :: _ => c.scratchTrap c.act (addr c) (recordBytes (v c th).image) (recordAlign (v c th).image),
    scratch := fun c => c.act.map (fun th => (th, upFrom (addr c th) (recordBytes (v c th).image))),
    stall := fun c => !c.act.isEmpty &&
      (if tile then c.tileBusy w.d.toNat else c.flagFull (c.flag w.f)) || c.scratchWaits,
    run := fun c =>
      if c.act.isEmpty then c.s.setTeam c.tk (c.finish c.t 1)
      else
        let s := c.s.settleScratch c.tk (c.t.threadsOf c.group)
        let t := match s.team c.tk with
          | some t => t
          | none => c.t
        let projs := c.act.map (fun th =>
          let x := v c th
          { thread := th, view := x, viewReg := w.b.toNat, plinth := s.xmvPlinth x t.vi (c.coreOf th),
            digital := some (s.xmvDigital x t.vi (c.coreOf th)), places := [],
            record := s.groupScratch c.tk t c.group (upFrom (addr c th) (recordBytes x.image)), cstart := w.c.toNat,
            count := xmvCount x w.c.toNat tile, reg := if tile then none else some w.d.toNat,
            tile := if tile then some w.d.toNat else none : Proj })
        let word := { c.newWord w.f with id := s.nextId, projs := projs, awaited := true,
                                         flag := if tile then none else c.flag w.f,
                                         tile := if tile then some w.d.toNat else none }
        let t := if tile then t else t.raiseFlag c.groups (c.flag w.f)
        (s.setTeam c.tk (c.finish (c.pop t [w.a.toNat]) 1)).addWord word }
def execXmv (w : RWord) (s : State) : Out := issue (xmvSpec w) s

end Sys2Proof.Machine
end

