-- ==== Sys2Proof/Machine/Mem.lean ====
section
/-!
DEFINITION. Loads, stores and atomics (R227 to R232), cache and scratch control (R243 to R246), and monitors
(R247, R248): how the lanes of one word are checked and reached, and when each word takes or makes its values.
-/
namespace Sys2Proof.Machine

/-! ### The lanes of one access (R227) -/

/-- What the checks of step 9 answer for the lanes of a word: the state with demand pages mapped, the lanes with
the places of their parts, and the failing lanes with address and outcome. -/
structure Reached where
  s : State
  ok : List (Nat × List Place)
  bad : List (Nat × DWord × Check)

/-- The parts of an access of one lane: address and length of each, in rising order. -/
abbrev Parts : Type := List (Nat × Nat)

/-- Checks and reaches the parts of one lane's global access: each page is touched (R125) and checked. A failing part
is named with its outcome; pages touched up to it stay mapped. -/
def State.reachParts (s : State) (c : DWord) (vi die : Nat) (k : Kind) (ps : Parts) :
    Except (Nat × Check × State) (List Place × State) :=
  ps.foldl (fun acc p =>
    match acc with
    | .error e => .error e
    | .ok (pls, s) =>
      let s := s.touchPage c vi p.1
      match s.checkPage c vi die k p.1 with
      | .page a _ _ => .ok (pls ++ [pagePlace die k (s.pte a) p.1 p.2], s)
      | o => .error (p.1, o, s)) (.ok ([], s))

/-- Pages of a stretch of bytes, as parts: each lies in one page. -/
def pageParts (va n : Nat) : Parts :=
  (upFrom (va / 65536) ((va + n - 1) / 65536 - va / 65536 + 1)).map (fun p =>
    let lo := max va (p * 65536)
    (lo, min (va + n) (p * 65536 + 65536) - lo))

/-- The address a record gives for a lane whose access at `a` fails in a part at `x` (R227): the lane's own; the
part's, where the page that must be served, or whose flight is at fault, is another one than the first. -/
def faultAddress (a x : Nat) (o : Check) : Nat :=
  match o with
  | .trap cause => if cause = 0x17 && a / 65536 ≠ x / 65536 then x else a
  | _ => max a x

/-- Reaches the global access of one more lane: form, alignment, then R122. -/
def Ctx.reachOne (c : Ctx) (k : Kind) (r : Reached) (th a align : Nat) (parts : Parts) : Reached :=
  if 2 ^ 57 ≤ a then { r with bad := r.bad ++ [(th, BitVec.ofNat 64 a, .trap 0x10)] }
  else if a % align ≠ 0 then { r with bad := r.bad ++ [(th, BitVec.ofNat 64 a, .trap 0x14)] }
  else
    match r.s.reachParts c.t.ctx c.t.vi (coreDie (c.coreOf th)) k parts with
    | .ok (pls, s) => { r with s := s, ok := r.ok ++ [(th, pls)] }
    | .error (x, o, s) => { r with s := s, bad := r.bad ++ [(th, BitVec.ofNat 64 (faultAddress a x o), o)] }

/-- Reaches a global access of some lanes, in home-lane order. -/
def Ctx.reachGlobal (c : Ctx) (k : Kind) (lanes : List Nat) (addr : Nat → Nat) (align : Nat → Nat)
    (parts : Nat → Parts) : Reached :=
  lanes.foldl (fun r th => c.reachOne k r th (addr th) (align th) (parts th)) ⟨c.s, [], []⟩

/-- The check of one scratch address (R93): alignment first, then the bounds of S. -/
def Team.scratchCheck (t : Team) (x : Int) (n align : Nat) : Option (BitVec 8) :=
  if x % align ≠ 0 then some 0x14
  else if x < 0 || 2 ^ 32 ≤ x || !t.scratchOk x.toNat n then some 0x19
  else none

/-- Reaches a scratch access of some lanes. -/
def Ctx.reachScratch (c : Ctx) (lanes : List Nat) (sum : Nat → Int) (n align : Nat) (parts : Nat → Parts) :
    Reached :=
  lanes.foldl (fun r th =>
    match c.t.scratchCheck (sum th) n align with
    | some cause => { r with bad := r.bad ++ [(th, (BitVec.ofInt 32 (sum th)).setWidth 64, .trap cause)] }
    | none => { r with ok := r.ok ++ [(th, (parts th).map (fun p =>
        { scratch := true, bytes := upFrom p.1 p.2 }))] }) ⟨c.s, [], []⟩

/-- The outcome of the checks: that of the lowest failing home lane (R227). MASK names the failing lanes, but every active
lane for the flight-state fault (R301). -/
def Ctx.verdict (c : Ctx) (k : Kind) (r : Reached) : Verdict :=
  match sortByKey (fun x => c.t.laneOf x.1) r.bad with
  | [] => .pass
  | (_, a, o) :: _ =>
    match o with
    | .trap cause =>
      let failing := (r.bad.filter (fun x => match x.2.2 with
        | .trap _ => true
        | _ => false)).map (·.1)
      .trap (c.trapOn (if cause = 0x17 then c.act else failing) cause (c.s.flightCode c.t.ctx cause a.toNat) a)
    | .replay cause => .replay cause ((r.bad.filter (fun x => match x.2.2 with
        | .replay y => y = cause
        | _ => false)).map (·.1)) a.toNat (k != .load)
    | .page .. => .pass

/-! ### M-format words (R171, R172, R228 to R230) -/

/-- Bytes of an access by its SIZE. -/
def sizeBytes (w : MWord) : Nat := 2 ^ w.size.toNat

/-- The unit of OFFSET. -/
def mUnit (w : MWord) (l6 : Bool) : Nat := if l6 then 12 else sizeBytes w

/-- Bytes an access moves in a lane. -/
def mBytes (w : MWord) (l6 : Bool) : Nat := mUnit w l6

/-- The multiple its address must be. -/
def mAlign (w : MWord) (l6 : Bool) : Nat := if l6 then 4 else sizeBytes w

/-- The single-copy-atomic parts of an access (R271). -/
def mParts (w : MWord) (l6 : Bool) (a : Nat) : Parts :=
  if l6 then [(a, 4), (a + 4, 4), (a + 8, 4)]
  else if w.size = 4 then [(a, 8), (a + 8, 8)]
  else [(a, sizeBytes w)]

/-- A global address: the pair plus OFFSET × unit, modulo 2^64 (R227). -/
def Ctx.mAddr (c : Ctx) (w : MWord) (l6 : Bool) (th : Nat) : Nat :=
  (c.pair th w.a.toNat + BitVec.ofInt 64 (w.offset.toInt * mUnit w l6)).toNat

/-- A scratch address: the 32-bit source plus OFFSET × unit (R93). -/
def Ctx.mSum (c : Ctx) (w : MWord) (l6 : Bool) (th : Nat) : Int :=
  (c.val th w.a.toNat).toNat + w.offset.toInt * mUnit w l6

/-- Reaches the lanes of an M-format word in its space. -/
def Ctx.mReach (c : Ctx) (w : MWord) (l6 : Bool) (k : Kind) : Reached :=
  if w.space = 1 then
    c.reachScratch c.act (c.mSum w l6) (mBytes w l6) (mAlign w l6)
      (fun th => mParts w l6 (c.mSum w l6 th).toNat)
  else
    c.reachGlobal k c.act (c.mAddr w l6) (fun _ => mAlign w l6)
      (fun th => mParts w l6 (c.mAddr w l6 th))

/-- The virtual or scratch address of a lane, as stores and loads keep it for records. -/
def Ctx.mVa (c : Ctx) (w : MWord) (l6 : Bool) (th : Nat) : DWord :=
  if w.space = 1 then (BitVec.ofInt 32 (c.mSum w l6 th)).setWidth 64 else BitVec.ofNat 64 (c.mAddr w l6 th)

/-- The scope trap of step 7 (R119). -/
def Ctx.scopeTrap (c : Ctx) (scope : Nat) : Option TrapInfo :=
  if c.s.scopeAllowed c.t.ctx scope then none else some (c.trap 0x15 (BitVec.ofNat 32 scope))

def Ctx.mPolicy (c : Ctx) (w : MWord) : Option TrapInfo :=
  if w.m = 0 then none else c.scopeTrap w.xf.toNat

/-- The parts of reached lanes with their byte offsets. -/
def Reached.parts (r : Reached) : List (Nat × Nat × Place) :=
  r.ok.flatMap (fun x => offs x.1 0 x.2)
where
  /-- each part with the bytes before it -/
  offs (th n : Nat) : List Place → List (Nat × Nat × Place)
    | [] => []
    | p :: ps => (th, n, p) :: offs th (n + p.bytes.length) ps

/-! ### Values taken at issue -/

/-- Whether the thread's earlier accesses let a value be taken at this place now: no chained store of its own on
the way (R281), and no earlier overlapping load that has still to take its value (R271). -/
def State.takeReady (s : State) (t : Team) (tk thread id : Nat) (p : Place) : Bool :=
  !s.gateOpen t.vi p ||
  (!s.ownChained tk thread id p && !s.acquiring tk thread id &&
   (mustPrecede ((s.settlePlace tk thread id p).untaken tk thread id).reverse [p]).all
     (fun x => !s.gateOpen t.vi x.2.place))

/-- A lane takes its value at issue: `slice` from the point of performance and no L1 copy (R228, R272). -/
def State.takeNow (s : State) (id : Nat) (l : Lane) (slice : Bool) : State :=
  match s.word id with
  | none => s
  | some w =>
    match s.team w.team with
    | none => s
    | some t =>
      if s.gateOpen t.vi l.place then
        let s := s.settlePlace w.team l.thread id l.place
        let s := if slice && !l.place.scratch && l.place.chain.isNone
          then t.coreList.foldl (fun s c => (sortUp (l.place.bytes.map lineOf)).foldl (fun s x => s.dropL1 c x) s) s
          else s
        match s.word id with
        | some w => s.takeLane w l
        | none => s
      else s

/-- The acquire part for every group with an active lane. -/
def Ctx.acquireAll (c : Ctx) (s : State) (scope : Nat) : State :=
  c.groups.foldl (fun s g => s.acquire c.t g scope) s

/-- A word that waits to be released: its group's stores that a release would fault on, and those that are not
performed yet (R275, R284). -/
def Ctx.releaseTrap (c : Ctx) : Option TrapInfo := c.strandedTrap (c.t.threadsOfAll c.groups)

/-! ### Loads (R228, R230) -/

/-- Registers a load fills. -/
def mRegs (w : MWord) (l6 : Bool) : Nat := if l6 || w.size = 4 then 4 else if w.size = 3 then 2 else 1

/-- The shape of a load's D (R172, R228). -/
def loadShape (w : MWord) (l6 : Bool) : Shape :=
  if l6 || w.size = 4 then .vec 4 4 else if w.size = 3 then .dstPair else .vecOrUni

/-- The shape of A (R172). -/
def addrShape (w : MWord) : Shape := if w.space = 1 then .src else .addr

/-- The tag check of A: a pair, or one source (R67). -/
def mAddrTag (w : MWord) : Nat × Nat × Nat := (1, w.a.toNat, if w.space = 1 then 1 else 2)

/-- Whether a load takes its values at issue: an acquire, or a relaxed atomic at the slice (R228, R273). -/
def mAtIssue (w : MWord) : Bool := w.m = 1 || (w.m = 2 && w.space = 0 && 2 ≤ w.xf.toNat)

/-- The word in flight of a load. -/
def Ctx.loadWord (c : Ctx) (w : MWord) (l6 : Bool) (r : Reached) : CWord :=
  { c.newWord w.f with
    size := mBytes w l6, signed := w.sx, l6 := l6, hint := w.hint.toNat,
    lanes := r.parts.map (fun x =>
      { thread := x.1, off := x.2.1, place := x.2.2, va := c.mVa w l6 x.1,
        regs := c.regsOf w.d.toNat (mRegs w l6) x.1 : Lane }) }

/-- LD and LDL6. -/
def loadSpec (i : Instr) (op : Nat) (w : MWord) (l6 : Bool) : WordSpec :=
  let ns := [w.a.toNat]
  { op := op, guard := w.guard, srcs := ns, form := fun _ => formOk i,
    fields := [fD w.d (loadShape w l6), fA w.a (addrShape w)],
    policy := fun c => c.mPolicy w,
    own := fun c => c.tagTrap [mAddrTag w],
    stall := fun c => c.flagFull (c.flag w.f) ||
      (mAtIssue w && (c.mReach w l6 .load).parts.any (fun x =>
        !c.s.takeReady c.t c.tk x.1 c.s.nextId x.2.2)),
    access := fun c => c.verdict .load (c.mReach w l6 .load), touch := fun c => (c.mReach w l6 .load).s,
    flagged := some w.f,
    run := fun c =>
      let team (t : Team) : Team := c.finish (c.pop (c.raise t (c.flag w.f)) ns) 1
      if c.act.isEmpty then c.s.mapTeam c.tk team
      else
        let r := c.mReach w l6 .load
        let word := c.loadWord w l6 r
        let s := (r.s.mapTeam c.tk team).addWord word
        let s := if mAtIssue w
          then word.lanes.foldl (fun s l => s.takeNow word.id l (w.m = 2)) s
          else s
        if w.m = 1 then c.acquireAll s w.xf.toNat else s }

def ldSpec (w : MWord) : WordSpec := loadSpec (.ld w) 0x80 w false
def execLd (w : MWord) (s : State) : Out := issue (ldSpec w) s

def ldl6Spec (w : MWord) : WordSpec := loadSpec (.ldl6 w) 0x82 w true
def execLdl6 (w : MWord) (s : State) : Out := issue (ldl6Spec w) s

/-! ### Stores (R229, R230) -/

/-- The shape of store data (R229). -/
def dataShape (w : MWord) (l6 : Bool) : Shape :=
  if l6 || w.size = 4 then .vec 4 4 else if w.size = 3 then .data64 else .data32

/-- Twelve bytes of sixteen elements in register form (R230). -/
def packL6 (ws : List Word) : Nat :=
  let bs := ws.flatMap (fun x => bytesLE 4 x.toNat)
  ((upFrom 0 16).map (fun k => l6Code (bs.getD k 0).toNat * 2 ^ (6 * k))).foldl (· + ·) 0

/-- Sixteen elements in register form of twelve bytes (R230). -/
def unpackL6 (x : Nat) : List Word :=
  (upFrom 0 4).map (fun r => BitVec.ofNat 32 (((upFrom 0 4).map (fun b =>
    x / 2 ^ (6 * (4 * r + b)) % 64 * 2 ^ (8 * b))).foldl (· + ·) 0))

/-- The data of one lane as a number. -/
def Ctx.storeData (c : Ctx) (w : MWord) (l6 : Bool) (th : Nat) : Nat :=
  let d := w.d.toNat
  if l6 then packL6 ((upFrom d 4).map (c.val th))
  else if w.size = 4 then
    ((upFrom 0 4).map (fun i => (c.val th (d + i)).toNat * 2 ^ (32 * i))).foldl (· + ·) 0
  else if w.size = 3 then (c.pair th d).toNat
  else (c.val th d).toNat % 2 ^ (8 * sizeBytes w)

/-- Groups of the lanes that reach a chained page (R144). -/
def Ctx.chainedGroups (c : Ctx) (r : Reached) : List Nat :=
  sortUp ((r.ok.filter (fun x => x.2.any (fun p => p.chain.isSome))).map (fun x => c.t.groupOf x.1))

/-- Groups whose access concerns a chained page, where a lane of the word is parked too. -/
def Ctx.chainedCounts (c : Ctx) (r : Reached) : List Nat :=
  let chained (x : Nat × DWord × Check) : Bool :=
    match r.s.leaf c.t.ctx x.2.1.toNat with
    | some a => pteClass (r.s.pte a) = 1
    | none => false
  sortUp (c.chainedGroups r ++ (r.bad.filter chained).map (fun x => c.t.groupOf x.1))

/-- c3 operations of a word for some groups, from an identity on (R144). -/
def Ctx.chainedOps (c : Ctx) (gs : List Nat) (id : Nat) : List Op :=
  gs.zipIdx.map (fun x =>
    { id := id + x.2, team := c.tk, group := x.1, cls := 3, clause := c.b.pc, widx := c.b.widx,
      kind := .chained })

/-- The operation of a group among some. -/
def opOf (ops : List Op) (g : Nat) : Option Nat := (ops.find? (fun o => o.group = g)).map (·.id)

/-- The stores of a word, in home-lane order, one for each part. -/
def Ctx.storeParts (c : Ctx) (w : MWord) (l6 : Bool) (r : Reached) (ops : List Op) (id : Nat) : List Store :=
  r.parts.zipIdx.map (fun x =>
    let th := x.1.1
    let p := x.1.2.2
    { id := id + x.2, word := c.s.nextId,
      op := if p.chain.isSome then opOf ops (c.t.groupOf th) else none,
      team := c.tk, thread := th, clause := c.b.pc, widx := c.b.widx, va := c.mVa w l6 th, off := x.1.2.1, place := p,
      data := bytesLE p.bytes.length (c.storeData w l6 th / 2 ^ (8 * x.1.2.1)),
      atomic := w.m = 2, hint := w.hint.toNat })

/-- ST, STB and STL6. `tagged` data is refused (R67). -/
def storeSpec (i : Instr) (op : Nat) (w : MWord) (l6 tagged : Bool) : WordSpec :=
  let ns := [w.d.toNat, w.a.toNat]
  let dataTag := (0, w.d.toNat, if l6 || w.size = 4 then 4 else if w.size = 3 then 2 else 1)
  { op := op, guard := w.guard, srcs := ns, form := fun _ => formOk i, viewStore := viewStore i,
    fields := [fD w.d (dataShape w l6), fA w.a (addrShape w)],
    policy := fun c => c.mPolicy w,
    own := fun c =>
      match c.tagTrap (if tagged then [dataTag, mAddrTag w] else [mAddrTag w]) with
      | some x => some x
      | none => if w.m = 1 then c.releaseTrap else none,
    stall := fun c => c.flagFull (c.flag w.f) ||
      (w.m = 1 && !c.act.isEmpty && c.releaseWaits c.act w.xf.toNat) ||
      c.fullFor (c.chainedCounts (c.mReach w l6 .store)) 3,
    access := fun c => c.verdict .store (c.mReach w l6 .store), touch := fun c => (c.mReach w l6 .store).s,
    flagged := some w.f, counts := fun c => some (3, c.chainedCounts (c.mReach w l6 .store)),
    run := fun c =>
      let r := c.mReach w l6 .store
      let gs := c.chainedGroups r
      let team (t : Team) : Team := c.finish (c.pop (c.raiseFor (c.raise t (c.flag w.f)) gs 3) ns) 1
      if c.act.isEmpty then c.s.mapTeam c.tk team
      else
        let ops := c.chainedOps gs (c.s.nextId + 1)
        let sts := c.storeParts w l6 r ops (c.s.nextId + 1 + ops.length)
        let s := (if w.m = 1 then r.s.release c.tk c.act w.xf.toNat else r.s)
        let s := (s.mapTeam c.tk team).addWord (c.newWord w.f)
        { s with ops := s.ops ++ ops, stores := s.stores ++ sts,
                 nextId := s.nextId + ops.length + sts.length } }

def stSpec (w : MWord) : WordSpec := storeSpec (.st w) 0x81 w false true
def execSt (w : MWord) (s : State) : Out := issue (stSpec w) s

def stbSpec (w : MWord) : WordSpec := storeSpec (.stb w) 0x84 w false false
def execStb (w : MWord) (s : State) : Out := issue (stbSpec w) s

def stl6Spec (w : MWord) : WordSpec := storeSpec (.stl6 w) 0x83 w true true
def execStl6 (w : MWord) (s : State) : Out := issue (stl6Spec w) s

/-! ### Atomics (R174, R231, R232) -/

/-- The thread's own accepted stores to a place before a word, oldest first. -/
def State.ownStores (s : State) (tk thread id : Nat) (p : Place) : List Store :=
  s.stores.filter (fun st => s.isOwn tk thread st && st.id < id && st.stranded.isNone && st.place.overlaps p)

/-- Brings a thread's own earlier accesses before an atomic at a place: its loads take their values, its stores to
these bytes commit (R227, R271), and the acquire part of an earlier atomic is done (R273). None while one of them
cannot. -/
def State.beforeAtomic (s : State) (t : Team) (tk thread id : Nat) (p : Place) : Option State :=
  let s := s.settleThread tk thread id
  let s := s.commitAhead t (s.ownStores tk thread id p)
  if s.unsettled tk thread id t.vi || s.acquiring tk thread id || !(s.ownStores tk thread id p).isEmpty then none
  else some s

/-- One indivisible step at a place (R232): the old value and the state after; `f` gives the new value, or none
where nothing is written. None while the flight's head cannot take it (R116, R263). The line's recorded hint becomes
default: the word carries none (log 73). -/
def State.atomicAt (s : State) (t : Team) (tk thread id op : Nat) (p : Place) (f : Nat → Option Nat) :
    Option (Nat × State) :=
  let n := p.bytes.length
  if p.scratch then
    let old := ofBytesLE (p.bytes.map t.scratch.read)
    match f old with
    | none => some (old, s)
    | some x => some (old, s.writeScratch tk (p.bytes.zip (bytesLE n x)))
  else
    let old := ofBytesLE (s.placeBytes p)
    match p.chain with
    | none =>
      let lines := sortUp (p.bytes.map lineOf)
      let s := t.coreList.foldl (fun s c => lines.foldl (fun s x => s.dropL1 c x) s) s
      match f old with
      | none => some (old, lines.foldl (fun s x => s.cacheLine x p.home 0 false) s)
      | some x => some (old, (s.pokeBytes p.home 0 (p.bytes.zip (bytesLE n x))).recordWrite lines)
    | some (fl, e) =>
      match (s.flight fl).stepList.head? with
      | none => none
      | some (_, d, _) =>
        let w := s.word id
        let va := ((w.bind (fun w => w.lanes.find? (fun l => l.thread = thread))).map (·.va)).getD 0
        let y (x : Nat) : Flying :=
          { id := id, op := op, flight := fl, entry := e, die := d, offsets := p.bytes, data := bytesLE n x, team := tk,
            thread := thread, va := va, clause := (w.map (·.clause)).getD 0, widx := (w.map (·.widx)).getD 0 }
        match f old with
        | none => some (old, s)
        | some x => if s.headTakes (y x) then some (old, s.enterHead (y x)) else none

/-- Address of the first line with an uncorrectable error that an atomic meets at its point (R103). -/
def State.spoiltAt (s : State) (t : Team) (p : Place) : Option Nat :=
  if p.scratch then t.badAt p.bytes
  else ((s.physOf p).find? (fun a => s.poison.contains (lineOf a))).map (fun a => lineOf a * 128)

/-- The atomic of one lane of a word in flight: nothing happens behind a closed gate (R130); a line with an error is
reported and the lane's destination stays (R103, R303). None while it has to wait. -/
def State.atomicLane (s : State) (word : Nat) (op : Nat) (l : Lane) (f : Nat → Option Nat) : Option State :=
  match s.word word with
  | none => some s
  | some w =>
    match s.team w.team with
    | none => some s
    | some t =>
      if !s.gateOpen t.vi l.place then some s
      else
        match s.beforeAtomic t w.team l.thread word l.place with
        | none => none
        | some s =>
          match s.spoiltAt t l.place with
          | some a =>
            some ((s.setWord { w with lanes := w.lanes.filter (fun x => x.thread ≠ l.thread) }).report w.team
              (t.groupOf l.thread) (asyncInfo 0x30 (t.mask [l.thread]) a 0 w.clause w.widx))
          | none =>
            match s.team w.team with
            | none => some s
            | some t =>
              match s.atomicAt t w.team l.thread word op l.place f with
              | none => none
              | some (old, s) =>
                match s.word word with
                | some w => some (s.setWord (w.take l.thread l.off old))
                | none => some s

/-- The lanes of ATOM, RED and CAS. -/
def Ctx.aReach (c : Ctx) (w : RWord) : Reached :=
  let k := w.atomCtl
  let n := if k.w64 then 8 else 4
  if k.scr then
    c.reachScratch c.act (fun th => ((c.val th w.a.toNat).toNat : Int)) n n
      (fun th => [((c.val th w.a.toNat).toNat, n)])
  else
    c.reachGlobal .atomic c.act (fun th => (c.pair th w.a.toNat).toNat) (fun _ => n)
      (fun th => [((c.pair th w.a.toNat).toNat, n)])

/-- A 32-bit or 64-bit operand as a number. -/
def Ctx.aVal (c : Ctx) (w64 : Bool) (th : Nat) (n : BitVec 11) : Nat :=
  if w64 then (c.pair th n.toNat).toNat else (c.val th n.toNat).toNat

/-- What kind of atomic a word is. -/
inductive AtomKind where
  | atom | red | cas
  deriving DecidableEq, Repr

/-- The new value of one lane, or none where it writes nothing. -/
def Ctx.aNew (c : Ctx) (w : RWord) (kind : AtomKind) (th old : Nat) : Option Nat :=
  let k := w.atomCtl
  let b := c.aVal k.w64 th w.b
  match kind with
  | .cas => if old = c.aVal k.w64 th w.d then some b else none
  | _ => some (atomNew k.aop (if k.w64 then 64 else 32) old b)

/-- Groups that count on c3 for an atomic: of every lane that concerns a chained page (R144). -/
def Ctx.aCounts (c : Ctx) (w : RWord) : List Nat := c.chainedCounts (c.aReach w)

/-- The accepted atomics of a word on chained pages (R116): each runs at the head of its flight. -/
def Ctx.acceptedAtomics (c : Ctx) (w : RWord) (kind : AtomKind) (lanes : List Lane) (ops : List Op) (id : Nat) :
    List Store :=
  let k := w.atomCtl
  ((lanes.filter (·.rmw)).zipIdx).map (fun x =>
    let th := x.1.thread
    { id := id + x.2, word := c.s.nextId, op := opOf ops (c.t.groupOf th), team := c.tk, thread := th, clause := c.b.pc,
      widx := c.b.widx, va := x.1.va, place := x.1.place, data := [],
      rmw := some {
        aop := if kind = .cas then 15 else k.aop
        operand := c.aVal k.w64 th w.b
        compare := if kind = .cas then c.aVal k.w64 th w.d else 0
        acquire := if k.ord % 2 = 1 then some k.scope else none } })

/-- Every lane's atomic, in home-lane order: at its slice or in scratch at once, on a chained page accepted for the head
of its flight. None while one of them has to wait. -/
def Ctx.atomics (c : Ctx) (w : RWord) (kind : AtomKind) : Option State :=
  let k := w.atomCtl
  let r := c.aReach w
  let gs := c.chainedGroups r
  let ns := [w.d.toNat, w.a.toNat, w.b.toNat]
  let ops := c.chainedOps gs (c.s.nextId + 1)
  let lanes : List Lane := r.parts.map (fun x =>
    { thread := x.1, place := x.2.2,
      va := if k.scr then (c.val x.1 w.a.toNat).setWidth 64 else c.pair x.1 w.a.toNat, rmw := x.2.2.chain.isSome,
      regs := if kind = .red then [] else c.regsOf w.d.toNat (if k.w64 then 2 else 1) x.1 })
  let word : CWord := { c.newWord w.f with size := if k.w64 then 8 else 4, lanes := lanes }
  let sts := c.acceptedAtomics w kind lanes ops (c.s.nextId + 1 + ops.length)
  let team (t : Team) : Team := c.finish (c.pop (c.raiseFor (c.raise t (c.flag w.f)) gs 3) ns) 1
  let s := if 2 ≤ k.ord then r.s.release c.tk c.act k.scope else r.s
  let s := (s.mapTeam c.tk team).addWord word
  let s := { s with ops := s.ops ++ ops, stores := s.stores ++ sts, nextId := s.nextId + ops.length + sts.length }
  let r := (lanes.filter (fun l => !l.rmw)).foldl (fun (acc : Option State) l =>
    acc.bind (fun s => s.atomicLane word.id 0 l (c.aNew w kind l.thread))) (some s)
  r.map (fun s => if k.ord % 2 = 1 then c.acquireAll s k.scope else s)

/-- ATOM, RED and CAS (R231, R232). -/
def atomicSpec (i : Instr) (op : Nat) (w : RWord) (kind : AtomKind) : WordSpec :=
  let k := w.atomCtl
  let width := if k.w64 then 2 else 1
  let dField := if kind = .red then [] else [fD w.d (if k.w64 then .dstPair else .vecOrUni)]
  let dTag := if kind = .cas then [(0, w.d.toNat, width)] else []
  { op := op, guard := w.guard, srcs := [w.d.toNat, w.a.toNat, w.b.toNat], form := fun _ => formOk i,
    fields := dField ++ [fA w.a (if k.scr then .src else .addr), fB w.b (if k.w64 then .pair else .src)],
    policy := fun c => c.scopeTrap k.scope,
    own := fun c =>
      match c.tagTrap (dTag ++ [(1, w.a.toNat, if k.scr then 1 else 2), (2, w.b.toNat, width)]) with
      | some x => some x
      | none => if 2 ≤ k.ord then c.releaseTrap else none,
    stall := fun c => c.flagFull (c.flag w.f) ||
      (2 ≤ k.ord && !c.act.isEmpty && c.releaseWaits c.act k.scope) || c.fullFor (c.aCounts w) 3 ||
      ((c.aReach w).bad.isEmpty && !c.act.isEmpty && (c.atomics w kind).isNone),
    access := fun c => c.verdict .atomic (c.aReach w), touch := fun c => (c.aReach w).s,
    flagged := some w.f, counts := fun c => some (3, c.aCounts w),
    run := fun c =>
      if c.act.isEmpty then c.s.mapTeam c.tk (fun t => c.finish t 1)
      else (c.atomics w kind).getD c.s }

def atomSpec (w : RWord) : WordSpec := atomicSpec (.atom w) 0x88 w .atom
def execAtom (w : RWord) (s : State) : Out := issue (atomSpec w) s

def redSpec (w : RWord) : WordSpec := atomicSpec (.red w) 0x89 w .red
def execRed (w : RWord) (s : State) : Out := issue (redSpec w) s

def casSpec (w : RWord) : WordSpec := atomicSpec (.cas w) 0x8A w .cas
def execCas (w : RWord) (s : State) : Out := issue (casSpec w) s

/-! ### Cache control (R243 to R245) -/

/-- PREF of one lane: the line enters the L2, and L1 for .l1, where nothing fails (R243). A chained page's line enters the L2
of the step that serves it alone (log 98). -/
def Ctx.prefetch (c : Ctx) (s : State) (th a hint : Nat) (l1 : Bool) : State :=
  let s := s.touchPage c.t.ctx c.t.vi a
  match s.reach c.t.ctx c.t.vi (coreDie (c.coreOf th)) .load (a / 128 * 128) 128 with
  | none => s
  | some p =>
    if !s.gateOpen c.t.vi p || s.poisoned (s.physOf p) then s
    else
      if l1 && p.chain.isNone then s.fillL1 (c.coreOf th) (lineOf (p.bytes.headD 0)) p.home hint
      else s.holdLines p hint

def prefSpec (w : RWord) : WordSpec :=
  { op := 0x98, guard := w.guard, srcs := [w.a.toNat], form := fun _ => formOk (.pref w),
    fields := [fA w.a .addr], own := fun c => c.tagTrap [(1, w.a.toNat, 2)],
    run := fun c => (c.act.foldl (fun s th =>
      c.prefetch s th (c.pair th w.a.toNat).toNat (fld w.c 1 0) (w.c.getLsbD 2)) c.s).mapTeam c.tk
        (fun t => c.finish t 1) }
def execPref (w : RWord) (s : State) : Out := issue (prefSpec w) s

/-- An address that lies on a T2 page whose checks up to step 5 of R122 pass (R244). -/
def State.onT2 (s : State) (ctx : DWord) (vi a : Nat) : Bool :=
  match s.leaf ctx a with
  | some e => a < 2 ^ 57 && pteV (s.pte e) && !s.pteReserved vi (s.pte e) && pteTier (s.pte e) = 2 && pteRd (s.pte e)
  | none => false

/-- The lanes of CFLUSH that act: those of a T2 page have no effect (R244). -/
def Ctx.flushLanes (c : Ctx) (w : RWord) : List Nat :=
  c.act.filter (fun th => !c.s.onT2 c.t.ctx c.t.vi (c.pair th w.a.toNat).toNat)

/-- The lines of CFLUSH, as places of 128 bytes. -/
def Ctx.flushReach (c : Ctx) (w : RWord) : Reached :=
  c.reachGlobal .load (c.flushLanes w) (fun th => (c.pair th w.a.toNat).toNat) (fun _ => 1)
    (fun th => [((c.pair th w.a.toNat).toNat / 128 * 128, 128)])

/-- Physical lines of a place: for a chained page, every step's copy. -/
def State.linesOf (s : State) (p : Place) : List Nat :=
  match p.chain with
  | none => sortUp (p.bytes.map lineOf)
  | some (f, e) => (s.flight f).stepList.filterMap (fun x =>
      (s.chainAddr (s.flight f) e x.2.1 (p.bytes.headD 0)).map lineOf)

/-- Whether a copy of a chained line is still dirty at some step (R102). -/
def State.chainBusy (s : State) (p : Place) : Bool :=
  match p.chain with
  | none => false
  | some (f, e) => s.chainDirty.any (fun x => x.2.1 = f && x.2.2.1 = e && x.2.2.2 = p.bytes.headD 0 / 128)

/-- The own stores of a lane to a line that a CFLUSH lets commit first. -/
def Ctx.flushStores (c : Ctx) (s : State) (th : Nat) (p : Place) : State :=
  s.commitAhead c.t (s.ownStores c.tk th c.s.nextId p)

/-- A line that a CFLUSH cannot write back yet: a chained line that is dirty (R102), or an own store to it that has
not committed. -/
def Ctx.flushWaits (c : Ctx) (th : Nat) (p : Place) : Bool :=
  c.s.gateOpen c.t.vi p && (c.s.chainBusy p || c.s.ownChained c.tk th c.s.nextId p ||
    !((c.flushStores c.s th p).ownStores c.tk th c.s.nextId p).isEmpty)

/-- CFLUSH (R244): the thread's own stores to the line come first; a chained line waits until it is clean. A poisoned line
is written back, or dropped, without a report (log 107). -/
def cflushSpec (w : RWord) : WordSpec :=
  { op := 0x99, guard := w.guard, srcs := [w.a.toNat], form := fun _ => formOk (.cflush w),
    fields := [fA w.a .addr], own := fun c => c.tagTrap [(1, w.a.toNat, 2)],
    stall := fun c => c.flagFull (c.flag w.f) || (c.flushReach w).parts.any (fun x => c.flushWaits x.1 x.2.2),
    access := fun c => c.verdict .load (c.flushReach w), touch := fun c => (c.flushReach w).s, flagged := some w.f,
    run := fun c =>
      let team (t : Team) : Team := c.finish (c.raise t (c.flag w.f)) 1
      if c.act.isEmpty then c.s.mapTeam c.tk team
      else
        let r := c.flushReach w
        let closed := r.parts.filter (fun x => !c.s.gateOpen c.t.vi x.2.2)
        let s := (r.s.mapTeam c.tk team).addWord { c.newWord w.f with
          lanes := closed.map (fun x => { thread := x.1, place := x.2.2, va := c.pair x.1 w.a.toNat, regs := [] : Lane }) }
        (r.parts.filter (fun x => c.s.gateOpen c.t.vi x.2.2)).foldl (fun s x =>
          (s.linesOf x.2.2).foldl (fun s l =>
            if w.m = 1 then (s.dropL2 l).dropAllL1 l else s.writeBack l) (c.flushStores s x.1 x.2.2)) s }
def execCflush (w : RWord) (s : State) : Out := issue (cflushSpec w) s

/-- CINV of one lane's line (R245): a lane whose translation fails is skipped. -/
def Ctx.cinvLine (c : Ctx) (s : State) (th a : Nat) : State :=
  if 2 ^ 57 ≤ a then s
  else
    match s.leaf c.t.ctx a with
    | none => s
    | some e =>
      let x := s.pte e
      if !pteV x || s.pteReserved c.t.vi x || pteTier x = 2 || pteClass x = 1 then s
      else s.dropL1 (c.coreOf th) (lineOf ((pagePlace 0 .load x a 1).bytes.headD 0))

def cinvSpec (w : RWord) : WordSpec :=
  let all := w.m = 1
  { op := 0x9A, guard := w.guard, srcs := if all then [] else [w.a.toNat], form := fun _ => formOk (.cinv w),
    fields := if all then [] else [fA w.a .addr],
    own := fun c => if all then none else c.tagTrap [(1, w.a.toNat, 2)],
    run := fun c =>
      let s := if c.act.isEmpty then c.s
        else if all then c.t.coreList.foldl State.clearL1 c.s
        else c.act.foldl (fun s th => c.cinvLine s th (c.pair th w.a.toNat).toNat) c.s
      s.mapTeam c.tk (fun t => c.finish t 1) }
def execCinv (w : RWord) (s : State) : Out := issue (cinvSpec w) s

/-! ### WMASK (R94, R246) -/

/-- Ways of a core that hold scratch, for a number of KiB (R92). -/
def scratchWays (kb : Nat) : Nat := (kb + 31) / 32

/-- A core whose sets keep to a number of ways: each set gives up its victims (R95). -/
def Core.trim (x : Core) (ways : Nat) : Core :=
  x.l1.foldl (fun (x : Core) l =>
    if (x.l1Set l.line).length ≤ ways then x
    else match victimOf ((x.l1Set l.line).map (fun l => (l.line, l.hint, l.used))) with
      | some v => { x with l1 := x.l1.filter (fun l => l.line ≠ v) }
      | none => x) x

/-- Copies lost with ways that scratch takes (R92): which ones the manual leaves open (log 13), and no set keeps more
than the ways that are left. -/
def State.loseWays (s : State) (c before after : Nat) : State :=
  if scratchWays after ≤ scratchWays before then s
  else
    let x := s.core c
    let kept : Core := { x with l1 := x.l1.filter (fun l => !Config.lostWithWay s.freeIx l.line) }
    { s.setCore c (kept.trim (16 - scratchWays after)) with freeIx := s.freeIx + 1 }

/-- Offset of a scratch address in its core's half (R93). -/
def Team.scratchOff (t : Team) (a : Nat) : Nat := if t.decl.pair then a % 2 ^ 20 else a

/-- A valid circular buffer with a byte in the units from `kb` on (R113). -/
def Team.bufferIn (t : Team) (kb : Nat) : Option Nat :=
  (upFrom 0 16).find? (fun i =>
    let x := Sparse.get t.cbufs {} i
    x.valid && kb * 1024 < t.scratchOff x.base + 128 * x.slotsz * x.nslot)

/-- Engine operations of a team that write scratch at or above an offset (R94). -/
def State.scratchOwed (s : State) (t : Team) (tk kb : Nat) : Bool :=
  let above (a n : Nat) : Bool := n != 0 && kb * 1024 < t.scratchOff a + n
  s.ops.any (fun o => o.team = tk && match o.kind with
    | .copy ls => ls.any (fun l => l.dstScratch && !l.complete && above l.dst.toNat l.count)
    | .view ps _ => ps.any (fun p => match p.row with
      | some r => above r ((if vOutfmt p.view.image = 0 then 2 else 4) * p.count)
      | none => false)
    | _ => false)

/-- Whether every core of the team has room for a new size (R94). -/
def State.scratchFits (s : State) (t : Team) (kb : Nat) : Bool :=
  t.coreList.all (fun c => s.scratchUsed c - t.scratchKB + kb ≤ 512)

/-- Sets the scratch size: returned units are zeroed, added ones read zero, ways change hands (R92, R94). -/
def State.setScratch (s : State) (tk : Nat) (t : Team) (kb : Nat) : State :=
  let s' := s.mapTeam tk (fun t =>
    let lo := 1024 * min kb t.scratchKB
    let hi := 1024 * max kb t.scratchKB
    let m := t.scratch.zero lo hi
    let m := if t.decl.pair then m.zero (2 ^ 20 + lo) (2 ^ 20 + hi) else m
    { t with scratch := m, scratchKB := kb, badScratch := t.badScratch.filter (fun l =>
        let a := l * 128 % 2 ^ 20
        !(lo ≤ a && a < hi)) })
  t.coreList.foldl (fun s' c => s'.loseWays c (s.scratchUsed c) (s'.scratchUsed c)) s'

/-- Every scratch access of a team is performed (step 2 of R94), also a store that waits behind a stranded one. -/
def State.performScratch (s : State) (tk : Nat) (threads : List Nat) : State :=
  let s := s.settleScratch tk threads
  ((s.stores.filter (fun st => st.team = tk && st.place.scratch)).map (·.id)).foldl State.pushStore s

/-- Whether a team's scratch has accesses that cannot be performed yet (R94). -/
def State.scratchBusy (s : State) (tk : Nat) (threads : List Nat) : Bool :=
  let s := s.performScratch tk threads
  s.owesScratch tk threads || s.stores.any (fun st => st.team = tk && st.place.scratch)

def wmaskSpec (w : RWord) : WordSpec :=
  let want (c : Ctx) : Nat := (c.val (c.act.headD 0) w.a.toNat).toNat
  let got (c : Ctx) : Nat :=
    if want c ≤ c.t.scratchKB || c.s.scratchFits c.t (want c) then want c else c.t.scratchKB
  let all (c : Ctx) : List Nat := upFrom 0 c.t.threads.length
  let ns := [w.a.toNat]
  { op := 0x9B, guard := w.guard, srcs := ns, dst := some w.d.toNat, form := fun _ => formOk (.wmask w),
    fields := [fD w.d .dst, fA w.a .src],
    own := fun c =>
      match tagsOf [(1, w.a)] c with
      | some i => some i
      | none =>
        match if c.dry ns then [] else c.act with
        | [] => none
        | th :: _ =>
          if 512 < want c then some (c.trapOn [th] 0x19)
          else
            match if want c < c.t.scratchKB then c.t.bufferIn (want c) else none with
            | some b => some (c.trap 0x1A (BitVec.ofNat 32 b))
            | none => c.writeTrap w.d.toNat (fun _ => ⟨BitVec.ofNat 32 (got c), false, 0⟩),
    stall := fun c => !c.act.isEmpty && want c < c.t.scratchKB &&
      (c.s.scratchOwed c.t c.tk (want c) || c.s.scratchBusy c.tk (all c)),
    run := fun c =>
      if c.act.isEmpty then c.s.mapTeam c.tk (fun t => c.finish t 1)
      else
        let s := if want c < c.t.scratchKB then c.s.performScratch c.tk (all c) else c.s
        (s.setScratch c.tk c.t (got c)).mapTeam c.tk (fun t =>
          c.finish (c.pop (c.write t w.d.toNat (fun _ => ⟨BitVec.ofNat 32 (got c), false, 0⟩)) ns) 1) }
def execWmask (w : RWord) (s : State) : Out := issue (wmaskSpec w) s

/-! ### Monitors (R247, R248) -/

/-- Arms a thread's monitor on a line that an address leads to (R247): its core tracks the line. -/
def State.arm (s : State) (tk : Nat) (t : Team) (thread : Nat) (va : DWord) (line : Nat) : State :=
  let core := t.coreOf (t.groupOf thread)
  let s := s.mapTeam tk (fun t => t.mapThread thread (fun x =>
    { x with monitor := some { line := line, page := va.toNat / 65536, written := false } }))
  let kept := (s.core core).tracked.filter (fun l => l = line || s.armedOn core l)
  s.track core (if kept.contains line then kept else kept ++ [line])

/-- The line a monitor is armed on. -/
def Place.monitorLine (p : Place) : Nat :=
  match p.chain with
  | some (f, e) => chainLine f e (p.bytes.headD 0 / 128)
  | none => lineOf (p.bytes.headD 0)

def Ctx.monReach (c : Ctx) (w : RWord) : Reached :=
  c.reachGlobal .load c.act (fun th => (c.pair th w.a.toNat).toNat) (fun _ => 4)
    (fun th => [((c.pair th w.a.toNat).toNat, 4)])

def monwSpec (w : RWord) : WordSpec :=
  { op := 0x9C, guard := w.guard, srcs := [w.a.toNat], form := fun _ => formOk (.monw w),
    fields := [fD w.d (.vec 1 1), fA w.a .addr], own := fun c => c.tagTrap [(1, w.a.toNat, 2)],
    stall := fun c => c.flagFull (c.flag w.f) || (c.monReach w).parts.any (fun x =>
      !c.s.takeReady c.t c.tk x.1 c.s.nextId x.2.2),
    access := fun c => c.verdict .load (c.monReach w), touch := fun c => (c.monReach w).s, flagged := some w.f,
    run := fun c =>
      let team (t : Team) : Team := c.finish (c.raise t (c.flag w.f)) 1
      if c.act.isEmpty then c.s.mapTeam c.tk team
      else
        let r := c.monReach w
        let word : CWord := { c.newWord w.f with
          size := 4,
          lanes := r.parts.map (fun x => { thread := x.1, place := x.2.2, va := c.pair x.1 w.a.toNat,
                                           regs := [w.d.toNat] : Lane }) }
        word.lanes.foldl (fun s l =>
          if s.gateOpen c.t.vi l.place then (s.arm c.tk c.t l.thread l.va l.place.monitorLine).takeNow word.id l true
          else s) ((r.s.mapTeam c.tk team).addWord word) }
def execMonw (w : RWord) (s : State) : Out := issue (monwSpec w) s

/-- The last cycle of the bound of a waiting word for a thread's group (R248, R252): counted on %cycle from its
issue. -/
def Ctx.boundOf (c : Ctx) (th : Nat) (n : BitVec 11) : Nat :=
  c.b.since.getD (c.s.cycle (c.coreOf (c.act.headD 0))) + (c.val th n.toNat).toNat

/-- Whether the bound has passed: what happens in its last cycle still counts, and a bound of 0 has passed at once. That of a
waiting word is its monitors', which a halt can put off (R308). -/
def Ctx.boundPassed (c : Ctx) (n : BitVec 11) : Bool :=
  if c.b.wait = .monitor then
    c.act.any (fun th => (((c.t.thread th).monitor.bind (·.until_)).map (fun u => decide (u < c.s.cycle (c.coreOf th)))).getD false)
  else c.val (c.act.headD 0) n.toNat = 0

/-- The status of a thread's wait (R248): none, woken, or, once the bound has passed, bound. -/
def Team.waitStatus (t : Team) (expired : Bool) (th : Nat) : Option Nat :=
  match (t.thread th).monitor with
  | none => some 2
  | some m => if m.written then some 0 else if expired then some 1 else none

/-- The status of a lane as the word writes it. -/
def Team.statusRes (t : Team) (expired : Bool) (th : Nat) : Res :=
  ⟨BitVec.ofNat 32 ((t.waitStatus expired th).getD 1), false, 0⟩

/-- Ends a WAITM for its lanes (R248): the statuses are written, the monitors disarmed. -/
def Ctx.endWaitm (c : Ctx) (t : Team) (d : Nat) (expired : Bool) (ports : List Nat) : Team :=
  let t' := c.write t d (t.statusRes expired)
  c.finish (c.pop (c.act.foldl (fun t th => t.mapThread th (fun x => { x with monitor := none })) t') ports) 1

/-- Begins a wait (R248): a lane without a monitor has its status at once, in a destination that takes lanes one by
one; the others count writes up to the bound. -/
def Ctx.beginWaitm (c : Ctx) (t : Team) (d until_ : Nat) : Team :=
  let early := c.act.filter (fun th => (t.thread th).monitor.isNone &&
    !(1024 ≤ d && d < 1040) && (!(768 ≤ d && d < 1024) || c.leader (c.t.groupOf th) = th))
  let t := { c with act := early }.write t d (t.statusRes false)
  c.act.foldl (fun t th => t.mapThread th (fun x =>
    { x with monitor := x.monitor.map (fun m => { m with until_ := some until_ }) })) t

def waitmSpec (w : RWord) : WordSpec :=
  let ns := [w.a.toNat]
  let expired (c : Ctx) : Bool := c.boundPassed w.a
  { op := 0x9D, guard := w.guard, srcs := ns, dst := some w.d.toNat, form := fun _ => formOk (.waitm w),
    fields := [fD w.d .dst, fA w.a .src], own := fun c => tagsOf [(1, w.a)] c,
    run := fun c =>
      if c.act.all (fun th => (c.t.waitStatus (expired c) th).isSome) then
        c.s.mapTeam c.tk (fun t => c.endWaitm t w.d.toNat (expired c) ns)
      else if c.b.wait = .monitor then c.s
      else c.s.mapTeam c.tk (fun t =>
        c.waitAt (c.beginWaitm t w.d.toNat (c.boundOf (c.act.headD 0) w.a)) .monitor ns) }
def execWaitm (w : RWord) (s : State) : Out := issue (waitmSpec w) s

end Sys2Proof.Machine
end

