-- ==== Sys2Proof/Machine/MemView.lean ====
section
/-!
DEFINITION. View words: LDV and LDVA (R235 to R238), VSET (R234), VPUB (R240), VINV (R241), VSTAT (R242), and the
pins that projections take (R123).
-/
namespace Sys2Proof.Machine

/-! ### Projections (R19, R235, R237) -/

/-- The lines of a record's parts, each as a physical line. -/
def State.recordLines (s : State) (ps : List Place) : List Nat :=
  ps.flatMap (fun p => sortUp ((s.servedAt p).map lineOf))

/-- The plinth beside the slice that holds a record's first line (R19, R90, R97): of a chained record, a slice of the step that
serves it, also where that step asks the tail (R344). -/
def State.firstPlinth (s : State) (ps : List Place) : Nat :=
  match ps with
  | [] => 0
  | p :: _ =>
    let a := ((p.bytes.head?).bind (s.stepAddr p)).getD 0
    if isT1 a then s.t1Plinth p.home a else t0Plinth a

/-- The bytes of LDVA's row (R237). -/
def rowBytes (v : View) : Nat := (if vOutfmt v.image = 0 then 2 else 4) * (vOutlen v.image - v.cstart)

/-- The lanes of a projected load, with the row checks of LDVA first. -/
def Ctx.viewReach (c : Ctx) (a : BitVec 11) (n : Nat) (row : Option (BitVec 11)) : Reached :=
  c.act.foldl (fun r th =>
    let v := c.view th n
    let va := (c.pair th a.toNat).toNat
    match row.bind (fun f => (c.t.scratchCheck ((c.val th f.toNat).toNat : Int) (rowBytes v) 16).map
        (fun cause => (cause, (c.val th f.toNat).setWidth 64))) with
    | some (cause, x) => { r with bad := r.bad ++ [(th, x, .trap cause)] }
    | none => c.reachOne .load r th va (recordAlign v.image) (pageParts va (recordBytes v.image)))
    ⟨c.s, [], []⟩

/-- The requests of a projected load. -/
def Ctx.projs (c : Ctx) (r : Reached) (n : Nat) (reg : Option Nat) (row : Option (BitVec 11)) :
    List Proj :=
  r.ok.map (fun x =>
    let th := x.1
    let v := c.view th n
    { thread := th, view := v, viewReg := n,
      plinth := r.s.servingPlinth v.image c.t.vi (r.s.firstPlinth x.2),
      places := x.2, pins := (r.s.recordLines x.2).map (fun l => pinId c.t.vi (l * 128)),
      cstart := v.cstart,
      count := match row with
        | some _ => vOutlen v.image - v.cstart
        | none => min (vOutlen v.image - v.cstart) (if vOutfmt v.image = 0 then 32 else 16),
      reg := reg, row := row.map (fun f => (c.val th f.toNat).toNat) })

/-- All pins of some requests. -/
def projPins (ps : List Proj) : List Nat := ps.flatMap (·.pins)

/-- LDV (R235). -/
def ldvSpec (w : MWord) : WordSpec :=
  let n := w.xf.toNat
  let reach (c : Ctx) : Reached := c.viewReach w.a n none
  { op := 0x80, guard := w.guard, srcs := [w.a.toNat], form := fun _ => formOk (.ldv w),
    fields := [fD w.d (.vec 1 16), fA w.a .addr, ⟨5, n, .view⟩],
    own := fun c =>
      match c.viewTrap c.act n 0 with
      | some i => some i
      | none => c.tagTrap [(1, w.a.toNat, 2)],
    stall := fun c => c.flagFull (c.flag w.f) ||
      c.s.pinFull (projPins (c.projs (reach c) n (some w.d.toNat) none)),
    access := fun c => c.verdict .load (reach c), touch := fun c => (reach c).s, flagged := some w.f,
    run := fun c =>
      let team (t : Team) : Team := c.finish (c.raise t (c.flag w.f)) 1
      if c.act.isEmpty then c.s.mapTeam c.tk team
      else
        let r := reach c
        let ps := c.projs r n (some w.d.toNat) none
        ((r.s.pin (projPins ps)).mapTeam c.tk team).addWord
          { c.newWord w.f with hint := w.hint.toNat, projs := ps } }
def execLdv (w : MWord) (s : State) : Out := issue (ldvSpec w) s

/-- LDVA (R237). -/
def ldvaSpec (w : RWord) : WordSpec :=
  let n := w.b.toNat
  let ns := [w.a.toNat, w.c.toNat]
  let reach (c : Ctx) : Reached := c.viewReach w.a n (some w.c)
  { op := 0x90, guard := w.guard, srcs := ns, form := fun _ => formOk (.ldva w),
    fields := [fD w.d (.vec 1 1), fA w.a .addr, fB w.b .view, fC w.c .src],
    own := fun c =>
      match c.viewTrap c.act n 0 with
      | some i => some i
      | none => c.tagTrap [(1, w.a.toNat, 2), (3, w.c.toNat, 1)],
    stall := fun c => c.counterFull 1 || c.s.pinFull (projPins (c.projs (reach c) n none (some w.c))),
    access := fun c => c.verdict .load (reach c), touch := fun c => (reach c).s,
    counts := fun c => some (1, c.groups),
    run := fun c =>
      let r := reach c
      let ps := c.projs r n none (some w.c)
      let ops : List Op := c.groups.zipIdx.map (fun x =>
        let mine := ps.filter (fun p => c.t.groupOf p.thread = x.1)
        { id := r.s.nextId + x.2, team := c.tk, group := x.1, cls := 1, clause := c.b.pc, widx := c.b.widx,
          hint := w.m.toNat,
          kind := .view mine (mine.map (fun p => { thread := p.thread, reg := w.d.toNat,
                                                   value := BitVec.ofNat 32 (rowBytes p.view) : RegWrite })) })
      let s := (r.s.pin (projPins ps)).mapTeam c.tk (fun t =>
        c.finish (c.pop (c.raiseFor t c.groups 1) ns) 1)
      { s with ops := s.ops ++ ops, nextId := s.nextId + ops.length } }
def execLdva (w : RWord) (s : State) : Out := issue (ldvaSpec w) s

/-! ### VSET (R233, R234) -/

/-- Bytes of a view's matrix (R135). -/
def matrixSize (x : BitVec 512) : Nat := vOutlen x * packedBytes (vMatfmt x) (vInlen x)

/-- VSET of the group that a lane leads (R234): the state with demand pages mapped, and the image, the asynchronous fault of
a descriptor that cannot be read, or the first check that fails, with its address: 0x0B stands for a descriptor that breaks
R136. -/
def Ctx.vsetLane (c : Ctx) (s : State) (w : RWord) (th : Nat) :
    State × Except (Nat × Check) (Except TrapInfo (BitVec 512)) :=
  let a := (c.pair th w.a.toNat).toNat
  let die := coreDie (c.coreOf th)
  let broken (cause : BitVec 8) (x : Nat) (code : Word) : Except (Nat × Check) (Except TrapInfo (BitVec 512)) :=
    .ok (.error (asyncInfo cause (c.t.mask [th]) x code c.b.pc c.b.widx))
  if a % 64 ≠ 0 then (s, .error (a, .trap 0x14))
  else
    match s.reachParts c.t.ctx c.t.vi die .load [(a, 64)] with
    | .error (x, o, s) => (s, .error (x, o))
    | .ok (ps, s) =>
      let p := ps.headD { scratch := false, bytes := [] }
      match s.closedPart c.t.vi p, s.spoiltAt c.t p with
      | some q, _ => (s, broken 0x16 a (BitVec.ofNat 32 q))
      | none, some x => (s, broken 0x30 x 0)
      | none, none =>
        let s := s.settlePlace c.tk th s.nextId p
        let x : BitVec 512 := BitVec.ofNat 512 (s.laneValue c.t c.tk s.nextId
          { thread := th, place := p, va := BitVec.ofNat 64 a, regs := [] } false)
        if !viewOk x || vOutlen x ≤ fld w.c 7 0 then (s, .error (a, .trap 0x0B))
        else
          match s.reachParts c.t.ctx c.t.vi die .load (pageParts (vMatva x) (matrixSize x)) with
          | .error (y, o, s) => (s, .error (y, o))
          | .ok (_, s) => (s, .ok (.ok x))

/-- The outcome of the groups' checks (R227): that of the lowest failing lane. -/
def Ctx.vsetVerdict (c : Ctx) (s : State) (w : RWord) (bad : List (Nat × DWord × Check)) : Verdict :=
  match bad with
  | (_, a, .trap 0x0B) :: _ => .trap (c.trap 0x0B (BitVec.ofNat 32 w.b.toNat) a)
  | _ => c.verdict .load ⟨s, [], bad⟩

/-- VSET of every group with an active lane, by the lane that leads it, in home-lane order. -/
def Ctx.vsetAll (c : Ctx) (w : RWord) :
    Except (Verdict × State) (State × List (Nat × Except TrapInfo (BitVec 512))) :=
  let leaders := sortByKey c.t.laneOf (c.groups.map c.leader)
  let r := leaders.foldl (fun (acc : State × List (Nat × DWord × Check) × List (Nat × Except TrapInfo (BitVec 512))) th =>
    match c.vsetLane acc.1 w th with
    | (s, .error (x, o)) => (s, acc.2.1 ++ [(th, BitVec.ofNat 64 x, o)], acc.2.2)
    | (s, .ok x) => (s, acc.2.1, acc.2.2 ++ [(c.t.groupOf th, x)])) (c.s, [], [])
  if r.2.1.isEmpty then .ok (r.1, r.2.2) else .error (c.vsetVerdict r.1 w r.2.1, r.1)

/-- The view register that VSET fills (R233). -/
def capturedView (x : BitVec 512) (a : DWord) (cstart : Nat) : View :=
  { image := a ++ x.setWidth 448, gen := BitVec.ofNat 32 (vGen x), fourth := BitVec.ofNat 32 (cstart * 256 + 1) }

/-- A VSET fills a view register whole: an error in it is gone (R103). -/
def Group.setView (g : Group) (n : Nat) (v : View) : Group :=
  { g with views := Sparse.put g.views {} n v, bad := g.bad.filter (· ≠ n + 2048) }

def vsetSpec (w : RWord) : WordSpec :=
  { op := 0x91, guard := w.guard, srcs := [w.a.toNat], form := fun _ => formOk (.vset w),
    fields := [fA w.a .addr, fB w.b .view], own := fun c => c.tagTrap [(1, w.a.toNat, 2)],
    stall := fun c => c.groups.any (fun g =>
      let th := c.leader g
      let a := (c.pair th w.a.toNat).toNat
      match (c.s.touchPage c.t.ctx c.t.vi a).reach c.t.ctx c.t.vi (coreDie (c.coreOf th)) .load a 64 with
      | some p => !c.s.takeReady c.t c.tk th c.s.nextId p
      | none => false),
    access := fun c => match c.vsetAll w with
      | .error e => e.1
      | .ok _ => .pass,
    touch := fun c => match c.vsetAll w with
      | .error e => e.2
      | .ok x => x.1,
    run := fun c =>
      match c.vsetAll w with
      | .error _ => c.s
      | .ok (s, l) =>
        let s := l.foldl (fun s x => match x.2 with
          | .error i => s.report c.tk x.1 i
          | .ok img => s.mapTeam c.tk (fun t => t.mapGroup x.1 (fun g => g.setView w.b.toNat
              (capturedView img (c.pair (c.leader x.1) w.a.toNat) (fld w.c 7 0))))) s
        (c.acquireAll s 3).mapTeam c.tk (fun t => c.finish t 1) }
def execVset (w : RWord) (s : State) : Out := issue (vsetSpec w) s

/-! ### VPUB, VINV and VSTAT (R240 to R242) -/

/-- Plinths of the effective placement on every die (R136). -/
def State.placement (s : State) (x : BitVec 512) (vi : Nat) : List Nat := (upFrom 0 256).filter (s.placed x vi)

/-- GEN of the descriptors of the groups' views; where one is at fault, MASK names its group's lowest active lane (log 18). -/
def Ctx.genReach (c : Ctx) (n : Nat) : Reached :=
  c.reachGlobal .atomic (c.groups.map c.leader) (fun th => vDesc (c.view th n).image + 24) (fun _ => 4)
    (fun th => [(vDesc (c.view th n).image + 24, 4)])

/-- VPUB of every group (R240): the releases and the increments, with each group's new GEN. None while one of them
waits. -/
def Ctx.publish (c : Ctx) (w : RWord) : Option (State × List (Nat × Word)) :=
  let n := w.b.toNat
  let r := c.genReach n
  let word : CWord := { c.newWord w.f with
    lanes := r.parts.map (fun x => { thread := x.1, place := x.2.2, regs := [],
                                     va := BitVec.ofNat 64 (vDesc (c.view x.1 n).image + 24) : Lane }) }
  let s := r.s.release c.tk (c.t.threadsOfAll c.groups) 4
  let s := (s.mapTeam c.tk (fun t => c.finish (c.raise t (c.flag w.f)) 1)).addWord word
  let s := word.lanes.foldl (fun (acc : Option State) l =>
    match acc with
    | none => none
    | some s => s.atomicLane word.id 0 l (fun old => some ((old + 1) % 2 ^ 32))) (some s)
  s.map (fun s => (s, match s.word word.id with
    | none => []
    | some w' => w'.lanes.filterMap (fun l => l.taken.map (fun old =>
        (c.t.groupOf l.thread, BitVec.ofNat 32 (old + 1))))))

/-- The new GEN of a thread's group. -/
def genOf (gens : List (Nat × Word)) (g : Nat) : Word := ((gens.find? (fun x => x.1 = g)).map (·.2)).getD 0

/-- Steps 3 to 5 of R240: D, and the markings on their way to the plinths. -/
def Ctx.vpub (c : Ctx) (w : RWord) : Option State :=
  (c.publish w).map (fun x =>
    let marks := x.2.map (fun y =>
      let v := c.view (c.leader y.1) w.b.toNat
      { plinths := x.1.placement v.image c.t.vi, desc := BitVec.ofNat 64 (vDesc v.image), keep := some y.2,
        arrays := true, matva := BitVec.ofNat 64 (vMatva v.image), bytes := matrixSize v.image : Marking })
    let c' := { c with act := c.act.filter (fun th => x.2.any (fun y => y.1 = c.t.groupOf th)) }
    let s := match x.1.word c.s.nextId with
      | some w' => x.1.setWord { w' with markings := marks }
      | none => x.1
    s.mapTeam c.tk (fun t => c'.write t w.d.toNat (fun th => ⟨genOf x.2 (c.t.groupOf th), false, 0⟩)))

def vpubSpec (w : RWord) : WordSpec :=
  { op := 0x92, guard := w.guard, dst := some w.d.toNat, form := fun _ => formOk (.vpub w),
    fields := [fD w.d .dst, fB w.b .view],
    own := fun c =>
      match c.viewTrap c.act w.b.toNat 0 with
      | some i => some i
      | none =>
        match c.releaseTrap with
        | some i => some i
        | none => match c.publish w with
          | some x => c.writeTrap w.d.toNat (fun th => ⟨genOf x.2 (c.t.groupOf th), false, 0⟩)
          | none => none,
    stall := fun c => c.flagFull (c.flag w.f) ||
      (!c.act.isEmpty && c.releaseWaits (c.t.threadsOfAll c.groups) 4) ||
      ((c.genReach w.b.toNat).bad.isEmpty && !c.act.isEmpty && (c.vpub w).isNone),
    access := fun c => c.verdict .atomic (c.genReach w.b.toNat), touch := fun c => (c.genReach w.b.toNat).s,
    flagged := some w.f,
    run := fun c =>
      if c.act.isEmpty then c.s.mapTeam c.tk (fun t => c.finish t 1)
      else (c.vpub w).getD c.s }
def execVpub (w : RWord) (s : State) : Out := issue (vpubSpec w) s

def vinvSpec (w : RWord) : WordSpec :=
  { op := 0x93, guard := w.guard, form := fun _ => formOk (.vinv w), fields := [fB w.b .view],
    own := fun c => c.viewTrap c.act w.b.toNat 0,
    stall := fun c => c.flagFull (c.flag w.f),
    run := fun c =>
      let s := c.s.mapTeam c.tk (fun t => c.finish (c.raise t (c.flag w.f)) 1)
      if c.act.isEmpty then s
      else s.addWord { c.newWord w.f with
        markings := c.groups.map (fun g =>
          let v := c.view (c.leader g) w.b.toNat
          { plinths := c.s.placement v.image c.t.vi, desc := BitVec.ofNat 64 (vDesc v.image), keep := none,
            arrays := w.m = 1, matva := BitVec.ofNat 64 (vMatva v.image), bytes := matrixSize v.image : Marking }) } }
def execVinv (w : RWord) (s : State) : Out := issue (vinvSpec w) s

/-- Plinths of a core's partition (R12). -/
def corePlinths (core : Nat) : List Nat := upFrom (corePart core * 8) 8

/-- VSTAT (R242). -/
def Ctx.vstat (c : Ctx) (n : Nat) (gen : Bool) (th : Nat) : Word :=
  let v := c.view th n
  if gen then v.gen
  else
    let ps := corePlinths (c.coreOf th)
    let prog := ps.any (fun p => (arrayKeys p).any (fun k =>
      (c.s.array k).ast = 1 && (c.s.array k).desc.toNat = vDesc v.image))
    let resid := ps.any (fun p => c.s.placed v.image c.t.vi p && v.valid && c.s.resident p v)
    BitVec.ofNat 32 (v.cstart * 256 + (if prog then 4 else 0) + (if resid then 2 else 0) + (if v.valid then 1 else 0))

def vstatSpec (w : RWord) : WordSpec :=
  genSpec (.vstat w) 0x94 w.guard w.d [] [fD w.d .dst, fB w.b .view] noOwn
    (fun c th => ⟨c.vstat w.b.toNat (w.m = 1) th, false, 0⟩)
def execVstat (w : RWord) (s : State) : Out := issue (vstatSpec w) s

end Sys2Proof.Machine
end

