-- ==== Sys2Proof/Machine/Engine.lean ====
section
/-!
DEFINITION. Engine words: copies (R256, R257), circular buffers (R112, R113, R258), QLEN (R259), and crossbar
commands (R100, R260, R261).
-/
namespace Sys2Proof.Machine

/-! ### Copies (R256, R257) -/

/-- The value of an address operand: a pair, or a scratch address. -/
def Ctx.sideAddr (c : Ctx) (scratch : Bool) (th : Nat) (n : BitVec 11) : DWord :=
  if scratch then (c.val th n.toNat).setWidth 64 else c.pair th n.toNat

/-- The alignment and bounds of one side of a lane's copy (R256): cause and address. -/
def Ctx.sideTrap (c : Ctx) (sides : List (Bool × DWord)) (n : Nat) : Option (BitVec 8 × DWord) :=
  match sides.find? (fun x => x.2.toNat % 16 ≠ 0) with
  | some x => some (0x14, x.2)
  | none =>
    match sides.find? (fun x => x.1 && !c.t.scratchOk x.2.toNat n) with
    | some x => some (0x19, x.2)
    | none => none

/-- The trap of the lowest failing lane; a record of a lane's address names every failing lane. -/
def Ctx.laneTrap (c : Ctx) (f : Nat → Option (BitVec 8 × DWord)) (code : BitVec 8 → Word) : Option TrapInfo :=
  match c.act.filter (fun th => (f th).isSome) with
  | [] => none
  | th :: rest =>
    match f th with
    | some (cause, a) =>
      some (c.trapOn (if cause = 0x14 || cause = 0x19 then th :: rest else c.act) cause (code cause) a)
    | none => none

/-- A side of a lane's copy whose address has its value (R179). -/
def Ctx.sideOf (c : Ctx) (scratch : Bool) (th : Nat) (n : BitVec 11) : List (Bool × DWord) :=
  if c.has n then [(scratch, c.sideAddr scratch th n)] else []

/-- The count of a lane's copy: nothing yet where its queue port holds no entry. -/
def Ctx.countOf (c : Ctx) (th : Nat) (n : BitVec 11) : Nat := if c.has n then (c.val th n.toNat).toNat else 0

/-- The shape of one side. -/
def sideShape (scratch : Bool) : Shape := if scratch then .src else .addr

/-- CPY (R256). -/
def cpySpec (w : RWord) : WordSpec :=
  let ss := w.m.getLsbD 0
  let ds := w.m.getLsbD 1
  let ns := [w.a.toNat, w.b.toNat, w.c.toNat]
  { op := 0xC0, guard := w.guard, srcs := ns, form := fun _ => formOk (.cpy w),
    fields := [fA w.a (sideShape ss), fB w.b (sideShape ds), fC w.c .src],
    own := fun c =>
      match c.tagTrap [(1, w.a.toNat, if ss then 1 else 2), (2, w.b.toNat, if ds then 1 else 2),
        (3, w.c.toNat, 1)] with
      | some i => some i
      | none => c.laneTrap (fun th =>
          let n := c.countOf th w.c
          if n % 16 ≠ 0 || 2 ^ 24 < n then some (0x01, 0)
          else c.sideTrap (c.sideOf ss th w.a ++ c.sideOf ds th w.b) n) (fun _ => 0),
    stall := fun c => c.counterFull 0,
    run := fun c =>
      let ops : List Op := c.groups.zipIdx.map (fun x =>
        { id := c.s.nextId + x.2, team := c.tk, group := x.1, cls := 0, clause := c.b.pc, widx := c.b.widx,
          hint := fld w.d 1 0,
          kind := .copy ((c.actOf x.1).map (fun th =>
            { thread := th, src := c.sideAddr ss th w.a, srcScratch := ss, dst := c.sideAddr ds th w.b,
              dstScratch := ds, count := (c.val th w.c.toNat).toNat : CopyLane })) })
      let s := c.s.mapTeam c.tk (fun t =>
        c.finish (c.pop (c.groups.foldl (fun t g => t.raiseCounter g 0) t) ns) 1)
      { s with ops := s.ops ++ ops, nextId := s.nextId + ops.length } }
def execCpy (w : RWord) (s : State) : Out := issue (cpySpec w) s

/-- A circular buffer of the team. -/
def Team.cbuf (t : Team) (i : Nat) : CBuf := Sparse.get t.cbufs {} i

def Team.setCbuf (t : Team) (i : Nat) (x : CBuf) : Team := { t with cbufs := Sparse.put t.cbufs {} i x }

/-- Free slots (R112). -/
def CBuf.free (x : CBuf) : Nat := x.nslot - x.resv - x.filled - x.acq

/-- Scratch address of a slot (R112). -/
def CBuf.slotAt (x : CBuf) (i : Nat) : Nat := x.base + 128 * x.slotsz * i

/-- The misuse trap of a buffer (R113). -/
def Ctx.bufTrap (c : Ctx) (i : Nat) : TrapInfo := c.trap 0x1A (BitVec.ofNat 32 i)

/-- CPYC (R257): the slots are reserved by the engine. -/
def cpycSpec (w : RWord) : WordSpec :=
  let ss := w.m.getLsbD 0
  let buf := fld w.b 3 0
  let ns := [w.a.toNat, w.c.toNat]
  { op := 0xC1, guard := w.guard, srcs := ns, form := fun _ => formOk (.cpyc w),
    fields := [fA w.a (sideShape ss), fC w.c .src],
    own := fun c =>
      match c.tagTrap [(1, w.a.toNat, if ss then 1 else 2), (3, w.c.toNat, 1)] with
      | some i => some i
      | none =>
        if c.act.isEmpty then none
        else if !(c.t.cbuf buf).valid then some (c.bufTrap buf)
        else c.laneTrap (fun th =>
          let n := c.countOf th w.c
          if c.has w.c && n = 0 || n % 16 ≠ 0 || 128 * (c.t.cbuf buf).slotsz < n then some (0x1A, 0)
          else c.sideTrap (c.sideOf ss th w.a) n)
          (fun cause => if cause = 0x1A then BitVec.ofNat 32 buf else 0),
    stall := fun c => c.counterFull 0,
    run := fun c =>
      let ops : List Op := c.groups.zipIdx.map (fun x =>
        { id := c.s.nextId + x.2, team := c.tk, group := x.1, cls := 0, clause := c.b.pc, widx := c.b.widx,
          hint := fld w.d 1 0,
          kind := .cpyc buf ((c.actOf x.1).map (fun th =>
            { thread := th, src := c.sideAddr ss th w.a, srcScratch := ss, dst := 0, dstScratch := true,
              count := (c.val th w.c.toNat).toNat : CopyLane })) })
      let s := c.s.mapTeam c.tk (fun t =>
        c.finish (c.pop (c.groups.foldl (fun t g => t.raiseCounter g 0) t) ns) 1)
      { s with ops := s.ops ++ ops, nextId := s.nextId + ops.length } }
def execCpyc (w : RWord) (s : State) : Out := issue (cpycSpec w) s

/-! ### Circular buffers (R113, R258) -/

/-- Base and sizes of a group's CBDEF (R258); an operand whose queue port is empty fails no check (R179). -/
def Ctx.cbdefBase (c : Ctx) (w : RWord) (g : Nat) : Nat :=
  if c.has w.a then (c.val (c.leader g) w.a.toNat).toNat else 0
def Ctx.cbdefSizes (c : Ctx) (w : RWord) (g : Nat) : Word := if c.has w.c then c.val (c.leader g) w.c.toNat else 0

/-- Whether a group's base is at fault: it is no multiple of 128, or its slots do not lie within S (R113, R258). -/
def Ctx.cbdefFails (c : Ctx) (w : RWord) (g : Nat) : Bool :=
  decide (c.cbdefBase w g % 128 ≠ 0) ||
    !c.t.scratchOk (c.cbdefBase w g) (128 * fld (c.cbdefSizes w g) 8 0 * fld (c.cbdefSizes w g) 15 9)

/-- CBDEF of one group: the trap, or the record (R113). The lanes that MASK names for a base are those that supply one that
is at fault (log 18). -/
def Ctx.cbdefOf (c : Ctx) (w : RWord) (t : Team) (g : Nat) : Except TrapInfo Team :=
  let i := fld w.b 3 0
  let base := c.cbdefBase w g
  let slotsz := fld (c.cbdefSizes w g) 8 0
  let nslot := fld (c.cbdefSizes w g) 15 9
  let old := t.cbuf i
  let trap (cause : BitVec 8) : TrapInfo :=
    c.trapOn ((c.groups.filter (c.cbdefFails w)).map c.leader) cause 0 ((c.shown (c.leader g) w.a).setWidth 64)
  if base % 128 ≠ 0 then .error (trap 0x14)
  else if c.has w.c && (slotsz = 0 || nslot = 0 || 64 < nslot) then .error (c.bufTrap i)
  else if !t.scratchOk base (128 * slotsz * nslot) then .error (trap 0x19)
  else if old.valid && (old.resv != 0 || old.filled != 0 || old.acq != 0) then .error (c.bufTrap i)
  else .ok (t.setCbuf i { valid := true, nslot := nslot, slotsz := slotsz, base := base })

/-- CBDEF of every group with an active lane. -/
def Ctx.cbdefAll (c : Ctx) (w : RWord) (t : Team) : Except TrapInfo Team :=
  c.groups.foldl (fun acc g => match acc with
    | .error e => .error e
    | .ok t => c.cbdefOf w t g) (.ok t)

def cbdefSpec (w : RWord) : WordSpec :=
  let ns := [w.a.toNat, w.c.toNat]
  { op := 0xC2, guard := w.guard, srcs := ns, form := fun _ => formOk (.cbdef w),
    fields := [fA w.a .src, fC w.c .src],
    own := fun c =>
      match tagsOf [(1, w.a), (3, w.c)] c with
      | some i => some i
      | none => match c.cbdefAll w c.t with
        | .error e => some e
        | .ok _ => none,
    run := fun c => c.s.mapTeam c.tk (fun t => match c.cbdefAll w t with
      | .error _ => t
      | .ok t => c.finish (c.pop t ns) 1) }
def execCbdef (w : RWord) (s : State) : Out := issue (cbdefSpec w) s

/-- One group's acquire (R113): the slot at RIX, where one is filled and every group before it has its own. -/
def CBuf.acquire (x : CBuf) : CBuf :=
  { x with rix := (x.rix + 1) % x.nslot, filled := x.filled - 1, acq := x.acq + 1 }

/-- The groups of a CBACQ that have a slot now, in %grp order, each with its address, and the buffer after it (R113). -/
def Ctx.acquired (c : Ctx) (i : Nat) : List (Nat × Nat) × CBuf :=
  c.groups.foldl (fun acc g =>
    if acc.1.any (fun y => y.1 = g) || acc.2.filled = 0 then acc
    else (acc.1 ++ [(g, acc.2.slotAt acc.2.rix)], acc.2.acquire)) (c.b.slots, c.t.cbuf i)

/-- The slot of a group among those acquired. -/
def slotOf (l : List (Nat × Nat)) (g : Nat) : Nat := ((l.find? (fun y => y.1 = g)).map (·.2)).getD 0

/-- CBACQ (R113, R258): a group keeps its slot while the word waits for the others'. -/
def cbacqSpec (w : RWord) : WordSpec :=
  let i := fld w.b 3 0
  let res (c : Ctx) (th : Nat) : Res := ⟨BitVec.ofNat 32 (slotOf (c.acquired i).1 (c.t.groupOf th)), false, 0⟩
  { op := 0xC3, guard := w.guard, dst := some w.d.toNat, form := fun _ => formOk (.cbacq w),
    fields := [fD w.d .dst],
    own := fun c =>
      if c.act.isEmpty then none
      else if !(c.t.cbuf i).valid then some (c.bufTrap i)
      else c.writeTrap w.d.toNat (res c),
    run := fun c => c.s.mapTeam c.tk (fun t =>
      if c.act.isEmpty then c.finish t 1
      else
        let (l, x) := c.acquired i
        if l.length < c.groups.length then
          (t.setCbuf i x).mapBundle c.bi (fun b => { b with wait := .stalled, slots := l })
        else c.finish ((c.write t w.d.toNat (res c)).setCbuf i x) 1) }
def execCbacq (w : RWord) (s : State) : Out := issue (cbacqSpec w) s

/-- CBREL (R113, R258): a release at .team. -/
def cbrelSpec (w : RWord) : WordSpec :=
  let i := fld w.b 3 0
  { op := 0xC4, guard := w.guard, form := fun _ => formOk (.cbrel w),
    own := fun c =>
      if c.act.isEmpty then none
      else if !(c.t.cbuf i).valid || (c.t.cbuf i).acq < c.groups.length then some (c.bufTrap i)
      else c.releaseTrap,
    stall := fun c => !c.act.isEmpty && c.releaseWaits (c.t.threadsOfAll c.groups) 1,
    run := fun c =>
      let s := if c.act.isEmpty then c.s else c.s.release c.tk (c.t.threadsOfAll c.groups) 1
      s.mapTeam c.tk (fun t =>
        let x := t.cbuf i
        c.finish (if c.act.isEmpty then t else t.setCbuf i { x with acq := x.acq - c.groups.length }) 1) }
def execCbrel (w : RWord) (s : State) : Out := issue (cbrelSpec w) s

/-- QLEN (R259). -/
def Ctx.qlen (c : Ctx) (n : Nat) (queue : Bool) (th : Nat) : Word :=
  if !queue then
    let x := c.t.cbuf n
    BitVec.ofNat 32 ((if x.valid then 2 ^ 28 else 0) + x.resv % 128 * 2 ^ 21 + x.acq % 128 * 2 ^ 14 +
      x.filled % 128 * 2 ^ 7 + x.free % 128)
  else if n < 16 then BitVec.ofNat 32 (c.t.pipe n).length
  else if n = 16 then BitVec.ofNat 32 c.t.notices.length
  else BitVec.ofNat 32 (c.t.replies.filter (fun r => r.1 = n && r.2.1 = c.t.groupOf th)).length

def qlenSpec (w : RWord) : WordSpec :=
  let queue := w.m = 1
  genSpec (.qlen w) 0xC5 w.guard w.d [] ([fD w.d .dst] ++ if queue then [fB w.b .port] else []) noOwn
    (fun c th => ⟨c.qlen w.b.toNat queue th, false, 0⟩)
def execQlen (w : RWord) (s : State) : Out := issue (qlenSpec w) s

/-! ### Crossbar commands (R100, R260, R350) -/

/-- Arrays of a plinth that hold a view at its generation in any of some states. -/
def State.arraysOf (s : State) (plinth : Nat) (v : View) (asts : List Nat) : List Nat :=
  asts.flatMap (s.viewArrays plinth (vDesc v.image) v.gen)

/-- Views resident at a plinth for a virtual interface, but for one view: descriptor and generation, with the step of
last use. -/
def State.residents (s : State) (plinth vi : Nat) (v : View) : List (DWord × Word × Nat) :=
  (arrayKeys plinth).filterMap (fun k =>
    let a := s.array k
    if a.ast = 2 && a.vi = vi && !(a.desc.toNat = vDesc v.image && a.gen = v.gen) then some (a.desc, a.gen, a.used)
    else none)

/-- Free arrays of a plinth. -/
def State.freeArrays (s : State) (plinth : Nat) : List Nat :=
  (arrayKeys plinth).filter (fun k => (s.array k).ast = 0)

/-- Evicts least recently used resident views of a virtual interface, but for the one to program, until enough arrays
are free, or none is left (R100). -/
def State.evictViews (s : State) (plinth vi : Nat) (v : View) (need : Nat) (fuel : Nat) : State :=
  match fuel with
  | 0 => s
  | fuel + 1 =>
    if need ≤ (s.freeArrays plinth).length then s
    else
      match (sortByKey (fun x => x.2.2) (s.residents plinth vi v)).head? with
      | none => s
      | some (desc, gen, _) =>
        (s.eraseArrays ((arrayKeys plinth).filter (fun k =>
          (s.array k).desc = desc && (s.array k).gen = gen && (s.array k).ast = 2 && (s.array k).vi = vi)) 0).evictViews
          plinth vi v need fuel

/-- Starts programming arrays of a plinth with a view (R100, R137, R350). -/
def State.program (s : State) (keys : List Nat) (v : View) (ctx : DWord) (vi plinth : Nat) : State :=
  let cols := (vOutlen v.image + 127) / 128
  let s := keys.zipIdx.foldl (fun s x =>
    let a := s.array x.1
    s.setArray x.1 { a with
      desc := BitVec.ofNat 64 (vDesc v.image), gen := v.gen, progs := a.progs + 1, ast := 1,
      iblk := x.2 / cols, cblk := x.2 % cols, ctx := ctx, vi := vi, used := s.now }) s
  s.writeRes ctx vi (plinth / 32) (vDesc v.image) (232 + plinth / 32) true

/-- XPROG reaching one plinth: the plinth has finished with a status, or is programming (R260). Arrays that hold the view
already, where some of its own were retired or they drift, are programmed with it again, and the missing ones join them
(R100). -/
def State.xprogAt (s : State) (t : Team) (v : View) (plinth : Nat) : Option Nat × State :=
  let held := s.arraysOf plinth v [1, 2, 3]
  let need := arraysNeeded v.image
  if s.resident plinth v then (some 1, s)
  else if need ≤ held.length && !(s.arraysOf plinth v [1]).isEmpty then (none, s)
  else
    let s := s.evictViews plinth t.vi v (need - held.length) 64
    let keys := (held ++ s.freeArrays plinth).take need
    if keys.length < need then (some 2, s) else (none, s.program keys v t.ctx t.vi plinth)

/-- XPROG of one group (R260): its operation. MODE 00 comes before an empty placement (log 99). -/
def Ctx.xprogOf (c : Ctx) (s : State) (w : RWord) (g : Nat) : State :=
  let v := c.view (c.leader g) w.b.toNat
  let set := (corePlinths (c.t.coreOf g)).filter (s.placed v.image c.t.vi)
  let start := if vMode v.image = 0 then some 3 else if set.isEmpty then some 5 else none
  let (ps, st, s) := match start with
    | some x => ([], x, s)
    | none => set.foldl (fun (acc : List Nat × Nat × State) p =>
        match acc.2.2.xprogAt c.t v p with
        | (some x, s) => (acc.1, max acc.2.1 x, if x = 2 then s.mapTeam c.tk (fun t =>
            t.notify (notice 2 p w.b.toNat g)) else s)
        | (none, s) => (acc.1 ++ [p], acc.2.1, s)) ([], 1, s)
  { s with
    ops := s.ops ++ [{ id := s.nextId, team := c.tk, group := g, cls := 2, clause := c.b.pc, widx := c.b.widx,
                       kind := .xprog w.b.toNat v ps st, lanes := c.actOf g }]
    nextId := s.nextId + 1 }

def xprogSpec (w : RWord) : WordSpec :=
  { op := 0xC8, guard := w.guard, form := fun _ => formOk (.xprog w), fields := [fB w.b .view],
    own := fun c => c.viewTrap c.act w.b.toNat 0,
    stall := fun c => c.counterFull 2,
    run := fun c =>
      let s := c.groups.foldl (fun s g => c.xprogOf s w g) c.s
      s.mapTeam c.tk (fun t => c.finish (c.groups.foldl (fun t g => t.raiseCounter g 2) t) 1) }
def execXprog (w : RWord) (s : State) : Out := issue (xprogSpec w) s

/-- XCAL of one group (R260): the arrays that hold its view, which the recorded address identifies, of whatever generation
(R233), leave service until they are retrimmed. -/
def Ctx.xcalOf (c : Ctx) (s : State) (w : RWord) (g : Nat) : State :=
  let v := c.view (c.leader g) w.b.toNat
  let keys := (corePlinths (c.t.coreOf g)).flatMap (fun p => (arrayKeys p).filter (fun k =>
    [2, 3].contains (s.array k).ast && (s.array k).desc.toNat = vDesc v.image))
  let s := keys.foldl (fun s k => s.setArray k { (s.array k).tell c.t w.b.toNat g with ast := 3 }) s
  { s with
    ops := s.ops ++ [{ id := s.nextId, team := c.tk, group := g, cls := 2, clause := c.b.pc, widx := c.b.widx,
                       kind := .xcal keys }]
    nextId := s.nextId + 1 }

def xcalSpec (w : RWord) : WordSpec :=
  { op := 0xC9, guard := w.guard, form := fun _ => formOk (.xcal w), fields := [fB w.b .view],
    own := fun c => c.viewTrap c.act w.b.toNat 0,
    stall := fun c => c.counterFull 2,
    run := fun c =>
      let s := c.groups.foldl (fun s g => c.xcalOf s w g) c.s
      s.mapTeam c.tk (fun t => c.finish (c.groups.foldl (fun t g => t.raiseCounter g 2) t) 1) }
def execXcal (w : RWord) (s : State) : Out := issue (xcalSpec w) s

/-- XSTAT of a view (R261). -/
def Ctx.xstatView (c : Ctx) (n th : Nat) : Word :=
  let v := c.view th n
  let ps := corePlinths (c.coreOf th)
  let mask (f : Nat → Bool) : Nat := (ps.zipIdx.map (fun x => if f x.1 then 2 ^ x.2 else 0)).foldl (· + ·) 0
  let holds (ast : Nat) (p : Nat) : Bool := (arrayKeys p).any (fun k =>
    (c.s.array k).ast = ast && (c.s.array k).desc.toNat = vDesc v.image)
  BitVec.ofNat 32 (fld v.fourth 18 16 * 2 ^ 24 + mask (holds 3) * 2 ^ 16 + mask (holds 1) * 2 ^ 8 +
    mask (fun p => v.valid && c.s.resident p v))

/-- XSTAT.cal (R261). -/
def Ctx.xstatCal (c : Ctx) (th sel : Nat) : Word :=
  let a := c.s.array ((corePart (c.coreOf th) * 8 + bits sel 8 6) * 64 + bits sel 5 0)
  BitVec.ofNat 32 (a.ast % 16 * 2 ^ 16 + a.drift % 65536)

def xstatSpec (w : RWord) : WordSpec :=
  let cal := w.m = 1
  genSpec (.xstat w) 0xCA w.guard w.d (if cal then [w.a] else [])
    (if cal then [fD w.d .dst, fA w.a .src] else [fD w.d .dst, fB w.b .view])
    (fun c =>
      if !cal then c.viewTrap c.act w.b.toNat 0
      else
        match tagsOf [(1, w.a)] c with
        | some i => some i
        | none => if c.act.any (fun th => 512 ≤ (c.val th w.a.toNat).toNat) then some (c.trap 0x01) else none)
    (fun c th => ⟨if cal then c.xstatCal th (c.val th w.a.toNat).toNat else c.xstatView w.b.toNat th, false, 0⟩)
def execXstat (w : RWord) (s : State) : Out := issue (xstatSpec w) s

end Sys2Proof.Machine
end

