-- ==== Sys2Proof/Machine/Relink.lean ====
section
/-!
DEFINITION. Flight words: FLINK, FCUT, FSWAP and FSTAT (R262, R263, R133).
-/
namespace Sys2Proof.Machine

/-- Whether a flight operand names a flight of a virtual interface (R262, first condition). -/
def State.flightOk (s : State) (vi : Nat) (a : Word) : Bool :=
  a.toNat < 64 && (s.flight a.toNat).valid && (s.flight a.toNat).owner = vi

/-- Whether a flight has a joining step. -/
def Flight.joining (f : Flight) : Bool := f.stepList.any (fun x => x.1 = 2)

/-- The new step takes a frame for each entry in use (R262): none where its partition holds too few. -/
def State.takeFrames (s : State) (f : Flight) (d q : Nat) : Option State :=
  (s.entriesInUse f).foldl (fun (acc : Option State) e =>
    match acc with
    | none => none
    | some s =>
      match s.popFrame (4 * d + q) f.owner with
      | none => none
      | some (fr, s) =>
        let k := frameKey (4 * d + q) fr
        let s := s.setFrame k { s.frame k with refs := (s.entryHead f e).refs, state := 1 }
        some { s with mem := s.mem.writeLE (f.entryAddr e + 4 * d) 4 (2 ^ 31 + fr) }) (some s)

/-- FLINK's effect on a flight (R133, R262), or none where it is refused. -/
def State.linkStep (s : State) (vi : Nat) (a step : Word) : Option State :=
  let f := s.flight a.toNat
  let d := bits step.toNat 4 2
  let q := bits step.toNat 1 0
  let p := s.part (4 * d + q)
  if !s.flightOk vi a || 32 ≤ step.toNat || !p.owned || p.vi ≠ vi || f.stepList.any (fun x => x.2.1 = d) ||
      f.joining then none
  else
    (s.takeFrames f d q).map (fun s =>
      s.setFlight a.toNat { f with steps := packSteps (f.stepList ++ [(2, d, q)]), copypos := 0 })

/-- Whether a step value names a serving step of a flight. -/
def Flight.servingStep (f : Flight) (step : Word) : Bool :=
  step.toNat < 32 && f.stepList.contains (1, bits step.toNat 4 2, bits step.toNat 1 0)

/-- A step becomes leaving; the tail stays the point of commit until it has drained (R133). -/
def Flight.leave (f : Flight) (d : Nat) : Flight :=
  { f with steps := packSteps (f.stepList.map (fun x => if x.2.1 = d then (3, x.2) else x)),
           cutTails := if f.isTailDie d then f.cutTails ++ [d] else f.cutTails }

/-- A leaving step is gone (R133). -/
def Flight.drop (f : Flight) (d : Nat) : Flight :=
  { f with steps := packSteps (f.stepList.filter (fun x => x.2.1 ≠ d)), cutTails := f.cutTails.filter (· ≠ d) }

/-- FCUT's effect on a flight (R133, R262), or none where it is refused: the only serving step, the head while a
successor of it joins, the tail while a step joins. -/
def State.cutStep (s : State) (vi : Nat) (a step : Word) : Option State :=
  let f := s.flight a.toNat
  let d := bits step.toNat 4 2
  let serving := f.stepList.filter (fun x => x.1 = 1)
  let headJoins := (match f.stepList with
    | h :: _ => h.2.1 = d && f.joining
    | [] => false)
  if !s.flightOk vi a || !f.servingStep step || serving.length < 2 || headJoins ||
      (f.isTailDie d && f.joining) then none
  else some (s.setFlight a.toNat (f.leave d))

/-- FSWAP's effect at issue (R262): the new step joins; the old one is cut when the join completes. -/
def State.swapStep (s : State) (vi : Nat) (a old step : Word) : Option State :=
  if !s.flightOk vi a || !(s.flight a.toNat).servingStep old then none else s.linkStep vi a step

/-- What a re-link does, by its group's values. -/
def Ctx.relinkOf (c : Ctx) (s : State) (i : Nat) (w : RWord) (g : Nat) : Option (State × OpKind) :=
  let th := c.leader g
  let a := c.val th w.a.toNat
  let b := c.val th w.b.toNat
  match i with
  | 0 => (s.linkStep c.t.vi a b).map (fun s => (s, .relink a.toNat (some (bits b.toNat 4 2)) none))
  | 1 => (s.cutStep c.t.vi a b).map (fun s => (s, .relink a.toNat none (some (bits b.toNat 4 2))))
  | _ => (s.swapStep c.t.vi a b (c.val th w.c.toNat)).map (fun s =>
      (s, .relink a.toNat (some (bits (c.val th w.c.toNat).toNat 4 2)) (some (bits b.toNat 4 2))))

/-- The re-links of every group with an active lane: the first refused group's flight operand, or the state. -/
def Ctx.relinkAll (c : Ctx) (i : Nat) (w : RWord) : Except Nat State :=
  c.groups.foldl (fun acc g =>
    match acc with
    | .error e => .error e
    | .ok s =>
      match c.relinkOf s i w g with
      | none => .error g
      | some (s, k) => .ok { s with
          ops := s.ops ++ [{ id := s.nextId, team := c.tk, group := g, cls := 3, clause := c.b.pc,
                             widx := c.b.widx, kind := k }]
          nextId := s.nextId + 1 }) (.ok c.s)

/-- The flight-state fault of a re-link (R301): CODE is the flight operand as read. -/
def Ctx.flightTrap (c : Ctx) (w : RWord) (g : Nat) : TrapInfo :=
  c.trap 0x17 (c.shown (c.leader g) w.a)

/-- Whether what a group's re-link knows refuses it already, while a queue port among its operands is empty (R179). -/
def Ctx.relinkDoomed (c : Ctx) (i : Nat) (w : RWord) (g : Nat) : Bool :=
  let th := c.leader g
  let a := c.val th w.a.toNat
  let old := c.val th w.b.toNat
  let fresh := if i = 2 then w.c else w.b
  let step := c.val th fresh.toNat
  let part := partNamed step
  (c.has w.a && !c.s.flightOk c.t.vi a) ||
  (i ≠ 0 && c.has w.b && (32 ≤ old.toNat || (c.has w.a && !(c.s.flight a.toNat).servingStep old))) ||
  (i = 1 && c.has w.a && c.has w.b && (c.s.cutStep c.t.vi a old).isNone) ||
  (i ≠ 1 && c.has fresh && (32 ≤ step.toNat || !(c.s.part part).owned || (c.s.part part).vi ≠ c.t.vi ||
    (c.has w.a && (c.s.linkStep c.t.vi a step).isNone)))
where
  /-- the partition that a step value names -/
  partNamed (x : Word) : Nat := 4 * bits x.toNat 4 2 + bits x.toNat 1 0

/-- FLINK, FCUT and FSWAP (R262). -/
def relinkSpec (i : Instr) (op n : Nat) (w : RWord) : WordSpec :=
  let ns := [w.a.toNat, w.b.toNat] ++ if n = 2 then [w.c.toNat] else []
  { op := op, guard := w.guard, srcs := ns, form := fun _ => formOk i,
    fields := [fA w.a .src, fB w.b .src] ++ if n = 2 then [fC w.c .src] else [],
    policy := fun c =>
      if tbit (c.s.ctxPolicy c.t.ctx) 4 then none else some (c.flightTrap w (c.groups.headD 0)),
    own := fun c =>
      match tagsOf ([(1, w.a), (2, w.b)] ++ if n = 2 then [(3, w.c)] else []) c with
      | some x => some x
      | none =>
        if c.dry ns then (c.groups.find? (c.relinkDoomed n w)).map (c.flightTrap w)
        else match c.relinkAll n w with
          | .error g => some (c.flightTrap w g)
          | .ok _ => none,
    stall := fun c => c.counterFull 3,
    run := fun c =>
      match c.relinkAll n w with
      | .error _ => c.s
      | .ok s => s.mapTeam c.tk (fun t =>
          c.finish (c.pop (c.groups.foldl (fun t g => t.raiseCounter g 3) t) ns) 1) }

def flinkSpec (w : RWord) : WordSpec := relinkSpec (.flink w) 0xD0 0 w
def execFlink (w : RWord) (s : State) : Out := issue (flinkSpec w) s

def fcutSpec (w : RWord) : WordSpec := relinkSpec (.fcut w) 0xD1 1 w
def execFcut (w : RWord) (s : State) : Out := issue (fcutSpec w) s

def fswapSpec (w : RWord) : WordSpec := relinkSpec (.fswap w) 0xD2 2 w
def execFswap (w : RWord) (s : State) : Out := issue (fswapSpec w) s

/-- FSTAT (R262). -/
def fstatSpec (w : RWord) : WordSpec :=
  let ns := [w.a.toNat]
  let flight (c : Ctx) (th : Nat) : Word := c.val (c.leader (c.t.groupOf th)) w.a.toNat
  { op := 0xD3, guard := w.guard, srcs := ns, form := fun _ => formOk (.fstat w),
    fields := [fD w.d .dstPair, fA w.a .src],
    own := fun c =>
      match tagsOf [(1, w.a)] c with
      | some x => some x
      | none => if c.dry ns then none else match c.groups.find? (fun g => !c.s.flightOk c.t.vi (c.val (c.leader g) w.a.toNat)) with
        | some g => some (c.flightTrap w g)
        | none => none,
    run := fun c => c.s.mapTeam c.tk (fun t =>
      c.finish (c.pop (c.writePair t w.d.toNat (fun th =>
        let f := c.s.flight (flight c th).toNat
        if w.m = 1 then BitVec.ofNat 64 f.copypos else f.steps) (fun _ => false)) ns) 1) }
def execFstat (w : RWord) (s : State) : Out := issue (fstatSpec w) s

end Sys2Proof.Machine
end

