-- ==== Sys2Proof/Machine/Sync.lean ====
section
/-!
DEFINITION. Barriers (R251), barrier objects (R104, R252), fences (R253), counter waits (R254) and sleep (R255).
-/
namespace Sys2Proof.Machine

/-! ### BAR (R251) -/

/-- BAR (R251): convergent, the guard plays no part; arrival releases at .team or, for a launch, at .ten. -/
def barSpec (w : RWord) : WordSpec :=
  let launch := w.m = 1
  let scope := if launch then 3 else 1
  { op := 0xB0, guard := w.guard, form := fun c => formOk (.bar w) && (!launch || c.t.decl.cooperative),
    own := fun c => c.strandedTrap (c.t.threadsOfAll c.present),
    stall := fun c => c.releaseWaits (c.t.threadsOfAll c.present) scope,
    run := fun c => ((c.s.release c.tk (c.t.threadsOfAll c.present) scope).mapTeam c.tk (fun t =>
      t.mapBundle c.bi (fun b => { b with wait := .barrier launch (fld w.c 3 0) }))).finishBarriers c.tk }
def execBar (w : RWord) (s : State) : Out := issue (barSpec w) s

/-! ### Barrier objects (R104, R252) -/

/-- The scratch address each group's object has. -/
def Ctx.objAt (c : Ctx) (a : BitVec 11) (g : Nat) : Nat := (c.val (c.leader g) a.toNat).toNat

/-- Reaches the objects of the groups, by their lowest active lanes. -/
def Ctx.objReach (c : Ctx) (a : BitVec 11) : Reached :=
  c.reachScratch (c.groups.map c.leader) (fun th => (c.objAt a (c.t.groupOf th) : Int)) 16 16
    (fun th => [(c.objAt a (c.t.groupOf th), 16)])

/-- The accesses of the active lanes that a barrier word must follow: their scratch stores are performed, their
loads have their values (R227, R271). -/
def Ctx.settleForObject (c : Ctx) (s : State) : State :=
  c.act.foldl (fun s th => s.settleThread c.tk th s.nextId) (s.settleScratch c.tk c.act)

/-- Whether such an access is still owed. -/
def Ctx.objectWaits (c : Ctx) : Bool :=
  let s := c.settleForObject c.s
  c.act.any (fun th => s.unsettled c.tk th s.nextId c.t.vi) || !(s.scratchOf c.tk c.act).isEmpty

/-- The objects of the groups, by their lowest active lanes. -/
def Ctx.objBytes (c : Ctx) (a : BitVec 11) : List (Nat × List Nat) :=
  c.groups.map (fun g => (c.leader g, upFrom (c.objAt a g) 16))

/-- The object at a scratch address. -/
def Team.obj (t : Team) (a : Nat) : Nat := t.scratch.readLE a 16

def Team.setObj (t : Team) (a x : Nat) : Team := { t with scratch := t.scratch.writeLE a 16 x }

def objExp (x : Nat) : Nat := bits x 11 0
def objArr (x : Nat) : Nat := bits x 23 12
def objPhase (x : Nat) : Nat := bits x 27 24

/-- One arrival (R252): the object after it, and the result, or none where it is refused. -/
def arrive (x n : Nat) (team g : Nat) : Nat × Option Word :=
  let ph := objPhase x
  if objArr x + n < objExp x then (setBits x 23 12 (objArr x + n), some (BitVec.ofNat 32 ph))
  else if objArr x + n = objExp x then
    (setBits (setBits x 23 12 0) 27 24 (ph + 1), some (BitVec.ofNat 32 (ph + 16)))
  else
    (setBits (setBits (setBits x 28 28 1) 63 32 (bits x 63 32 + 1)) 95 64 (team % 65536 * 65536 + g % 65536), none)

/-- The arrivals of every active lane, in home-lane order: the team after them and each lane's result. -/
def Ctx.arrivals (c : Ctx) (w : RWord) (t : Team) : Team × List (Nat × Option Word) :=
  c.act.foldl (fun acc th =>
    let g := c.t.groupOf th
    let a := c.objAt w.a g
    let r := arrive (acc.1.obj a) (fld w.c 3 0) c.t.index.toNat g
    ((acc.1.setObj a r.1).seePhases c.s.cycle, acc.2 ++ [(th, r.2)])) (t, [])

/-- The result of a lane. -/
def resultOf (l : List (Nat × Option Word)) (th : Nat) : Option Word := (l.find? (fun x => x.1 = th)).bind (·.2)

/-- Lanes that take their result: a uniform register takes its group's lowest active lane's alone (R77). -/
def Ctx.arrived (c : Ctx) (d : Nat) (l : List (Nat × Option Word)) : List Nat :=
  c.act.filter (fun th =>
    (resultOf l (if 768 ≤ d && d < 1024 then c.leader (c.t.groupOf th) else th)).isSome)

/-- Lanes whose arrival is refused. -/
def Ctx.refused (c : Ctx) (l : List (Nat × Option Word)) : List Nat := c.act.filter (fun th => (resultOf l th).isNone)

/-- The trap of refused arrivals (R252). -/
def Ctx.refusal (c : Ctx) (w : RWord) (lanes : List Nat) : TrapInfo :=
  c.trapOn lanes 0x18 0 (BitVec.ofNat 64 (c.objAt w.a (c.t.groupOf (lanes.headD 0))))

/-- BARA (R252): a refused lane traps after the loop, and the object and D stand. While a halt spreads it is not issued
at all (R307). -/
def baraSpec (w : RWord) : WordSpec :=
  let ns := [w.a.toNat]
  let d := w.d.toNat
  let results (c : Ctx) : List (Nat × Option Word) :=
    match (c.settleForObject c.s).team c.tk with
    | some t => (c.arrivals w t).2
    | none => []
  { op := 0xB1, guard := w.guard, srcs := ns, dst := some d, form := fun _ => formOk (.bara w),
    fields := [fD w.d .dst, fA w.a .src],
    own := fun c =>
      match tagsOf [(1, w.a)] c with
      | some i => some i
      | none =>
        match c.releaseTrap with
        | some i => some i
        | none =>
          if c.dry ns then none
          else if c.t.isHalted && !c.t.inHandler && !(c.refused (results c)).isEmpty then
            some (c.refusal w (c.refused (results c)))
          else { c with act := c.arrived d (results c) }.writeTrap d
            (fun th => ⟨(resultOf (results c) th).getD 0, false, 0⟩),
    stall := fun c => c.flagFull (c.flag w.f) || (!c.act.isEmpty && (c.releaseWaits c.act 1 || c.objectWaits)),
    access := fun c => c.verdict .store (c.objReach w.a), scratch := fun c => c.objBytes w.a,
    run := fun c =>
      if c.act.isEmpty then c.s.mapTeam c.tk (fun t => c.finish t 1)
      else
        let s := c.settleForObject (c.s.release c.tk c.act 1)
        match s.team c.tk with
        | none => s
        | some t =>
          let (t, l) := c.arrivals w t
          let c' := { c with act := c.arrived d l }
          let t := c'.write t d (fun th => ⟨(resultOf l th).getD 0, false, 0⟩)
          if (c.refused l).isEmpty then
            (s.setTeam c.tk (c.finish (c.pop (t.raiseFlag c.groups (c.flag w.f)) ns) 1)).addWord
              { c.newWord w.f with id := s.nextId }
          else raiseTrap (s.setTeam c.tk t) c.tk c.bi (c.refusal w (c.refused l)) }
def execBara (w : RWord) (s : State) : Out := issue (baraSpec w) s

/-- What the groups of a BARW wait for. The bounds of one that is issued in the skid of a halt stand (R308). -/
def Ctx.phaseWaits (c : Ctx) (w : RWord) : List PhaseWait :=
  match c.b.wait with
  | .barw ws _ => ws
  | _ => c.groups.map (fun g =>
    { group := g, object := c.objAt w.a g, phase := (c.val (c.leader g) w.b.toNat).toNat % 16,
      until_ := c.s.cycle (c.coreOf (c.leader g)) + (c.val (c.leader g) w.c.toNat).toNat, held := c.t.stops })

/-- Groups whose phase has been seen to change. -/
def Ctx.phasesSeen (c : Ctx) (w : RWord) (t : Team) : List Nat :=
  t.changedPhases c.s.cycle (c.phaseWaits w) (match c.b.wait with
    | .barw _ changed => changed
    | _ => [])

/-- Whether a group's bound has passed (R252): a bound of 0 tests once. -/
def Ctx.phaseExpired (c : Ctx) (w : RWord) (g : Nat) : Bool :=
  c.val (c.leader g) w.c.toNat = 0 || ((c.phaseWaits w).find? (fun x => x.group = g)).any (fun x =>
    x.until_ < c.s.cycle (c.coreOf (c.leader g)))

/-- BARW (R252): a group whose phase has changed by its bound gets 1, another gets 0 once its bound has passed. -/
def barwSpec (w : RWord) : WordSpec :=
  let ns := [w.a.toNat, w.b.toNat, w.c.toNat]
  { op := 0xB2, guard := w.guard, srcs := ns, form := fun _ => formOk (.barw w),
    fields := [fD w.d .pred, fA w.a .src, fB w.b .src, fC w.c .src],
    own := fun c => tagsOf [(1, w.a), (2, w.b), (3, w.c)] c,
    stall := fun c => !c.act.isEmpty && c.objectWaits,
    access := fun c => match c.b.wait with
      | .barw _ _ => .pass
      | _ => c.verdict .load (c.objReach w.a),
    scratch := fun c => c.objBytes w.a,
    run := fun c => (c.settleForObject c.s).mapTeam c.tk (fun t =>
      let seen := c.phasesSeen w t
      if c.groups.all (fun g => seen.contains g || c.phaseExpired w g) then
        c.finish (c.pop (c.write t w.d.toNat (fun th => ⟨if seen.contains (c.t.groupOf th) then 1 else 0, false, 0⟩)) ns) 1
      else c.waitAt t (.barw (c.phaseWaits w) seen) ns) }
def execBarw (w : RWord) (s : State) : Out := issue (barwSpec w) s

/-- BARI (R252). -/
def bariSpec (w : RWord) : WordSpec :=
  let ns := [w.a.toNat, w.b.toNat]
  let count (c : Ctx) (g : Nat) : Nat := (c.val (c.leader g) w.b.toNat).toNat
  { op := 0xB3, guard := w.guard, srcs := ns, form := fun _ => formOk (.bari w),
    fields := [fA w.a .src, fB w.b .src],
    own := fun c =>
      match tagsOf [(1, w.a), (2, w.b)] c with
      | some i => some i
      | none =>
        match if c.has w.b then c.groups.filter (fun g => count c g = 0 || 4095 < count c g) else [] with
        | [] => none
        | g :: gs => some (c.trapOn ((g :: gs).flatMap c.actOf) 0x18 0 ((c.shown (c.leader g) w.a).setWidth 64)),
    stall := fun c => !c.act.isEmpty && c.objectWaits,
    access := fun c => c.verdict .store (c.objReach w.a), scratch := fun c => c.objBytes w.a,
    run := fun c => (c.settleForObject c.s).mapTeam c.tk (fun t =>
      c.finish (c.pop (c.groups.foldl (fun t g => (t.setObj (c.objAt w.a g) (count c g)).seePhases c.s.cycle) t) ns) 1) }
def execBari (w : RWord) (s : State) : Out := issue (bariSpec w) s

/-! ### FENCE, WAITC and SLEEP (R253 to R255) -/

/-- FENCE (R253, R275): the earlier loads of its groups have their values before an acquire part. -/
def fenceSpec (w : RWord) : WordSpec :=
  let k := w.atomCtl
  { op := 0xB8, guard := w.guard, form := fun _ => formOk (.fence w),
    policy := fun c => c.scopeTrap k.scope,
    own := fun c => if 2 ≤ k.ord then c.releaseTrap else none,
    stall := fun c => !c.act.isEmpty &&
      (if 2 ≤ k.ord then c.releaseWaits (c.t.threadsOfAll c.groups) k.scope
       else (c.s.settleThreads c.tk (c.t.threadsOfAll c.groups)).owesLoads c.t c.tk (c.t.threadsOfAll c.groups)),
    run := fun c =>
      if c.act.isEmpty then c.s.mapTeam c.tk (fun t => c.finish t 1)
      else
        let s := if 2 ≤ k.ord then c.s.release c.tk (c.t.threadsOfAll c.groups) k.scope
          else c.s.settleThreads c.tk (c.t.threadsOfAll c.groups)
        let s := if k.ord % 2 = 1 then c.acquireAll s k.scope else s
        s.mapTeam c.tk (fun t => c.finish t 1) }
def execFence (w : RWord) (s : State) : Out := issue (fenceSpec w) s

def waitcSpec (w : RWord) : WordSpec :=
  let ns := [w.b.toNat]
  { op := 0xB9, guard := w.guard, srcs := ns, form := fun _ => formOk (.waitc w), fields := [fB w.b .src],
    own := fun c => tagsOf [(2, w.b)] c,
    stall := fun c => c.groups.any (fun g =>
      (c.val (c.leader g) w.b.toNat).toNat < (c.t.group g).counter (fld w.c 1 0)),
    run := fun c => c.s.mapTeam c.tk (fun t => c.finish (c.pop t ns) 1) }
def execWaitc (w : RWord) (s : State) : Out := issue (waitcSpec w) s

def sleepSpec (w : IWord) : WordSpec :=
  { op := 0xBA, guard := w.guard, form := fun _ => formOk (.sleep w),
    run := fun c => c.s.mapTeam c.tk (fun t =>
      if c.act.isEmpty || w.imm = 0 then c.finish t 1
      else t.mapBundle c.bi (fun b =>
        { b with wait := .sleep (c.s.cycle (c.coreOf (b.members.headD 0)) + w.imm.toNat) })) }
def execSleep (w : IWord) (s : State) : Out := issue (sleepSpec w) s

end Sys2Proof.Machine
end

