-- ==== Sys2Proof/Machine/Gen.lean ====
section
/-!
DEFINITION. General instructions: moves, integers, bits, compares and predicates (R180 to R197).
-/
namespace Sys2Proof.Machine

/-! ### Moves (R181 to R185) -/

/-- NOP (R181). -/
def nopSpec (w : RWord) : WordSpec :=
  { op := 0x00, guard := w.guard, form := fun _ => formOk (.nop w),
    run := fun c => c.s.setTeam c.tk (c.finish c.t 1) }
def execNop (w : RWord) (s : State) : Out := issue (nopSpec w) s

/-- MOV (R181): the tag is copied too. -/
def movSpec (w : RWord) : WordSpec :=
  genSpec (.mov w) 0x01 w.guard w.d [w.a] [fD w.d .dst, fA w.a .src] noOwn
    (fun c th => ⟨c.val th w.a.toNat, c.tag th w.a.toNat, 0⟩)
def execMov (w : RWord) (s : State) : Out := issue (movSpec w) s

/-- MOVI (R181). -/
def moviSpec (w : IWord) : WordSpec :=
  genSpec (.movi w) 0x02 w.guard w.d [] [fD w.d .dst] noOwn (fun _ _ => ⟨w.imm.signExtend 32, false, 0⟩)
def execMovi (w : IWord) (s : State) : Out := issue (moviSpec w) s

/-- MOVW (R181, R170): 32 bits of the literal, or a pair. -/
def movwSpec (w : RWord) (lit : DWord) : WordSpec :=
  let res : Nat → Res := fun _ => ⟨lit.setWidth 32, false, 0⟩
  { op := 0x03, len := 2, guard := w.guard, dst := some w.d.toNat,
    form := fun _ => formOk (.movw w lit),
    fields := [fD w.d (if w.m = 0 then .dst else .dstPair)],
    own := fun c => if w.m = 0 then c.writeTrap w.d.toNat res else none,
    run := fun c => c.s.setTeam c.tk (c.finish
      (if w.m = 0 then c.write c.t w.d.toNat res
       else c.writePair c.t w.d.toNat (fun _ => lit) (fun _ => false)) 2) }
def execMovw (w : RWord) (lit : DWord) (s : State) : Out := issue (movwSpec w lit) s

/-- MOVS (R181): both halves of %cycle.d from the same clock. -/
def movsSpec (w : RWord) : WordSpec :=
  { op := 0x04, guard := w.guard, form := fun _ => formOk (.movs w),
    fields := [fD w.d .dstPair, fA w.a .movs],
    run := fun c => c.s.setTeam c.tk (c.finish
      (c.writePair c.t w.d.toNat (fun th => c.pair th w.a.toNat) (fun _ => false)) 1) }
def execMovs (w : RWord) (s : State) : Out := issue (movsSpec w) s

/-- The register that an index selects, as an integer (R74, R75). -/
def indexed (base : BitVec 11) (index : Word) : Int := base.toNat + index.toInt

/-- Steps 2 and 3 of R74: a tagged index, then an index below zero or beyond the declared registers. -/
def indexTrap (base b : BitVec 11) (c : Ctx) : Option TrapInfo :=
  match tagsOf [(2, b)] c with
  | some i => some i
  | none =>
    let bad := if c.dry [b.toNat] then [] else c.act.filter (fun th => (c.val th b.toNat).toInt < 0 ||
      (c.t.decl.vregs : Int) ≤ indexed base (c.val th b.toNat))
    match bad with
    | [] => none
    | th :: _ => some (c.trapOn bad 0x04 (c.val th b.toNat))

/-- MOVX (R182, R75). -/
def movxSpec (w : RWord) : WordSpec :=
  let pick (c : Ctx) (th : Nat) : Nat := (indexed w.a (c.val th w.b.toNat)).toNat
  { genSpec (.movx w) 0x05 w.guard w.d [w.b] [fD w.d .dst, fA w.a .base, fB w.b .src] (indexTrap w.a w.b)
      (fun c th => ⟨(c.reg th (pick c th)).1, (c.reg th (pick c th)).2, 0⟩) [w.b] with
    reads := fun c th => (th, pick c th) :: (fieldReads 0x05 [fB w.b .src]).map (fun n => (th, n)) }
def execMovx (w : RWord) (s : State) : Out := issue (movxSpec w) s

/-- MOVXS (R182, R75). -/
def movxsSpec (w : RWord) : WordSpec :=
  let ns := [w.a.toNat, w.b.toNat]
  { op := 0x06, guard := w.guard, srcs := ns, form := fun _ => formOk (.movxs w),
    fields := [fD w.d .base, fA w.a .src, fB w.b .src], own := indexTrap w.d w.b,
    run := fun c => c.s.setTeam c.tk (c.finish (c.pop (c.act.foldl (fun t th =>
      t.mapThread th (fun x => x.setV (indexed w.d (c.val th w.b.toNat)).toNat (c.val th w.a.toNat)
        (c.tag th w.a.toNat))) c.t) ns) 1) }
def execMovxs (w : RWord) (s : State) : Out := issue (movxsSpec w) s

/-- The thread at a home lane of a thread's group. -/
def Ctx.atLane (c : Ctx) (th lane : Nat) : Nat := c.t.groupOf th * c.t.decl.width + lane

/-- The registers that a lane of UBCAST or LANEX reads: some of another lane's, and its own (R103). -/
def readsOther (theirs own : List Field) (src : Option Nat) (th : Nat) : List (Nat × Nat) :=
  src.toList.flatMap (fun o => (fieldReads 0x07 theirs).map (fun n => (o, n))) ++
  (fieldReads 0x07 own).map (fun n => (th, n))

/-- UBCAST (R183). -/
def ubcastSpec (w : RWord) : WordSpec :=
  let src (c : Ctx) (th : Nat) : Nat := c.atLane th ((c.val (c.act.headD 0) w.b.toNat).toNat % c.t.decl.width)
  { genSpec (.ubcast w) 0x07 w.guard w.d [w.a, w.b] [fD w.d .dst, fA w.a .src, fB w.b .src] (tagsOf [(2, w.b)])
      (fun c th =>
        if (c.t.thread (src c th)).live then ⟨c.val (src c th) w.a.toNat, c.tag (src c th) w.a.toNat, 0⟩
        else ⟨0, false, 0⟩) [w.b] with
    reads := fun c th => readsOther [fA w.a .src] [fB w.b .src] (if (c.t.thread (src c th)).live then some (src c th) else none)
      th }
def execUbcast (w : RWord) (s : State) : Out := issue (ubcastSpec w) s

/-- The source lane of LANEX, where it is in range (R184). -/
def lanexLane (m : BitVec 2) (width lane b : Nat) : Option Nat :=
  match m.toNat with
  | 0 => some (b % width)
  | 1 => some (lane ^^^ (b % width))
  | 2 => if lane < b then none else some (lane - b)
  | _ => if lane + b < width then some (lane + b) else none

/-- LANEX (R184). A queue port in A gives the element of the source lane in the head entry, also where that lane lives but
is not active (log 111). -/
def lanexSpec (w : RWord) : WordSpec :=
  let src (c : Ctx) (th : Nat) : Nat :=
    match lanexLane w.m c.t.decl.width (c.t.laneOf th) (c.val th w.b.toNat).toNat with
    | some l => if (c.t.thread (c.atLane th l)).live then c.atLane th l else th
    | none => th
  { genSpec (.lanex w) 0x08 w.guard w.d [w.a, w.b] [fD w.d .dst, fA w.a .src, fB w.b .src] (tagsOf [(2, w.b)])
      (fun c th => ⟨c.val (src c th) w.a.toNat, c.tag (src c th) w.a.toNat, 0⟩) [w.b] with
    reads := fun c th => readsOther [fA w.a .src] [fB w.b .src] (some (src c th)) th }
def execLanex (w : RWord) (s : State) : Out := issue (lanexSpec w) s

/-- SEL (R185): reads only the chosen source and C as data. -/
def selSpec (w : RWord) : WordSpec :=
  let chosen (c : Ctx) (th : Nat) : BitVec 11 := if c.val th w.c.toNat ≠ 0 then w.a else w.b
  { genSpec (.sel w) 0x09 w.guard w.d [w.a, w.b, w.c] [fD w.d .dst, fA w.a .src, fB w.b .src, fC w.c .src] noOwn
      (fun c th =>
        let n := (chosen c th).toNat
        ⟨c.val th n, c.tag th n || c.tag th w.c.toNat, 0⟩) [w.c] with
    reads := fun c th => (fieldReads 0x09 [fA (chosen c th) .src, fC w.c .src]).map (fun n => (th, n)) }
def execSel (w : RWord) (s : State) : Out := issue (selSpec w) s

/-- One result byte of BYSEL (R185): `f` is its 5-bit field, `x` the 64-bit value of both sources. -/
def byselByte (x f : Nat) : Nat :=
  let byte := x / 2 ^ (8 * (f % 8)) % 256
  match f / 8 % 4 with
  | 0 => byte
  | 1 => if 128 ≤ byte then 0xFF else 0
  | 2 => 0
  | _ => 0xFF

/-- BYSEL of two sources under a selector (R185). -/
def bysel (a b c : Word) : Word :=
  let x := b.toNat * 2 ^ 32 + a.toNat
  let f (i : Nat) : Nat := byselByte x (c.toNat / 2 ^ (5 * i) % 32)
  BitVec.ofNat 32 (f 0 + f 1 * 2 ^ 8 + f 2 * 2 ^ 16 + f 3 * 2 ^ 24)

/-! ### Word forms shared below -/

/-- Two sources, both checked for tags (R67). -/
def intSpec2 (i : Instr) (op : Nat) (w : RWord) (f : Word → Word → Word) : WordSpec :=
  genSpec i op w.guard w.d [w.a, w.b] [fD w.d .dst, fA w.a .src, fB w.b .src]
    (tagsOf [(1, w.a), (2, w.b)]) (fun c th => ⟨f (c.val th w.a.toNat) (c.val th w.b.toNat), false, 0⟩)

/-- One source, checked for its tag. -/
def intSpec1 (i : Instr) (op : Nat) (w : RWord) (f : Word → Word) : WordSpec :=
  genSpec i op w.guard w.d [w.a] [fD w.d .dst, fA w.a .src]
    (tagsOf [(1, w.a)]) (fun c th => ⟨f (c.val th w.a.toNat), false, 0⟩)

/-- Three sources, all checked for tags. -/
def intSpec3 (i : Instr) (op : Nat) (w : RWord) (f : Word → Word → Word → Word) : WordSpec :=
  genSpec i op w.guard w.d [w.a, w.b, w.c] [fD w.d .dst, fA w.a .src, fB w.b .src, fC w.c .src]
    (tagsOf [(1, w.a), (2, w.b), (3, w.c)])
    (fun c th => ⟨f (c.val th w.a.toNat) (c.val th w.b.toNat) (c.val th w.c.toNat), false, 0⟩)

def byselSpec (w : RWord) : WordSpec := intSpec3 (.bysel w) 0x0A w bysel
def execBysel (w : RWord) (s : State) : Out := issue (byselSpec w) s

/-! ### Integer arithmetic (R186 to R189) -/

def iaddSpec (w : RWord) : WordSpec := intSpec2 (.iadd w) 0x10 w (· + ·)
def execIadd (w : RWord) (s : State) : Out := issue (iaddSpec w) s

def isubSpec (w : RWord) : WordSpec := intSpec2 (.isub w) 0x11 w (· - ·)
def execIsub (w : RWord) (s : State) : Out := issue (isubSpec w) s

def imulSpec (w : RWord) : WordSpec := intSpec2 (.imul w) 0x12 w (· * ·)
def execImul (w : RWord) (s : State) : Out := issue (imulSpec w) s

/-- High half of a product: signed, or unsigned with `.u` (R186). -/
def imulh (u : Bool) (a b : Word) : Word :=
  if u then BitVec.ofNat 32 (a.toNat * b.toNat / 2 ^ 32)
  else BitVec.ofInt 32 (a.toInt * b.toInt / 2 ^ 32)

def imulhSpec (w : RWord) : WordSpec := intSpec2 (.imulh w) 0x13 w (imulh (w.m = 1))
def execImulh (w : RWord) (s : State) : Out := issue (imulhSpec w) s

def imadSpec (w : RWord) : WordSpec := intSpec3 (.imad w) 0x14 w (fun a b c => a * b + c)
def execImad (w : RWord) (s : State) : Out := issue (imadSpec w) s

/-- Division, defined for every pair (R187). -/
def idiv (u : Bool) (a b : Word) : Word :=
  if b = 0 then 0xFFFFFFFF
  else if u then BitVec.ofNat 32 (a.toNat / b.toNat)
  else BitVec.ofInt 32 (Int.tdiv a.toInt b.toInt)

/-- Remainder, defined for every pair (R187). -/
def irem (u : Bool) (a b : Word) : Word :=
  if b = 0 then a
  else if u then BitVec.ofNat 32 (a.toNat % b.toNat)
  else BitVec.ofInt 32 (a.toInt - b.toInt * Int.tdiv a.toInt b.toInt)

def idivSpec (w : RWord) : WordSpec := intSpec2 (.idiv w) 0x15 w (idiv (w.m = 1))
def execIdiv (w : RWord) (s : State) : Out := issue (idivSpec w) s

def iremSpec (w : RWord) : WordSpec := intSpec2 (.irem w) 0x16 w (irem (w.m = 1))
def execIrem (w : RWord) (s : State) : Out := issue (iremSpec w) s

/-- Whether a is the lesser of two, signed or unsigned. -/
def lesser (u : Bool) (a b : Word) : Bool := if u then a.toNat ≤ b.toNat else a.toInt ≤ b.toInt

def iminSpec (w : RWord) : WordSpec :=
  intSpec2 (.imin w) 0x17 w (fun a b => if lesser (w.m = 1) a b then a else b)
def execImin (w : RWord) (s : State) : Out := issue (iminSpec w) s

def imaxSpec (w : RWord) : WordSpec :=
  intSpec2 (.imax w) 0x18 w (fun a b => if lesser (w.m = 1) a b then b else a)
def execImax (w : RWord) (s : State) : Out := issue (imaxSpec w) s

def iabsSpec (w : RWord) : WordSpec := intSpec1 (.iabs w) 0x19 w (fun a => if a.msb then -a else a)
def execIabs (w : RWord) (s : State) : Out := issue (iabsSpec w) s

def inegSpec (w : RWord) : WordSpec := intSpec1 (.ineg w) 0x1A w (fun a => -a)
def execIneg (w : RWord) (s : State) : Out := issue (inegSpec w) s

/-- LEA (R188). -/
def lea (u : Bool) (sh : Nat) (a : DWord) (b : Word) : DWord :=
  a + (if u then b.setWidth 64 else b.signExtend 64) <<< sh

def leaSpec (w : RWord) : WordSpec :=
  let ns := [w.a.toNat, w.b.toNat]
  { op := 0x1B, guard := w.guard, srcs := ns, form := fun _ => formOk (.lea w),
    fields := [fD w.d .dstPair, fA w.a .pair, fB w.b .src],
    own := fun c => c.tagTrap [(1, w.a.toNat, 2), (2, w.b.toNat, 1)],
    run := fun c => c.s.setTeam c.tk (c.finish (c.pop (c.writePair c.t w.d.toNat
      (fun th => lea (w.m = 1) (fld w.c 2 0) (c.pair th w.a.toNat) (c.val th w.b.toNat)) (fun _ => false)) ns) 1) }
def execLea (w : RWord) (s : State) : Out := issue (leaSpec w) s

/-- IADDC: the sum or difference and the carry or borrow (R189). -/
def iaddc (sub : Bool) (cin : Bool) (a b : Word) : Word × Bool :=
  let k := if cin then 1 else 0
  if sub then (a - b - BitVec.ofNat 32 k, a.toNat < b.toNat + k)
  else (a + b + BitVec.ofNat 32 k, 2 ^ 32 ≤ a.toNat + b.toNat + k)

/-- IADDC (R189): the predicate takes the carry, then D the result. -/
def iaddcSpec (w : RWord) : WordSpec :=
  let ns := [w.a.toNat, w.b.toNat]
  let k := fld w.c 6 0
  let sub := w.m.getLsbD 0
  let res (c : Ctx) (th : Nat) : Word × Bool :=
    iaddc sub (!w.m.getLsbD 1 && (c.t.thread th).pred k) (c.val th w.a.toNat) (c.val th w.b.toNat)
  { op := 0x1C, guard := w.guard, srcs := ns, dst := some w.d.toNat, form := fun _ => formOk (.iaddc w),
    fields := [fD w.d .dst, fA w.a .src, fB w.b .src, ⟨3, k, .predNumber⟩],
    reads := fun _ th => (fieldReads 0x1C ([fA w.a .src, fB w.b .src] ++
      if w.m.getLsbD 1 then [] else [⟨3, k, .predNumber⟩])).map (fun n => (th, n)),
    own := fun c => match tagsOf [(1, w.a), (2, w.b)] c with
      | some i => some i
      | none => c.resultTrap ns [] w.d.toNat (fun th => ⟨(res c th).1, false, 0⟩),
    run := fun c =>
      let t := c.act.foldl (fun t th => t.mapThread th (fun x => x.setP k (res c th).2)) c.t
      c.s.setTeam c.tk (c.finish (c.pop (c.write t w.d.toNat (fun th => ⟨(res c th).1, false, 0⟩)) ns) 1) }
def execIaddc (w : RWord) (s : State) : Out := issue (iaddcSpec w) s

/-! ### Bit operations (R190 to R192) -/

def andSpec (w : RWord) : WordSpec := intSpec2 (.and w) 0x20 w (· &&& ·)
def execAnd (w : RWord) (s : State) : Out := issue (andSpec w) s

def orSpec (w : RWord) : WordSpec := intSpec2 (.or w) 0x21 w (· ||| ·)
def execOr (w : RWord) (s : State) : Out := issue (orSpec w) s

def xorSpec (w : RWord) : WordSpec := intSpec2 (.xor w) 0x22 w (· ^^^ ·)
def execXor (w : RWord) (s : State) : Out := issue (xorSpec w) s

def andnSpec (w : RWord) : WordSpec := intSpec2 (.andn w) 0x23 w (fun a b => a &&& ~~~b)
def execAndn (w : RWord) (s : State) : Out := issue (andnSpec w) s

/-- One bit of BITF3: the table entry of a, b and d (R191). -/
def bitf3Bit (t a b d : Word) (i : Nat) : Nat :=
  let ix := (a.getLsbD i).toNat + 2 * (b.getLsbD i).toNat + 4 * (d.getLsbD i).toNat
  (t.getLsbD ix).toNat

/-- BITF3 of three words under a table (R191). -/
def bitf3 (t a b d : Word) : Word :=
  BitVec.ofNat 32 ((upFrom 0 32).foldl (fun n i => n + bitf3Bit t a b d i * 2 ^ i) 0)

/-- BITF3 (R191): the old D is a source. -/
def bitf3Spec (w : RWord) : WordSpec :=
  genSpec (.bitf3 w) 0x24 w.guard w.d [w.a, w.b, w.c]
    [fD w.d .vecUniPred, fA w.a .src, fB w.b .src, fC w.c .src]
    (tagsOf [(0, w.d), (1, w.a), (2, w.b), (3, w.c)])
    (fun c th => ⟨bitf3 (c.val th w.c.toNat) (c.val th w.a.toNat) (c.val th w.b.toNat)
      (c.val th w.d.toNat), false, 0⟩)
def execBitf3 (w : RWord) (s : State) : Out := issue (bitf3Spec w) s

/-- Shifts (R190): a count of 32 and more gives 0, or the sign. -/
def shl (a b : Word) : Word := if 32 ≤ b.toNat then 0 else a <<< b.toNat

def shr (arith : Bool) (a b : Word) : Word :=
  if arith then a.sshiftRight (min b.toNat 31) else if 32 ≤ b.toNat then 0 else a >>> b.toNat

def rot (right : Bool) (a b : Word) : Word :=
  if right then a.rotateRight (b.toNat % 32) else a.rotateLeft (b.toNat % 32)

def shlSpec (w : RWord) : WordSpec := intSpec2 (.shl w) 0x25 w shl
def execShl (w : RWord) (s : State) : Out := issue (shlSpec w) s

def shrSpec (w : RWord) : WordSpec := intSpec2 (.shr w) 0x26 w (shr (w.m = 1))
def execShr (w : RWord) (s : State) : Out := issue (shrSpec w) s

def rotSpec (w : RWord) : WordSpec := intSpec2 (.rot w) 0x27 w (rot (w.m = 1))
def execRot (w : RWord) (s : State) : Out := issue (rotSpec w) s

/-- BFX (R192): `pos` and `len` are bytes. -/
def bfx (sx : Bool) (a b c : Word) : Word :=
  let pos := b.toNat % 256
  let len := min (c.toNat % 256) 32
  if len = 0 then 0
  else if sx then BitVec.ofInt 32 (sext len (a.sshiftRight (min pos 31)).toNat)
  else BitVec.ofNat 32 (a.toNat / 2 ^ pos % 2 ^ len)

/-- BFI (R192): `c` holds position and length. -/
def bfi (a b c : Word) : Word :=
  let pos := c.toNat % 256
  let len := c.toNat / 256 % 256
  let mask := BitVec.ofNat 32 ((2 ^ len - 1) * 2 ^ pos)
  (b &&& ~~~mask) ||| (BitVec.ofNat 32 (a.toNat * 2 ^ pos) &&& mask)

def bfxSpec (w : RWord) : WordSpec := intSpec3 (.bfx w) 0x28 w (bfx (w.m = 1))
def execBfx (w : RWord) (s : State) : Out := issue (bfxSpec w) s

def bfiSpec (w : RWord) : WordSpec := intSpec3 (.bfi w) 0x29 w bfi
def execBfi (w : RWord) (s : State) : Out := issue (bfiSpec w) s

/-- Set bits (R190). -/
def popc (a : Word) : Word :=
  BitVec.ofNat 32 ((upFrom 0 32).foldl (fun n i => n + (a.getLsbD i).toNat) 0)

/-- Leading zeros of the low `n` bits (R190). -/
def clzFrom (a : Word) (n : Nat) : Nat :=
  match n with
  | 0 => 0
  | n + 1 => if a.getLsbD n then 0 else clzFrom a n + 1

def clz (a : Word) : Word := BitVec.ofNat 32 (clzFrom a 32)

/-- Bits in reverse order (R190). -/
def brev (a : Word) : Word :=
  BitVec.ofNat 32 ((upFrom 0 32).foldl (fun n i => n + (a.getLsbD (31 - i)).toNat * 2 ^ i) 0)

def popcSpec (w : RWord) : WordSpec := intSpec1 (.popc w) 0x2A w popc
def execPopc (w : RWord) (s : State) : Out := issue (popcSpec w) s

def clzSpec (w : RWord) : WordSpec := intSpec1 (.clz w) 0x2B w clz
def execClz (w : RWord) (s : State) : Out := issue (clzSpec w) s

def brevSpec (w : RWord) : WordSpec := intSpec1 (.brev w) 0x2C w brev
def execBrev (w : RWord) (s : State) : Out := issue (brevSpec w) s

/-! ### Compares and predicates (R193 to R197) -/

/-- The condition of ICMP (R193). -/
def icmp (cond : Nat) (a b : Word) : Bool :=
  match cond with
  | 0 => a = b
  | 1 => a ≠ b
  | 2 => a.toInt < b.toInt
  | 3 => a.toInt ≤ b.toInt
  | 4 => b.toInt < a.toInt
  | 5 => b.toInt ≤ a.toInt
  | 6 => a.toNat < b.toNat
  | 7 => a.toNat ≤ b.toNat
  | 8 => b.toNat < a.toNat
  | _ => b.toNat ≤ a.toNat

/-- A truth value as a register (R193, R206). -/
def truth (b : Bool) : Word := if b then 1 else 0

def icmpSpec (w : RWord) : WordSpec :=
  intSpec2 (.icmp w) 0x30 w (fun a b => truth (icmp (fld w.c 3 0) a b))
def execIcmp (w : RWord) (s : State) : Out := issue (icmpSpec w) s

/-- PLOP (R194): the table bit of the old predicate and the two sources. -/
def plop (lut : Nat) (d a b : Bool) : Bool := tbit lut (4 * d.toNat + 2 * a.toNat + b.toNat)

def plopSpec (w : RWord) : WordSpec :=
  genSpec (.plop w) 0x31 w.guard w.d [] [fD w.d .pred, fA w.a .predOrConst, fB w.b .predOrConst] noOwn
    (fun c th => ⟨truth (plop (fld w.c 7 0) (c.val th w.d.toNat ≠ 0) (c.val th w.a.toNat ≠ 0)
      (c.val th w.b.toNat ≠ 0)), false, 0⟩)
def execPlop (w : RWord) (s : State) : Out := issue (plopSpec w) s

/-- 32 predicates from a number, as a word; those beyond the declaration read 0 (R195). -/
def Ctx.predWord (c : Ctx) (th k : Nat) : Word :=
  BitVec.ofNat 32 ((upFrom 0 32).foldl (fun n i =>
    n + (if k + i < c.t.decl.preds && (c.t.thread th).pred (k + i) then 2 ^ i else 0)) 0)

/-- Writes 32 predicates of a thread, those below the declaration (R195). -/
def Thread.setPreds (x : Thread) (k preds : Nat) (v : Word) : Thread :=
  (upFrom 0 32).foldl (fun x i => if k + i < preds then x.setP (k + i) (v.getLsbD i) else x) x

/-- PMOV (R195). -/
def pmovSpec (w : RWord) : WordSpec :=
  if w.m = 0 then
    genSpec (.pmov w) 0x32 w.guard w.d [] [fD w.d .dst, fA w.a .predBlock] noOwn
      (fun c th => ⟨c.predWord th (w.a.toNat - 1152), false, 0⟩)
  else
    let ns := [w.a.toNat]
    { op := 0x32, guard := w.guard, srcs := ns, form := fun _ => formOk (.pmov w),
      fields := [fD w.d .predBlock, fA w.a .src],
      own := tagsOf [(1, w.a)],
      run := fun c => c.s.setTeam c.tk (c.finish (c.pop (c.act.foldl (fun t th => t.mapThread th (fun x =>
        x.setPreds (w.d.toNat - 1152) c.t.decl.preds (c.val th w.a.toNat))) c.t) ns) 1) }
def execPmov (w : RWord) (s : State) : Out := issue (pmovSpec w) s

/-- The result of a vote over the active lanes (R196): of a ballot the low 32 bits, but into a predicate whether any bit
is set, of every lane. -/
def Ctx.vote (c : Ctx) (m : BitVec 2) (a d : BitVec 11) : Word :=
  let on (th : Nat) : Bool := c.val th a.toNat ≠ 0
  let ballot := c.act.foldl (fun n th => if on th then n + 2 ^ c.t.laneOf th else n) 0
  match m.toNat with
  | 0 => truth (c.act.all on)
  | 1 => truth (c.act.any on)
  | _ => if 1152 ≤ d.toNat && d.toNat < 1280 then truth (ballot ≠ 0) else BitVec.ofNat 32 ballot

/-- PVOTE (R196). -/
def pvoteSpec (w : RWord) : WordSpec :=
  genSpec (.pvote w) 0x33 w.guard w.d [] [fD w.d .dst, fA w.a .predOrConst] noOwn
    (fun c _ => ⟨c.vote w.m w.a w.d, false, 0⟩)
def execPvote (w : RWord) (s : State) : Out := issue (pvoteSpec w) s

/-- ELECT (R197, R33). -/
def electSpec (w : RWord) : WordSpec :=
  genSpec (.elect w) 0x34 w.guard w.d [] [fD w.d .dst] noOwn
    (fun c th => ⟨truth (c.act.head? = some th), false, 0⟩)
def execElect (w : RWord) (s : State) : Out := issue (electSpec w) s

end Sys2Proof.Machine
end

