-- ==== Sys2Proof/Machine/Control.lean ====
section
/-!
DEFINITION. Control transfers: BRA, BRX, JMP, CALL, RET, EXIT and REGRP (R166, R198 to R200), and how a bundle
splits over its targets (R26, R28).
-/
namespace Sys2Proof.Machine

/-- Where a thread goes: a clause header, and whether it stands at a regroup point there. -/
abbrev Target : Type := DWord × Bool

/-- The bundle's members by target, in the order in which the targets first occur (R26). -/
def splitBy (members : List Nat) (target : Nat → Target) : List (Target × List Nat) :=
  members.foldl (fun l th => add (target th) th l) []
where
  /-- adds a thread to the part of its target -/
  add (x : Target) (th : Nat) : List (Target × List Nat) → List (Target × List Nat)
    | [] => [(x, [th])]
    | p :: ps => if p.1 = x then (x, p.2 ++ [th]) :: ps else p :: add x th ps

/-- A bundle at a clause header. -/
def Bundle.atHeader (b : Bundle) (x : Target) (members : List Nat) : Bundle :=
  { b with members := members, pc := x.1, clause := none, idx := 0, wait := .ready, held := none, parked := false,
           regroup := x.2, since := none, frozen := [], popped := [], poppedRanks := [], slots := [], resume := none }

/-- The bundle splits over the targets of its threads: the first part keeps the bundle's place, the others are
new bundles with its age (R26, R295). -/
def Ctx.transfer (c : Ctx) (t : Team) (target : Nat → Target) : Team :=
  let t := t.countSkid c.present
  match splitBy c.b.members target with
  | [] => t.mapBundle c.bi (fun b => b.atHeader (c.b.next, false) [])
  | p :: ps =>
    let t := t.mapBundle c.bi (fun b => b.atHeader p.1 p.2)
    { t with bundles := t.bundles ++ ps.map (fun q => c.b.atHeader q.1 q.2) }

/-- Where the words of a control transfer send a thread: an active one to its target, another to the next
clause (R166). -/
def Ctx.targetOf (c : Ctx) (regroup : Bool) (dest : Nat → DWord) (th : Nat) : Target :=
  if c.act.contains th then (dest th, regroup) else (c.b.next, false)

/-- A misaligned target of an active lane (R166): checked before any lane transfers. -/
def Ctx.targetTrap (c : Ctx) (dest : Nat → DWord) : Option TrapInfo :=
  let bad := c.act.filter (fun th => fld (dest th) 2 0 ≠ 0)
  match bad with
  | [] => none
  | th :: _ => some (c.trapOn bad 0x14 0 (dest th))

/-- H + 8 × imm (R169). -/
def Ctx.relative (c : Ctx) (imm : BitVec 22) : DWord := c.b.pc + (imm.signExtend 64) <<< 3

/-- BRA (R198). -/
def braSpec (w : IWord) : WordSpec :=
  { op := 0x38, guard := w.guard, transfer := true, form := fun _ => formOk (.bra w),
    run := fun c => c.s.setTeam c.tk (c.transfer c.t (c.targetOf false (fun _ => c.relative w.imm))) }
def execBra (w : IWord) (s : State) : Out := issue (braSpec w) s

/-- BRX (R198, R199): the target is always a regroup point. Its alignment is A's alone, and is checked while B's queue port
is empty too (R179). -/
def brxSpec (w : RWord) : WordSpec :=
  let dest (c : Ctx) (th : Nat) : DWord :=
    c.pair th w.a.toNat + ((c.shown th w.b).signExtend 64) <<< 3
  let ns := [w.b.toNat]
  { op := 0x39, guard := w.guard, srcs := ns, transfer := true, form := fun _ => formOk (.brx w),
    fields := [fA w.a .addr, fB w.b .src],
    own := fun c => match c.tagTrap [(1, w.a.toNat, 2), (2, w.b.toNat, 1)] with
      | some i => some i
      | none => c.targetTrap (dest c),
    run := fun c => c.s.setTeam c.tk (c.transfer (c.pop c.t ns) (c.targetOf true (dest c))) }
def execBrx (w : RWord) (s : State) : Out := issue (brxSpec w) s

/-- A jump to the pair in A: JMP and RET (R198). -/
def jumpSpec (i : Instr) (op : Nat) (w : RWord) : WordSpec :=
  let dest (c : Ctx) (th : Nat) : DWord := c.pair th w.a.toNat
  { op := op, guard := w.guard, transfer := true, form := fun _ => formOk i, fields := [fA w.a .addr],
    own := fun c => match c.tagTrap [(1, w.a.toNat, 2)] with
      | some x => some x
      | none => c.targetTrap (dest c),
    run := fun c => c.s.setTeam c.tk (c.transfer c.t (c.targetOf false (dest c))) }

def jmpSpec (w : RWord) : WordSpec := jumpSpec (.jmp w) 0x3A w
def execJmp (w : RWord) (s : State) : Out := issue (jmpSpec w) s

/-- CALL (R198): the pair receives the address of the next clause. -/
def callSpec (w : IWord) : WordSpec :=
  { op := 0x3B, guard := w.guard, transfer := true, form := fun _ => formOk (.call w),
    fields := [fD w.d .vecPair],
    run := fun c => c.s.setTeam c.tk (c.transfer
      (c.writePair c.t w.d.toNat (fun _ => c.b.next) (fun _ => false))
      (c.targetOf false (fun _ => c.relative w.imm))) }
def execCall (w : IWord) (s : State) : Out := issue (callSpec w) s

/-- RET (R198): exactly the effect of JMP. -/
def retSpec (w : RWord) : WordSpec := jumpSpec (.ret w) 0x3C w
def execRet (w : RWord) (s : State) : Out := issue (retSpec w) s

/-- Groups whose last live threads an EXIT ends (R284). -/
def Ctx.endedGroups (c : Ctx) : List Nat :=
  c.groups.filter (fun g =>
    ((c.t.threadsOf g).filter (fun th => (c.t.thread th).live)).all c.act.contains)

/-- The threads end; a handler whose last thread has ended resumes the team (R200, R314). -/
def Ctx.exitTeam (c : Ctx) : Team :=
  let t := c.act.foldl (fun t th => t.mapThread th (fun x => { x with live := false })) c.t
  let rest := c.b.members.filter (fun th => !c.act.contains th)
  let t := (t.mapBundle c.bi (fun b => b.atHeader (c.b.next, false) rest)).countSkid c.present
  if c.b.handler && t.bundles.all (fun b => !b.handler || b.members.isEmpty) then resumeTeam t false 0 else t

/-- EXIT (R200): a stranded store of a group that ends here faults first (R284); a barrier that now has every
counted group completes (R251). -/
def exitSpec (w : RWord) : WordSpec :=
  { op := 0x3D, guard := w.guard, transfer := true, form := fun _ => formOk (.exit w),
    own := fun c => c.strandedTrap (c.t.threadsOfAll c.endedGroups),
    run := fun c => ((c.s.setTeam c.tk c.exitTeam).restartDeadline c.tk c.t).finishBarriers c.tk }
def execExit (w : RWord) (s : State) : Out := issue (exitSpec w) s

/-- REGRP (R198): the next clause as a regroup point, for the threads it transfers. -/
def regrpSpec (w : RWord) : WordSpec :=
  { op := 0x3E, guard := w.guard, transfer := true, form := fun _ => formOk (.regrp w),
    run := fun c => c.s.setTeam c.tk (c.transfer c.t (c.targetOf true (fun _ => c.b.next))) }
def execRegrp (w : RWord) (s : State) : Out := issue (regrpSpec w) s

end Sys2Proof.Machine
end

