-- ==== Sys2Proof/Machine/System.lean ====
section
/-!
DEFINITION. Group calls (R264), software traps (R265), yields (R266), the return from a handler (R267), and words
with an unassigned opcode (R175, R179 step 1).
-/
namespace Sys2Proof.Machine

/-! ### CALLX (R264, R319) -/

/-- The record of one group. -/
def Ctx.callOf (c : Ctx) (w : RWord) (g : Nat) : Call :=
  { word := c.s.nextId, team := c.tk, ctx := c.t.ctx, vi := c.t.vi, teamIx := c.t.index, group := g,
    core := c.t.coreOf g, service := c.val (c.leader g) w.b.toNat,
    lanes := (c.actOf g).map (fun th => (c.t.laneOf th, th, c.val th w.a.toNat)), dest := w.d.toNat }

/-- The 320 bytes of the record (R319). -/
def Call.record (x : Call) : List Byte :=
  let mask := x.lanes.foldl (fun (m : Nat) l => m ||| 2 ^ l.1) 0
  let word (lane : Nat) : Word := ((x.lanes.find? (fun l => l.1 = lane)).map (·.2.2)).getD 0
  bytesLE 8 x.ctx.toNat ++ bytesLE 4 (x.vi % 64) ++ bytesLE 4 x.teamIx.toNat ++ bytesLE 2 x.group ++ bytesLE 2 x.core ++
  bytesLE 4 x.service.toNat ++ bytesLE 8 mask ++ bytesLE 8 x.word ++ bytesLE 24 0 ++
  (upFrom 0 64).flatMap (fun lane => bytesLE 4 (word lane).toNat)

/-- Whether a die's service queue has no room for a word's records (R115). -/
def Ctx.serviceFull (c : Ctx) : Bool :=
  c.groups.any (fun g =>
    let d := coreDie (c.t.coreOf g)
    256 < (c.s.die d).service.length + (c.groups.filter (fun h => coreDie (c.t.coreOf h) = d)).length)

def callxSpec (w : RWord) : WordSpec :=
  let ns := [w.a.toNat, w.b.toNat]
  { op := 0xD8, guard := w.guard, srcs := ns, dst := some w.d.toNat, form := fun _ => formOk (.callx w),
    fields := [fD w.d .dst, fA w.a .src, fB w.b .src],
    own := fun c =>
      match tagsOf [(1, w.a), (2, w.b)] c with
      | some i => some i
      | none => c.releaseTrap,
    stall := fun c => c.flagFull (c.flag w.f) || c.serviceFull ||
      (!c.act.isEmpty && c.releaseWaits (c.t.threadsOfAll c.groups) 3),
    run := fun c =>
      if c.act.isEmpty then c.s.mapTeam c.tk (fun t => c.finish t 1)
      else
        let s := c.s.release c.tk (c.t.threadsOfAll c.groups) 3
        let s := c.groups.foldl (fun s g =>
          let d := coreDie (c.t.coreOf g)
          s.setDie d { s.die d with service := (s.die d).service ++ [c.callOf w g] }) s
        (s.mapTeam c.tk (fun t => c.finish (c.pop (c.raise t (c.flag w.f)) ns) 1)).addWord
          { c.newWord w.f with awaited := true, calls := c.groups,
                               pipe := if 1024 ≤ w.d.toNat && w.d.toNat < 1040 then some (w.d.toNat - 1024) else none } }
def execCallx (w : RWord) (s : State) : Out := issue (callxSpec w) s

/-! ### TRAP, YIELD, TRET -/

/-- TRAP (R265): its effect is to take the software trap where a lane is active. -/
def trapSpec (w : IWord) : WordSpec :=
  { op := 0xD9, guard := w.guard, form := fun _ => formOk (.trap w),
    own := fun c => if c.act.isEmpty then none else some (c.trap 0x20 (BitVec.ofNat 32 (w.imm.toNat % 256))),
    run := fun c => c.s.mapTeam c.tk (fun t => c.finish t 1) }
def execTrap (w : IWord) (s : State) : Out := issue (trapSpec w) s

/-- YIELD (R266): without a request it has no effect; with one the threads wait at the word. -/
def yieldSpec (w : RWord) (lit1 lit2 : BitVec 64) : WordSpec :=
  { op := 0xDA, len := 3, guard := w.guard, form := fun _ => formOk (.yield w lit1 lit2),
    own := fun c => c.releaseTrap,
    run := fun c => c.s.mapTeam c.tk (fun t =>
      if c.act.isEmpty || !c.t.yieldreq then c.finish t 3
      else t.mapBundle c.bi (fun b => { b with wait := .yield })) }
def execYield (w : RWord) (lit1 lit2 : BitVec 64) (s : State) : Out := issue (yieldSpec w lit1 lit2) s

/-- Words that a resumption with .skip passes: the recorded word with its literals (R170, R267). -/
def Halt.skipLength (h : Halt) : Nat := 1 + literalCount (opcodeOf h.trap.word)

/-- A return that the record does not allow (R267): outside the handler, or a skip of a header or of a convergence
trap. -/
def Ctx.noReturn (c : Ctx) (skip : Bool) : Bool :=
  match c.t.halt with
  | some h => !c.b.handler || (skip && (h.trap.widx = 0xFFFFFFFF || h.trap.info.cause = 0x05))
  | none => true

def tretSpec (w : RWord) : WordSpec :=
  let skip := w.m = 1
  { op := 0xDB, guard := w.guard, transfer := true, form := fun c => formOk (.tret w) && !c.noReturn skip,
    run := fun c =>
      if c.act.isEmpty then c.s.mapTeam c.tk (fun t => c.transfer t (fun _ => (c.b.next, false)))
      else
        let s := (c.s.mapTeam c.tk (fun t => match t.halt with
          | some h => resumeTeam t skip h.skipLength
          | none => t)).restartDeadline c.tk c.t
        (if skip then s.nextStranded c.tk c.t else s).finishBarriers c.tk }
def execTret (w : RWord) (s : State) : Out := issue (tretSpec w) s

/-- A word with an unassigned opcode (R175): the illegal-instruction trap before any effect. None of its bits is a guard, so
every lane of the bundle is active (log 114). -/
def unassignedSpec (w : BitVec 64) : WordSpec :=
  { op := fld w 63 56, guard := ⟨false, false, 0⟩, form := fun _ => false, run := fun c => c.s }
def execUnassignedOpcodeWord (w : BitVec 64) (s : State) : Out := issue (unassignedSpec w) s

end Sys2Proof.Machine
end

