-- ==== Sys2Proof/Machine/Words.lean ====
section
/-!
DEFINITION. The description of every word of a clause, and whether a bundle stands at a word that can issue (R295).
-/
namespace Sys2Proof.Machine

/-- The description of a word; none for a row that is no word of a clause. -/
def State.specOf (s : State) (i : Instr) : Option WordSpec :=
  match i with
  | .nop w => some (nopSpec w)
  | .mov w => some (movSpec w)
  | .movi w => some (moviSpec w)
  | .movw w lit => some (movwSpec w lit)
  | .movs w => some (movsSpec w)
  | .movx w => some (movxSpec w)
  | .movxs w => some (movxsSpec w)
  | .ubcast w => some (ubcastSpec w)
  | .lanex w => some (lanexSpec w)
  | .sel w => some (selSpec w)
  | .bysel w => some (byselSpec w)
  | .iadd w => some (iaddSpec w)
  | .isub w => some (isubSpec w)
  | .imul w => some (imulSpec w)
  | .imulh w => some (imulhSpec w)
  | .imad w => some (imadSpec w)
  | .idiv w => some (idivSpec w)
  | .irem w => some (iremSpec w)
  | .imin w => some (iminSpec w)
  | .imax w => some (imaxSpec w)
  | .iabs w => some (iabsSpec w)
  | .ineg w => some (inegSpec w)
  | .lea w => some (leaSpec w)
  | .iaddc w => some (iaddcSpec w)
  | .and w => some (andSpec w)
  | .or w => some (orSpec w)
  | .xor w => some (xorSpec w)
  | .andn w => some (andnSpec w)
  | .bitf3 w => some (bitf3Spec w)
  | .shl w => some (shlSpec w)
  | .shr w => some (shrSpec w)
  | .rot w => some (rotSpec w)
  | .bfx w => some (bfxSpec w)
  | .bfi w => some (bfiSpec w)
  | .popc w => some (popcSpec w)
  | .clz w => some (clzSpec w)
  | .brev w => some (brevSpec w)
  | .icmp w => some (icmpSpec w)
  | .plop w => some (plopSpec w)
  | .pmov w => some (pmovSpec w)
  | .pvote w => some (pvoteSpec w)
  | .elect w => some (electSpec w)
  | .bra w => some (braSpec w)
  | .brx w => some (brxSpec w)
  | .jmp w => some (jmpSpec w)
  | .call w => some (callSpec w)
  | .ret w => some (retSpec w)
  | .exit w => some (exitSpec w)
  | .regrp w => some (regrpSpec w)
  | .fadd w => some (faddSpec w)
  | .fsub w => some (fsubSpec w)
  | .fmul w => some (fmulSpec w)
  | .ffma w => some (ffmaSpec w)
  | .fmin w => some (fminSpec w)
  | .fmax w => some (fmaxSpec w)
  | .fabs w => some (fabsSpec w)
  | .fneg w => some (fnegSpec w)
  | .fcmp w => some (fcmpSpec w)
  | .fclass w => some (fclassSpec w)
  | .frnd w => some (frndSpec w)
  | .frcp w => some (frcpSpec w)
  | .frsq w => some (frsqSpec w)
  | .fsqrt w => some (fsqrtSpec w)
  | .fexp2 w => some (fexp2Spec w)
  | .flog2 w => some (flog2Spec w)
  | .fsin w => some (fsinSpec w)
  | .fcos w => some (fcosSpec w)
  | .fdiv w => some (fdivSpec w)
  | .cvt w => some (cvtSpec w)
  | .rqnt w => some (rqntSpec w)
  | .redg w => some (redgSpec w)
  | .scang w => some (scangSpec w)
  | .admitWord w => some (admitSpec w)
  | .btag w => some (btagSpec w)
  | .bsmax w => some (bsmaxSpec w)
  | .mma w => some (mmaSpec w s.decl)
  | .mmaz w => some (mmazSpec w s.decl)
  | .mlda w => some (mldaSpec w s.decl)
  | .msta w => some (mstaSpec w s.decl)
  | .mzero w => some (mzeroSpec w)
  | .mrow w => some (mrowSpec w s.decl)
  | .mapply w => some (mapplySpec w s.decl)
  | .mscale w => some (mscaleSpec w s.decl)
  | .xmv w => some (xmvSpec w)
  | .mlds w => some (mldsSpec w)
  | .msts w => some (mstsSpec w)
  | .ld w => some (ldSpec w)
  | .ldv w => some (ldvSpec w)
  | .st w => some (stSpec w)
  | .stb w => some (stbSpec w)
  | .ldl6 w => some (ldl6Spec w)
  | .stl6 w => some (stl6Spec w)
  | .atom w => some (atomSpec w)
  | .red w => some (redSpec w)
  | .cas w => some (casSpec w)
  | .ldva w => some (ldvaSpec w)
  | .vset w => some (vsetSpec w)
  | .vpub w => some (vpubSpec w)
  | .vinv w => some (vinvSpec w)
  | .vstat w => some (vstatSpec w)
  | .pref w => some (prefSpec w)
  | .cflush w => some (cflushSpec w)
  | .cinv w => some (cinvSpec w)
  | .wmask w => some (wmaskSpec w)
  | .monw w => some (monwSpec w)
  | .waitm w => some (waitmSpec w)
  | .bar w => some (barSpec w)
  | .bara w => some (baraSpec w)
  | .barw w => some (barwSpec w)
  | .bari w => some (bariSpec w)
  | .fence w => some (fenceSpec w)
  | .waitc w => some (waitcSpec w)
  | .sleep w => some (sleepSpec w)
  | .cpy w => some (cpySpec w)
  | .cpyc w => some (cpycSpec w)
  | .cbdef w => some (cbdefSpec w)
  | .cbacq w => some (cbacqSpec w)
  | .cbrel w => some (cbrelSpec w)
  | .qlen w => some (qlenSpec w)
  | .xprog w => some (xprogSpec w)
  | .xcal w => some (xcalSpec w)
  | .xstat w => some (xstatSpec w)
  | .flink w => some (flinkSpec w)
  | .fcut w => some (fcutSpec w)
  | .fswap w => some (fswapSpec w)
  | .fstat w => some (fstatSpec w)
  | .callx w => some (callxSpec w)
  | .trap w => some (trapSpec w)
  | .yield w lit1 lit2 => some (yieldSpec w lit1 lit2)
  | .tret w => some (tretSpec w)
  | .unassignedOpcodeWord w => some (unassignedSpec w)
  | .clauseFetch .. => none
  | .clauseStart .. => none
  | .countedWordCompletion .. => none
  | .convergenceTrap .. => none
  | .engineOperationRetirement .. => none
  | .copyUnitTransfer .. => none
  | .cpycSlotReserve .. => none
  | .cpycSlotFilled .. => none
  | .viewProjection .. => none
  | .recalibration .. => none
  | .arrayProgrammingComplete .. => none
  | .arrayRetirement .. => none
  | .vpubMarkingArrival .. => none
  | .viewCacheEntryDiscard .. => none
  | .chainStoreApply .. => none
  | .tailAcknowledgement .. => none
  | .dirtyLineQuery .. => none
  | .joinCopy .. => none
  | .joinCompletion .. => none
  | .drainCompletion .. => none
  | .storeCommit .. => none
  | .monitorWake .. => none
  | .waitmBoundExpiry .. => none
  | .barwBoundExpiry .. => none
  | .sleepExpiry .. => none
  | .copyOnWrite .. => none
  | .migration .. => none
  | .faultReplay .. => none
  | .unresolvedFault .. => none
  | .pinRelease .. => none
  | .formatEmulation .. => none
  | .groupCallService .. => none
  | .trapHalt .. => none
  | .asyncFaultReport .. => none
  | .bridgeGateReject .. => none
  | .trapRecordWrite .. => none
  | .launchQueueTailUpdate .. => none
  | .launchPacketRead .. => none
  | .waitCounterMet .. => none
  | .teamPlacement .. => none
  | .teamEnd .. => none
  | .yieldRequest .. => none
  | .yieldWithdrawal .. => none
  | .deadlineExpiry .. => none
  | .teamSave .. => none
  | .teamRestore .. => none
  | .hostWindowAccess .. => none
  | .mapnew .. => none
  | .map .. => none
  | .share .. => none
  | .reserve .. => none
  | .unmap .. => none
  | .protect .. => none
  | .mapchain .. => none
  | .migrate .. => none
  | .resume .. => none
  | .resumeskip .. => none
  | .abort .. => none
  | .savefull .. => none
  | .setctx .. => none
  | .setpart .. => none
  | .setflight .. => none
  | .setvi .. => none
  | .qreset .. => none
  | .fwstage .. => none
  | .fwactivate .. => none
  | .firmwareSwitchComplete .. => none
  | .dieout .. => none
  | .diein .. => none
  | .attest .. => none
  | .lqWrite .. => none
  | .errrecWrite .. => none
  | .registerWrite .. => none
  | .flitCrcError .. => none
  | .powerOn .. => none
  | .thermalThrottle .. => none
  | .overtemperatureStop .. => none
  | .uncorrectableErrorOutsideTeam .. => none
  | .unassignedOpcCommand .. => none
  | .moduleReset .. => none

/-- The instruction at which a bundle stands in its clause. -/
def Bundle.instr (b : Bundle) : Option Instr :=
  match b.clause with
  | none => none
  | some c =>
    match decode ((c.words.drop b.idx).flatMap wordBytes) with
    | .ok (i, _) => some i
    | .error _ => none

/-- Whether a bundle that waited no longer waits in the same way. -/
def Wait.ended (before after : Wait) : Bool :=
  match before, after with
  | .stalled, .stalled => false
  | .barw .., .barw .. => false
  | .monitor, .monitor => false
  | _, _ => true

/-- Whether a bundle that stands inside a clause is ready (R295): nothing makes it wait, or the word at which it was
stalled, whose wait has come to its end included (R249), can go on now. -/
def State.readyInside (s : State) (tk bi : Nat) (t : Team) (b : Bundle) : Bool :=
  let goesOn : Bool :=
    match (b.instr.bind s.specOf).map (fun w => issue w { s with cur := some (tk, bi) }) with
    | some (.next s') => ((s'.team tk).bind (fun t => t.bundle bi)).any (fun x => b.wait.ended x.wait)
    | _ => false
  b.clause.isSome && !b.members.isEmpty &&
  (match b.wait with
   | .ready => true
   | .stalled => goesOn
   | .barw .. => goesOn
   | .monitor => goesOn
   | .sleep u => u ≤ s.cycle (t.coreOf (t.groupOf (b.members.headD 0)))
   | _ => false)

end Sys2Proof.Machine
end

