-- ==== Sys2Proof/Machine/Clauses.lean ====
section
/-!
DEFINITION. Clauses: the fetch and its checks (R164, R167), the convergence rule (R30), its deadlock trap (R31),
and the choice of the bundle that an alcove starts (R295, R26 to R28).
-/
namespace Sys2Proof.Machine

/-! ### The fetch (R164) -/

/-- The checks of step 3 on a header. -/
def headerOk (h : DWord) : Bool :=
  fld h 63 48 = 0xC1A5 && fld h 47 44 = 0 && fld h 39 36 = 0 && fld h 11 9 = 0 && fld h 7 0 = 0 &&
  fld h 43 40 ≤ 4 && (fld h 19 16 ≤ 11 || fld h 19 16 = 15) && (fld h 15 12 ≤ 11 || fld h 15 12 = 15)

/-- Words of a clause (R163). -/
def headerCount (h : DWord) : Nat := fld h 35 32 + 1

/-- The instruction words of a clause with their indexes, `skip` literals passed over; none where literals are
missing (step 4). -/
def wordsOf (i skip : Nat) (ws : List DWord) : Option (List (Nat × DWord)) :=
  match ws with
  | [] => if skip = 0 then some [] else none
  | w :: rest =>
    match skip with
    | 0 => (wordsOf (i + 1) (literalCount (opcodeOf w)) rest).map ((i, w) :: ·)
    | k + 1 => wordsOf (i + 1) k rest

/-- The convergent opcodes (R30). -/
def isConvergent (op : Nat) : Bool :=
  (0x70 ≤ op && op ≤ 0x7A) || op = 0xB0 || op = 0x62 || op = 0x63 || op = 0x08 || op = 0x07 || op = 0x33 ||
  op = 0xD8

/-- The first convergent word of a clause. -/
def Clause.convergentAt (c : Clause) : Option (Nat × DWord) :=
  ((wordsOf 0 0 c.words).getD []).find? (fun x => isConvergent (fld x.2 63 56))

/-- What a fetch gives. -/
inductive FetchResult where
  | clause (c : Clause)
  /-- a header trap, with the header where it was read -/
  | trap (cause : BitVec 8) (address : Nat) (code : Word) (header : DWord)
  /-- a residency fault -/
  | wait (cause address : Nat)
  /-- a bridge gate dropped the packet (R130) -/
  | rejected (address : Nat) (part : Nat)

/-- The places of a stretch of code, where every page of it can be read (step 1), and the state with the pages that it
touches mapped. -/
def State.codePlaces (s : State) (t : Team) (die a n : Nat) : Except (FetchResult × State) (List Place × State) :=
  match s.reachParts t.ctx t.vi die .load (pageParts a n) with
  | .error (x, .replay cause, s) => .error (.wait cause x, s)
  | .error (x, .trap cause, s) => .error (.trap cause x (s.flightCode t.ctx cause x) 0, s)
  | .error (x, .page .., s) => .error (.trap 0x10 x 0 0, s)
  | .ok (ps, s) =>
    match ps.findSome? (s.closedPart t.vi) with
    | some q => .error (.rejected a q, s)
    | none => .ok (ps, s)

/-- The 64-bit words at some places, as the slices hold them. -/
def State.codeWords (s : State) (t : Team) (ps : List Place) (n : Nat) : List DWord :=
  let bs := ps.flatMap (fun p => p.bytes.map (s.pointByte t p))
  (upFrom 0 n).map (fun i => BitVec.ofNat 64 (ofBytesLE ((bs.drop (8 * i)).take 8)))

/-- The checks of R164 in their order, and the clause, whose words are all read at one moment (R167; log 113). ADDR of an
error is the physical line (R301; log 101). -/
def State.fetch (s : State) (t : Team) (die : Nat) (pc : DWord) : FetchResult × State :=
  if 2 ^ 57 ≤ pc.toNat then (.trap 0x10 pc.toNat 0 0, s)
  else
    match s.codePlaces t die pc.toNat 8 with
    | .error r => r
    | .ok (ps, s) =>
      let h := (s.codeWords t ps 1).headD 0
      let n := headerCount h
      match s.codePlaces t die pc.toNat (8 * (n + 1)) with
      | .error (.trap cause a code _, s) => (.trap cause a code h, s)
      | .error r => r
      | .ok (ps, s) =>
        match (ps.flatMap s.physOf).find? (fun a => s.poison.contains (lineOf a)) with
        | some a => (.trap 0x30 (lineOf a * 128) 0 h, s)
        | none =>
          let words := (s.codeWords t ps (n + 1)).tail
          if !headerOk h || (wordsOf 0 0 words).isNone then (.trap 0x02 0 0 h, s)
          else (.clause { header := h, words := words }, s)

/-- Whether a bundle stands at a regroup point (R28): it is the target of a BRX or follows a REGRP, or the clause's
header has RG. -/
def Bundle.atRegroup (b : Bundle) (c : Clause) : Bool := b.regroup || c.header.getLsbD 8

/-- A bundle at a header whose clause is fetched: where a word of it is convergent, the threads of other groups are
split off, and each part parks until its group is whole (R30). Outside a regroup point, too, each group has its own
bundle (R26; log 16). -/
def Team.holdClause (t : Team) (bi : Nat) (b : Bundle) (c : Clause) : Team :=
  let convergent := c.convergentAt.isSome
  let b := { b with held := some c, wait := .ready, parked := convergent }
  if !convergent && b.atRegroup c then t.mapBundle bi (fun _ => b)
  else
    match sortUp (b.members.map t.groupOf) with
    | [] => t
    | g :: gs =>
      let part (g : Nat) : Bundle := { b with members := b.members.filter (fun th => t.groupOf th = g) }
      let t := t.mapBundle bi (fun _ => part g)
      { t with bundles := t.bundles ++ gs.map part }

/-- The clause of a bundle whose clause is fetched: after a restore it goes on at its word (R300), past the clause where
that word does not exist. -/
def Team.takeClause (t : Team) (bi : Nat) (b : Bundle) (c : Clause) : Team :=
  match b.resume with
  | none => t.holdClause bi b c
  | some i => t.mapBundle bi (fun b =>
      let b := { b with clause := some c, idx := min i c.words.length, resume := none }
      if c.words.length ≤ i then b.advance 0 else b)

/-- Whether a held fault stops a bundle (R303, R306, R308): it stands at a word boundary, and its group's fault is taken
before another word of the group issues. -/
def Team.heldUp (t : Team) (b : Bundle) : Bool :=
  (b.wait = .ready || b.wait = .stalled) && b.frozen.isEmpty &&
  t.held.any (fun x => b.members.any (fun th => t.groupOf th = x.1))

/-- Whether threads of a team may issue (R308, R313, R298). -/
def Team.runs (t : Team) (b : Bundle) : Bool :=
  !t.aborted && (match t.halt with
    | none => t.saving.isNone && t.raised.isEmpty && !t.heldUp b
    | some h => h.phase = .handler && b.handler && t.raised.isEmpty)

/-- Whether a bundle of a team that stops may still issue, until the records of the halt are written: in the skid, where
its clause was being issued or its BARW had seen its end (R307), to make a counted access whose replay was served (R143), or to the end of its clause before a full save
(R298). -/
def Team.runsOut (t : Team) (b : Bundle) : Bool :=
  !t.aborted && b.wait ≠ .trapped &&
  (match t.halt with
   | some h => h.phase = .stopping && h.posted = .nothing &&
       (if b.parkedFlag.isSome then !h.nested || b.handler
        else (b.wait = .ready || b.again) && b.going && !h.nested &&
          (sortUp (b.members.map t.groupOf)).all (fun g => g ≠ h.trap.group && (t.group g).skid < 16))
   | none => b.wait = .ready && t.saving = some true && t.raised.isEmpty)

/-- Whether a bundle inside a clause may issue, if its word can. -/
def Team.issues (t : Team) (b : Bundle) : Bool := t.runs b || t.runsOut b

/-- CLAUSE_FETCH (R164). -/
def State.clauseFetch (s : State) (tk bi : Nat) : State :=
  match s.team tk with
  | none => s
  | some t =>
    match t.bundle bi with
    | none => s
    | some b =>
      if !(t.runs b && b.clause.isNone && b.held.isNone && b.wait = .ready && !b.members.isEmpty) then s
      else
        let core := t.coreOf (t.groupOf (b.members.headD 0))
        let x := s.core core
        match x.fetched.find? (fun f => f.ctx = t.ctx && f.pc = b.pc) with
        | some f => s.mapTeam tk (fun t => t.takeClause bi b f.clause)
        | none =>
          match s.fetch t (coreDie core) b.pc with
          | (.clause c, s) =>
            (s.setCore core { s.core core with fetched := (s.core core).fetched ++ [⟨t.ctx, b.pc, c⟩] }).mapTeam tk
              (fun t => t.takeClause bi b c)
          | (.trap cause a code h, s) =>
            raiseTrapAt s tk bi { cause := cause, mask := t.mask b.members,
                                  addr := if cause = 0x02 then 0 else BitVec.ofNat 64 a, code := code } 0xFFFFFFFF h
          | (.wait _ a, s) =>
            if 64 ≤ s.faultBuffer core then s
            else (s.mapTeam tk (fun t => t.mapBundle bi (fun b => { b with wait := .fetchReplay a }))).postMigration
              (coreDie core) { ctx := t.ctx, vi := t.vi, va := BitVec.ofNat 64 a }
          | (.rejected a q, s) =>
            s.report tk (t.groupOf (b.members.headD 0))
              (asyncInfo 0x16 (t.mask b.members) a (BitVec.ofNat 32 q) b.pc 0xFFFFFFFF)
def execClauseFetch (tk bi : Nat) (s : State) : Out := .next (s.clauseFetch tk bi)

/-! ### The convergence trap (R31) -/

/-- The parked bundles of a group: their clauses are fetched, afresh after a restore (R31, R37, R300). -/
def Team.parkedOf (t : Team) (g : Nat) : List (Nat × Bundle) :=
  (t.bundles.zipIdx.map (fun x => (x.2, x.1))).filter (fun x =>
    x.2.parked && x.2.clause.isNone && x.2.held.isSome && x.2.wait = .ready && (!t.inHandler || x.2.handler) &&
    x.2.members.any (fun th => t.groupOf th = g))

/-- Bundles of a group that stand parked at one header. -/
def Team.standing (t : Team) (g : Nat) (pc : DWord) : List Nat :=
  ((t.parkedOf g).filter (fun x => x.2.pc = pc)).map (·.1)

/-- Whether two bundles stand at one clause address, in distinct home lanes (R26): inside a handler or both outside. -/
def Team.together (t : Team) (a b : Bundle) : Bool :=
  a.pc = b.pc && a.clause.isNone && b.clause.isNone && a.resume.isNone && b.resume.isNone && b.wait = .ready && a.handler = b.handler &&
  !(a.members.any (fun x => b.members.any (fun y => t.laneOf x = t.laneOf y)))

/-- Bundles joined into one: the others lose their threads. -/
def Team.join (t : Team) (bi : Nat) (others : List Nat) : Team :=
  others.foldl (fun t o =>
    match t.bundle bi, t.bundle o with
    | some a, some b =>
      if bi = o || !t.together a b then t
      else (t.mapBundle bi (fun a => { a with members := sortUp (a.members ++ b.members) })).mapBundle o
        (fun b => { b with members := [] })
    | _, _ => t) t

/-- CONVERGENCE_TRAP (R31): every live thread of the group is parked, at more than one header. The waiting bundle is
all of its threads at clause A. -/
def State.convergenceTrap (s : State) (tk g : Nat) : State :=
  match s.team tk with
  | none => s
  | some t =>
    let ps := t.parkedOf g
    let live := t.liveOf g
    match live with
    | [] => s
    | low :: _ =>
      match ps.find? (fun x => x.2.members.contains low) with
      | none => s
      | some (bi, b) =>
        let elsewhere := live.filter (fun th => !(ps.any (fun x => x.2.pc = b.pc && x.2.members.contains th)))
        if !live.all (fun th => ps.any (fun x => x.2.members.contains th)) || !t.runs b then s
        else
          match elsewhere with
          | [] => s
          | other :: _ =>
            let second := match ps.find? (fun x => x.2.members.contains other) with
              | some x => x.2.pc
              | none => 0
            let (i, w) := (b.held.bind Clause.convergentAt).getD (0, 0)
            let t := t.join bi (t.standing g b.pc)
            raiseTrapAt (s.setTeam tk t) tk bi
              { cause := 0x05, mask := t.mask (((t.bundle bi).map (·.members)).getD []), addr := second }
              (BitVec.ofNat 32 i) w
def execConvergenceTrap (tk g : Nat) (s : State) : Out := .next (s.convergenceTrap tk g)

/-! ### Starting a clause (R295) -/

/-- Alcove of a bundle: of its lowest-numbered group. -/
def Team.alcoveOf (t : Team) (b : Bundle) : Nat := b.lead t % 4

/-- Core on which a bundle issues. -/
def Team.bundleCore (t : Team) (b : Bundle) : Nat := t.coreOf (b.lead t)

/-- Whether a bundle at its header can start: its WAIT is met, and a convergent clause has its whole group there. -/
def Team.canStart (t : Team) (b : Bundle) : Bool :=
  t.runs b && b.clause.isNone && b.wait = .ready && !b.members.isEmpty &&
  match b.held with
  | none => false
  | some c =>
    t.waitMet c.header (sortUp (b.members.map t.groupOf)) &&
    (c.convergentAt.isNone ||
      (let g := t.groupOf (b.members.headD 0)
       (t.liveOf g).all (fun th => (t.parkedOf g).any (fun x => x.2.pc = b.pc && x.2.members.contains th))))

/-- The bundles that an alcove may start: launch priority, age, group, team key, index. -/
def State.startable (s : State) (core alcove : Nat) : List (Nat × Nat × Nat × Nat × Nat) :=
  s.teams.flatMap (fun kt =>
    (kt.2.bundles.zipIdx.filter (fun x =>
      kt.2.canStart x.1 && kt.2.bundleCore x.1 = core && kt.2.alcoveOf x.1 = alcove)).map (fun x =>
        (kt.2.prio, x.1.age, (sortUp (x.1.members.map kt.2.groupOf)).headD 0, kt.1, x.2)))

/-- Whether a bundle of an alcove stands ready inside a clause (R295): it continues before a new clause starts. -/
def State.alcoveBusy (s : State) (core alcove : Nat) : Bool :=
  s.teams.any (fun kt => kt.2.bundles.zipIdx.any (fun x =>
    kt.2.bundleCore x.1 = core && kt.2.alcoveOf x.1 = alcove && kt.2.issues x.1 && s.readyInside kt.1 x.2 kt.2 x.1))

/-- The first to start: the highest priority, then the oldest, then the lowest group. Among bundles equal in all three
(two parts of one bundle, or bundles of two teams) the manual names none: the first by team and bundle starts
(log 77). -/
def firstToStart (l : List (Nat × Nat × Nat × Nat × Nat)) : Option (Nat × Nat) :=
  (l.foldl (fun (best : Option (Nat × Nat × Nat × Nat × Nat)) x =>
    match best with
    | none => some x
    | some b =>
      if b.1 < x.1 || (b.1 = x.1 && (x.2.1 < b.2.1 || (x.2.1 = b.2.1 && x.2.2.1 < b.2.2.1))) then some x else some b)
    none).map (fun x => x.2.2.2)

/-- Whether a bundle stands at the start of the clause at an address, free to be packed there (R26, R28): not at a word
inside it, where a restored bundle will go on (R300). -/
def Bundle.startsAt (x : Bundle) (pc : DWord) (handler : Bool) : Bool :=
  x.pc = pc && x.clause.isNone && x.resume.isNone && x.wait = .ready && x.handler = handler

/-- The core packs some threads that stand at one clause address into a bundle which is about to start it (R26, R28):
whole bundles of one group anywhere, parts of bundles and threads of several groups only where all of them stand at a
regroup point. Distinct home lanes; what is left of a bundle stays one. None where the core may not do so. -/
def Team.pack (t : Team) (bi : Nat) (c : Clause) (threads : List Nat) : Option Team :=
  match t.bundle bi with
  | none => none
  | some b =>
    let sources := (t.bundles.zipIdx.map (fun x => (x.2, x.1))).filter (fun x => x.2.members.any threads.contains)
    let whole := sources.all (fun x => x.2.members.all threads.contains) && (sortUp (threads.map t.groupOf)).length = 1
    let lanes := threads.map t.laneOf
    if sources.any (fun x => x.1 = bi) &&
        threads.all (fun th => sources.any (fun x => x.2.members.contains th)) &&
        sources.all (fun x => x.2.startsAt b.pc b.handler) &&
        (sortUp lanes).length = threads.length && (whole || sources.all (fun x => x.2.atRegroup c)) then
      let rest := b.members.filter (fun th => !threads.contains th)
      let t : Team := { t with bundles := t.bundles.map (fun x =>
        { x with members := x.members.filter (fun th => !threads.contains th) }) }
      let t := t.mapBundle bi (fun b => { b with members := sortUp threads })
      some (if rest.isEmpty then t else { t with bundles := t.bundles ++ [{ b with members := rest }] })
    else none

/-- CLAUSE_START (R295): the alcove's first ready bundle starts its clause, as it stands or with the threads that the
core packs into it here; a convergent clause joins its whole group. -/
def State.clauseStart (s : State) (core alcove : Nat) (threads : List Nat) : State :=
  if s.alcoveBusy core alcove then s
  else
    match firstToStart (s.startable core alcove) with
    | none => s
    | some (tk, bi) =>
      s.mapTeam tk (fun t =>
        match t.bundle bi with
        | none => t
        | some b =>
          let c := b.held.getD default
          let t := if c.convergentAt.isSome
            then t.join bi (t.standing (t.groupOf (b.members.headD 0)) b.pc)
            else
              match t.pack bi c threads with
              | none => t
              | some t' =>
                match t'.bundle bi with
                | some b' => if t'.canStart b' then t' else t
                | none => t
          t.mapBundle bi (fun b =>
            { b with clause := some c, idx := 0, held := none, parked := false, regroup := false, going := true,
                     age := s.cycle core }))
def execClauseStart (core alcove : Nat) (threads : List Nat) (s : State) : Out :=
  .next (s.clauseStart core alcove threads)

end Sys2Proof.Machine
end

