-- ==== Sys2Proof/Machine/Completion.lean ====
section
/-!
DEFINITION. Events that end what a word began: completions (R140, R142), retirements (R144 to R146), commits
(R283), gate rejections (R130), dirty-line queries (R102, R344), ends of waits (R248, R252, R255), pins (R124),
emulated tiles (R316), and group-call replies (R320).
-/
namespace Sys2Proof.Machine

/-! ### COUNTED_WORD_COMPLETION (R140, R142) -/

/-- The value of a thread's access, where every part of it has been taken. -/
def CWord.value (w : CWord) (th : Nat) : Option Nat :=
  let ls := w.lanes.filter (fun l => l.thread = th)
  if ls.all (fun l => l.taken.isSome) then
    some ((ls.map (fun l => l.taken.getD 0 * 2 ^ (8 * l.off))).foldl (· + ·) 0)
  else none

/-- The 32-bit words that a value of an access gives its registers (R228, R230, R232). -/
def CWord.regWords (w : CWord) (x : Nat) : List Word :=
  if w.l6 then unpackL6 x
  else if w.signed then
    [BitVec.ofInt 32 (signedNat (8 * w.size) x)]
  else (upFrom 0 4).map (fun i => BitVec.ofNat 32 (x / 2 ^ (32 * i)))

/-- The writes of a thread's access. -/
def CWord.laneWrites (w : CWord) (th x : Nat) : List RegWrite :=
  match w.lanes.find? (fun l => l.thread = th) with
  | none => []
  | some l => (l.regs.zip (w.regWords x)).map (fun p => { thread := th, reg := p.1, value := p.2 })

/-- A queue port as a destination. -/
def isPipe (n : Nat) : Bool := 1024 ≤ n && n < 1040

/-- The lanes of some threads take their values where they can, after the earlier loads they must follow. -/
def State.takeLanes (s : State) (id : Nat) (threads : List Nat) : State :=
  match s.word id with
  | none => s
  | some w =>
    (w.lanes.filter (fun l => threads.contains l.thread && l.taken.isNone)).foldl (fun s l =>
      s.takeAll (mustPrecede (s.untaken w.team l.thread id).reverse [l.place] ++ [(id, l)])) s

/-- Destinations of some threads are written: of the accesses whose value is taken, and of results known. -/
def State.writeLanes (s : State) (id : Nat) (threads : List Nat) : State :=
  match s.word id with
  | none => s
  | some w =>
    let ready := threads.filter (fun th => w.lanes.any (fun l => l.thread = th) && (w.value th).isSome)
    let ws := ready.flatMap (fun th => w.laneWrites th ((w.value th).getD 0)) ++
      w.writes.filter (fun x => threads.contains x.thread && !isPipe x.reg)
    (s.mapTeam w.team (fun t => ws.foldl Team.writeReg t)).setWord
      { w with lanes := w.lanes.filter (fun l => !ready.contains l.thread),
               writes := w.writes.filter (fun x => !threads.contains x.thread || isPipe x.reg) }

/-- Whether a word owes nothing but an entry of a pipe. -/
def CWord.settled (w : CWord) : Bool :=
  w.lanes.isEmpty && w.projs.isEmpty && w.calls.isEmpty && w.tile.isNone &&
  w.writes.all (fun x => isPipe x.reg) && w.markings.all (fun m => m.plinths.isEmpty)

/-- The scratch stores of a word, with the earlier ones of its threads, are performed where they can. -/
def State.performOwn (s : State) (w : CWord) : State :=
  s.commitAll ((s.stores.filter (fun st => st.team = w.team && st.place.scratch && st.word ≤ w.id &&
    s.stores.any (fun x => x.word = w.id && x.thread = st.thread))).map (·.id))

/-- Whether the store of a tile that a word made has still to be performed (R216); one that is held
until the return from a halt is not waited for (R284). -/
def State.owesTile (s : State) (w : CWord) : Bool :=
  match s.team w.team with
  | some t => s.stores.any (fun st => st.word = w.id && st.tile.isSome && st.stranded.isNone && !t.heldStore st)
  | none => false

/-- The word completes: its entry enters the pipe, its flags fall (R140, R107). -/
def State.endWord (s : State) (w : CWord) : State :=
  match s.team w.team with
  | none => { s with words := s.words.filter (fun x => x.id ≠ w.id) }
  | some _ =>
    let s := s.mapTeam w.team (fun t =>
      let entry : Sparse Word := w.writes.foldl (fun e x => Sparse.put e 0 (t.laneOf x.thread) x.value) []
      let t := match w.pipe with
        | none => t
        | some q => { t with pipes := Sparse.put t.pipes [] q (t.pipe q ++ [entry]),
                             pipeUsed := Sparse.put t.pipeUsed (0, 0) q (s.cycle t.core, t.alcoveRank w.lead) }
      t.lowerFlag w.groups w.flag)
    { s with words := s.words.filter (fun x => x.id ≠ w.id) }

/-- Whether the entry of a word has to wait for the next cycle: its pipe has served a later alcove in this one (R108). -/
def State.pipeWaits (s : State) (w : CWord) : Bool :=
  match s.team w.team, w.pipe with
  | some t, some q => s.pipeServed t q w.lead
  | _, _ => false

/-- COUNTED_WORD_COMPLETION (R140): the lanes of some threads complete; the word completes with the last, an MSTS with its
last byte (R216). -/
def State.completeWord (s : State) (id : Nat) (threads : List Nat) : State :=
  let s := (s.takeLanes id threads).writeLanes id threads
  match s.word id with
  | none => s
  | some w =>
    if !w.settled then s
    else
      let s := s.performOwn w
      if s.owesTile w || s.pipeWaits w then s else s.endWord w
def execCountedWordCompletion (id : Nat) (threads : List Nat) (s : State) : Out := .next (s.completeWord id threads)

/-! ### ENGINE_OPERATION_RETIREMENT (R144 to R146) -/

/-- Whether an operation has ended. -/
def State.opEnded (s : State) (o : Op) : Bool :=
  match o.kind with
  | .copy ls => ls.all CopyLane.complete && s.chainedDone o.id
  | .cpyc _ ls => ls.all (fun l => l.done)
  | .view ps _ => ps.isEmpty
  | .xprog _ _ ps _ => ps.isEmpty
  | .xcal ks => ks.all (fun k => (s.array k).ast ≠ 3)
  | .chained => s.chainedDone o.id
  | .relink .. => o.done

/-- What a retirement writes in its team. -/
def Team.retire (t : Team) (o : Op) : Team :=
  let t := match o.kind with
    | .view _ ws => ws.foldl Team.writeReg t
    | .xprog reg _ _ st => t.mapGroup o.group (fun g =>
        let v := Sparse.get g.views {} reg
        { g with views := Sparse.put g.views {} reg { v with fourth := BitVec.ofNat 32 (setBits v.fourth.toNat 18 16 st) } })
    | _ => t
  t.lowerCounter o.group o.cls

/-- The oldest operation of a class of a group. -/
def State.oldestOp (s : State) (tk g cls : Nat) : Option Op :=
  s.ops.find? (fun o => o.team = tk && o.group = g && o.cls = cls)

/-- ENGINE_OPERATION_RETIREMENT (R145): in issue order. -/
def State.retireOp (s : State) (tk g cls : Nat) : State :=
  match s.oldestOp tk g cls with
  | none => s
  | some o =>
    if s.opEnded o then { s.mapTeam tk (fun t => t.retire o) with ops := s.ops.filter (fun x => x.id ≠ o.id) }
    else s
def execEngineOperationRetirement (tk g cls : Nat) (s : State) : Out := .next (s.retireOp tk g cls)

/-! ### STORE_COMMIT, BRIDGE_GATE_REJECT, DIRTY_LINE_QUERY -/

/-- STORE_COMMIT (R283): an accepted store, or a plinth's write of RES that waits (R350). -/
def execStoreCommit (store : Nat) (s : State) : Out := .next ((s.commit store).commitRes store)

/-- A landing entry that the gate of its step drops (R130). -/
def State.rejectLanding (s : State) (y : Flying) : State :=
  { s with landing := s.landing.erase y }.gateFault y.team y.thread y.va
    (4 * y.die + ((s.flight y.flight).quadOf y.die).getD 0) y.clause y.widx

/-- An accepted store or atomic that a gate drops (R130). -/
def State.rejectStore (s : State) (st : Store) (part : Nat) : State :=
  ({ s with stores := s.stores.filter (fun x => x.id ≠ st.id) }.dropLane st).gateFault st.team st.thread st.va
    part st.clause st.widx

/-- A tail acknowledgement that the gate of the next step on its way drops: it goes no further, and its store owes nothing more
(R130; log 106). -/
def State.rejectAck (s : State) (a : Ack) : State :=
  let d := a.dies.headD 0
  { s with acks := s.acks.erase a }.gateFault a.team a.thread a.va (4 * d + ((s.flight a.flight).quadOf d).getD 0) a.clause
    a.widx

/-- What a closed gate drops of the requests of a thread: a place of the record, with the partition. -/
def State.closedPlace (s : State) (vi : Nat) (ps : List Proj) : Option (Place × Nat) :=
  ps.findSome? (fun p => p.places.findSome? (fun x => (s.closedPart vi x).map (fun q => (x, q))))

/-- BRIDGE_GATE_REJECT (R130): a gate drops a store, a tail acknowledgement, or what a thread's lane asks for, its query to the tail of a flight
included. ADDR of a lane or a store is its global address, and of a record the physical byte or the offset in its chained
page (R301; log 102). -/
def State.gateReject (s : State) (id th : Nat) : State :=
  match s.landing.find? (fun y => y.id = id && !s.entryGate y), s.acks.find? (fun a => a.id = id && !s.ackGate a),
    s.stores.find? (fun st => st.id = id) with
  | some y, _, _ => s.rejectLanding y
  | none, some a, _ => s.rejectAck a
  | none, none, some st =>
    match s.team st.team with
    | none => s
    | some t => ((s.closedPart t.vi st.place).map (s.rejectStore st)).getD s
  | none, none, none =>
    match s.word id with
    | some w =>
      match s.team w.team with
      | none => s
      | some t =>
        match (w.lanes.filter (fun l => l.thread = th && l.taken.isNone)).findSome? (fun l =>
          (s.closedPart t.vi l.place).map (fun q => (l, q))) with
        | some (l, q) => (s.setWord { w with lanes := w.lanes.filter (fun x => x.thread ≠ th) }).gateFault w.team th l.va
            q w.clause w.widx
        | none =>
          match s.closedPlace t.vi (w.projs.filter (fun p => p.thread = th)) with
          | some (p, q) => (s.setWord { w with projs := w.projs.filter (fun x => x.thread ≠ th) }).gateFault w.team th
              (BitVec.ofNat 64 (p.bytes.headD 0)) q w.clause w.widx
          | none => s
    | none =>
      match s.op id with
      | none => s
      | some o =>
        match o.kind, s.team o.team with
        | .view ps ws, some t =>
          match s.closedPlace t.vi (ps.filter (fun p => p.thread = th)) with
          | some (p, q) =>
            (s.setOp { o with kind := .view (ps.filter (fun x => x.thread ≠ th)) (ws.filter (fun x => x.thread ≠ th)) }).gateFault
              o.team th (BitVec.ofNat 64 (p.bytes.headD 0)) q o.clause o.widx
          | none => s
        | _, _ => s
def execBridgeGateReject (id th : Nat) (s : State) : Out := .next (s.gateReject id th)

/-- DIRTY_LINE_QUERY (R102, R344): the tail answers a load that a step holds dirty. -/
def State.dirtyQuery (s : State) (id th : Nat) : State :=
  match s.word id with
  | none => s
  | some w =>
    match s.team w.team with
    | none => s
    | some t =>
      (w.lanes.filter (fun l => l.thread = th && l.taken.isNone && l.place.chain.isSome)).foldl (fun s l =>
        if s.gateOpen t.vi l.place && s.takeReady t w.team th id l.place then
          let s := s.settlePlace w.team th id l.place
          match s.word id with
          | some w => s.takeLane w l
          | none => s
        else s) s
def execDirtyLineQuery (id th : Nat) (s : State) : Out := .next (s.dirtyQuery id th)

/-! ### Ends of waits (R248, R252, R255) -/

/-- A waiting word is tried again on its bundle. -/
def State.reissue (s : State) (tk bi : Nat) (w : WordSpec) : State :=
  match issue w { s with cur := some (tk, bi) } with
  | .next s' => { s' with cur := s.cur }
  | _ => s

/-- A bundle that waits and may go on, with its word. -/
def State.waiting (s : State) (tk bi : Nat) : Option (Team × Bundle × RWord) :=
  match s.team tk with
  | none => none
  | some t =>
    match t.bundle bi with
    | none => none
    | some b => if t.runs b then some (t, b, rFields b.stopWord) else none

/-- MONITOR_WAKE (R248): every lane has a status. -/
def State.monitorWake (s : State) (tk bi : Nat) : State :=
  match s.waiting tk bi with
  | some (t, b, w) =>
    if b.wait = .monitor && (b.frozen.map (·.thread)).all (fun th => (t.waitStatus false th).isSome)
    then s.reissue tk bi (waitmSpec w) else s
  | none => s
def execMonitorWake (tk bi : Nat) (s : State) : Out := .next (s.monitorWake tk bi)

/-- WAITM_BOUND_EXPIRY (R248). -/
def State.waitmExpiry (s : State) (tk bi : Nat) : State :=
  match s.waiting tk bi with
  | some (t, b, w) =>
    let c : Ctx := ⟨s, tk, t, bi, b, t.active b w.guard⟩
    if b.wait = .monitor && c.boundPassed w.a then s.reissue tk bi (waitmSpec w) else s
  | none => s
def execWaitmBoundExpiry (tk bi : Nat) (s : State) : Out := .next (s.waitmExpiry tk bi)

/-- BARW_BOUND_EXPIRY (R252). -/
def State.barwExpiry (s : State) (tk bi : Nat) : State :=
  match s.waiting tk bi with
  | some (t, b, w) =>
    let c : Ctx := ⟨s, tk, t, bi, b, t.active b w.guard⟩
    match b.wait with
    | .barw .. =>
      if c.groups.any (fun g => c.phaseExpired w g) then s.reissue tk bi (barwSpec w) else s
    | _ => s
  | none => s
def execBarwBoundExpiry (tk bi : Nat) (s : State) : Out := .next (s.barwExpiry tk bi)

/-- A sleeping bundle goes on (R255). -/
def Team.wake (t : Team) (bi : Nat) (b : Bundle) : Team :=
  (t.mapBundle bi (fun b => b.advance 1)).countSkid (sortUp (b.members.map t.groupOf))

/-- SLEEP_EXPIRY (R255). -/
def State.sleepExpiry (s : State) (tk bi : Nat) : State :=
  match s.waiting tk bi with
  | some (t, b, _) =>
    match b.wait with
    | .sleep u => if u ≤ s.cycle (t.coreOf (t.groupOf (b.members.headD 0))) then s.mapTeam tk (fun t => t.wake bi b) else s
    | _ => s
  | none => s
def execSleepExpiry (tk bi : Nat) (s : State) : Out := .next (s.sleepExpiry tk bi)

/-! ### Pins (R123, R124) -/

/-- The pins of the page copy engine: on the source and the target of each migration under way (R123). -/
def State.movePins (s : State) : List Nat :=
  s.dies.flatMap (fun d => d.2.migration.flatMap (fun m => match m.begun with
    | some x => [pinId m.vi (frameBase x.tier x.home x.loc), pinId m.vi (frameBase x.toTier x.toHome x.toLoc)]
    | none => []))

/-- Pins that requests, copies and migrations under way hold on a frame. -/
def State.pinsHeld (s : State) (id : Nat) : Nat :=
  let count (l : List Nat) : Nat := (l.filter (· = id)).length
  count s.movePins +
  (s.words.map (fun w => count (projPins (w.projs.filter (fun p => p.record.isEmpty))))).foldl (· + ·) 0 +
  (s.ops.map (fun o => match o.kind with
    | .view ps _ => count (projPins (ps.filter (fun p => p.record.isEmpty)))
    | .copy ls => count ((ls.filter (fun l => !l.complete)).flatMap (·.pins))
    | .cpyc _ ls => count ((ls.filter (fun l => !l.complete)).flatMap (·.pins))
    | _ => 0)).foldl (· + ·) 0

/-- PIN_RELEASE (R124): a pin that nothing holds any more drains; a draining frame without pins is freed. -/
def State.pinRelease (s : State) (id : Nat) : State :=
  let d := s.pinDesc id
  if d.pins ≤ s.pinsHeld id then s
  else
    let s := s.setPinDesc id { d with pins := d.pins - 1 }
    if d.pins = 1 && d.state = 2 then
      let x := id % 2 ^ 40
      if x < 2 ^ 24 then s.freeFrame 0 0 (x / 524288) (x % 524288)
      else if x < 2 ^ 33 then s.freeFrame (id / 2 ^ 40) 1 0 (x - 2 ^ 24)
      else s.freeFrame (id / 2 ^ 40) 2 0 (x - 2 ^ 33)
    else s
def execPinRelease (frame : Nat) (s : State) : Out := .next (s.pinRelease frame)

/-! ### FORMAT_EMULATION (R316) and GROUP_CALL_SERVICE (R320) -/

/-- FORMAT_EMULATION (R316): the oldest emulated word of its tile enters the tile. -/
def State.formatEmulation (s : State) (id : Nat) : State :=
  match s.teams.find? (fun kt => kt.2.emulated.any (fun e => e.id = id)) with
  | none => s
  | some (tk, t) =>
    match t.emulated.find? (fun e => e.id = id) with
    | none => s
    | some e =>
      if (s.die (coreDie t.core)).switching ||
          (t.emulated.takeWhile (fun x => x.id ≠ id)).any (fun x => x.tile = e.tile) ||
          s.words.any (fun w => w.team = tk && w.id < id && w.tile = some e.tile) then s
      else s.mapTeam tk (fun t =>
        { t.mma e.tile e.format e.accumulate e.fragA e.fragB e.tag with
          emulated := t.emulated.filter (fun x => x.id ≠ id) })
def execFormatEmulation (id : Nat) (s : State) : Out := .next (s.formatEmulation id)

/-- The reply of a die's firmware to one lane (R320). Log 8. -/
def Die.reply (d : Die) (service request : Word) (lane fresh : Nat) : Word :=
  let offers (x : Word) : Bool := x = 0 || x = 1 || Config.serviceOffered d.firmware x
  if service = 0 then request
  else if service = 1 then (if offers request then 1 else 0)
  else if offers service then Config.serviceReply service request lane fresh
  else 0xFFFFFFFF

/-- The reply entries that a firmware service makes for reply ports (R111, R320), addressed to the calling group. Log 103. -/
def Die.portReplies (d : Die) (r : Call) (t : Team) (fresh : Nat) : List Reply :=
  if r.service = 0 || r.service = 1 || !Config.serviceOffered d.firmware r.service then []
  else
    ((Config.portReplies r.service (r.lanes.map (fun l => l.2.2)) fresh).filter (fun x => 17 ≤ x.1 && x.1 < 24)).map (fun x =>
      { launch := t.launch, teamIx := t.index, group := r.group, port := x.1,
        entry := ofPairs 0 ((upFrom 0 t.decl.width).map (fun l => (l, x.2.getD l 0))) })

/-- Whether a reply port holds fewer than 8 entries (R106, R111). -/
def Team.portRoom (t : Team) (q : Nat) : Bool := (t.replies.filter (fun r => r.1 = q)).length + t.owed q < 8

/-- A reply that firmware keeps goes to its team: to the port where that has room (R111), to nothing where the team has
ended; otherwise it is kept. -/
def State.deliverReply (s : State) (die : Nat) (r : Reply) : State :=
  let taken : State := s.setDie die { s.die die with owed := (s.die die).owed.erase r }
  let mine (t : Team) : Bool := t.launch = r.launch && t.index = r.teamIx
  match s.teams.find? (fun kt => mine kt.2) with
  | some (tk, t) =>
    if t.portRoom r.port then taken.mapTeam tk (fun t => { t with replies := t.replies ++ [(r.port, r.group, r.entry)] })
    else s
  | none => if s.saved.any (fun v => mine v.team) then s else taken

/-- The replies that a die's firmware keeps are delivered, oldest first, where they can be. -/
def State.deliverReplies (s : State) (die : Nat) : State :=
  (s.die die).owed.foldl (fun s r => s.deliverReply die r) s

/-- The control core serves its next record (R320): the reply is an acquire at .ten. -/
def State.serveNext (s : State) (die : Nat) : State :=
  let d := s.die die
  match d.service with
  | [] => s
  | r :: rest =>
    if d.switching then s
    else
      let s := { s.setDie die { d with service := rest } with freeIx := s.freeIx + 1 }
      match s.word r.word, s.team r.team with
      | some w, some t =>
        let lanes := if 768 ≤ r.dest && r.dest < 1024 then r.lanes.take 1 else r.lanes
        let ws := lanes.map (fun l => { thread := l.2.1, reg := r.dest,
                                        value := d.reply r.service l.2.2 l.1 s.freeIx : RegWrite })
        let s := s.setDie die { s.die die with owed := d.owed ++ d.portReplies r t s.freeIx }
        (s.setWord { w with writes := w.writes ++ ws, calls := w.calls.filter (· ≠ r.group) }).acquire t r.group 3
      | _, _ => s

/-- GROUP_CALL_SERVICE (R320, R111): the control core serves its next record, and the replies that it keeps for reply ports
are delivered where these have room. -/
def State.serveCall (s : State) (die : Nat) : State := (s.serveNext die).deliverReplies die
def execGroupCallService (die : Nat) (s : State) : Out := .next (s.serveCall die)

end Sys2Proof.Machine
end

