-- ==== Sys2Proof/Machine/Paging.lean ====
section
/-!
DEFINITION. The MMU's and firmware's service of pages: copy-on-write for a parked store (R126), migration (R128), the
replay of parked accesses (R129), and faults that firmware cannot resolve (R318).
-/
namespace Sys2Proof.Machine

/-! ### The MMU's copy-on-write (R126) -/

/-- COPY_ON_WRITE (R126): the MMU serves a parked store. -/
def State.copyOnWrite (s : State) (tk bi : Nat) : State :=
  match s.team tk with
  | none => s
  | some t =>
    match t.bundle bi with
    | none => s
    | some b =>
      match b.wait with
      | .replay 0x13 _ va _ =>
        let s := s.touchPage t.ctx t.vi va
        (match s.leaf t.ctx va with
         | some a =>
           if pteV (s.pte a) && pteCow (s.pte a) then (s.resolveCow t.ctx t.vi a).getD s else s
         | none => s)
      | _ => s
def execCopyOnWrite (tk bi : Nat) (s : State) : Out := .next (s.copyOnWrite tk bi)

/-! ### Migration (R128) -/

/-- The loads of a page that has moved are served from its new frame, which holds the same bytes. -/
def State.moveLoads (s : State) (x base home : Nat) : State :=
  { s with words := s.words.map (fun w => { w with lanes := w.lanes.map (fun l =>
      if l.taken.isNone && onPage x l.place then
        { l with place := { l.place with bytes := l.place.bytes.map (fun a => a % 65536 + base), home := home } }
      else l) }) }

/-- Steps 1 and 2 of R128 for the plain page at a PTE: a target frame is taken, both frames are migrating, and the page
copy engine pins them (R123). The accepted stores of the page are written first. None while no frame is free in the
target, while the pin would wait, or while a store cannot be written yet. -/
def State.beginMove (s : State) (vi a tier part : Nat) : Option (State × Move) :=
  let x := s.pte a
  let s := s.commitPage x
  let src := pinId vi (pteBase x)
  let home := if tier = 0 then part else pteHome x
  if s.storesOn x || s.pinFull [src] then none
  else
    (s.takeFrame vi tier home).map (fun r =>
      let m : Move := ⟨pteTier x, pteHome x, pteLoc x, tier, home, r.1⟩
      let s := r.2.setDesc vi tier home r.1 { r.2.desc vi tier home r.1 with state := 3 }
      let d := s.desc vi m.tier m.home m.loc
      let s := s.setDesc vi m.tier m.home m.loc { d with state := 3 }
      (s.pin [src, pinId vi (frameBase tier home r.1)], m))

/-- The page copy engine gives a pin back. -/
def State.unpin (s : State) (id : Nat) : State :=
  let d := s.pinDesc id
  s.setPinDesc id { d with pins := d.pins - 1 }

/-- Steps 3 to 5 of R128: the copy is made, the ring is rewritten, the target is in use, and the source follows R124.
Where the source lost its last mapping meanwhile, the target is freed and the source drains. -/
def State.endMove (s : State) (vi : Nat) (m : Move) : State :=
  let src := frameBase m.tier m.home m.loc
  let dst := frameBase m.toTier m.toHome m.toLoc
  let s := (s.unpin (pinId vi src)).unpin (pinId vi dst)
  let d := s.desc vi m.tier m.home m.loc
  if d.state ≠ 3 then
    let s := s.freeFrame vi m.toTier m.toHome m.toLoc
    if d.state = 2 && d.pins = 0 then s.freeFrame vi m.tier m.home m.loc else s
  else
    let x := s.pte d.ring
    let s := s.copyFrame src dst
    let s := s.setDesc vi m.toTier m.toHome m.toLoc
      { s.desc vi m.toTier m.toHome m.toLoc with refs := d.refs, state := 1, rmpa := d.rmpa, rmpart := d.rmpart }
    let s := (s.ringOf d).foldl (fun s b =>
      s.setPte b (setBits (setBits (setBits (s.pte b) 47 43 m.toHome) 42 41 m.toTier) 79 48 m.toLoc)) s
    let s := (s.moveMonitors (fun _ _ => true) (src / 128) (dst / 128)).moveLoads x dst m.toHome
    (s.setDesc vi m.tier m.home m.loc { d.setRing 0 with refs := 0 }).dropFrame vi m.tier m.home m.loc

/-- What a request of the queue needs now. -/
inductive Need where
  /-- nothing any more: its cause is gone -/
  | nothing
  /-- a frame that is not free, or another migration of the page that has to end -/
  | waits
  /-- the page at a PTE moves to a tier and partition -/
  | move (pte tier part : Nat)
  /-- a MIGRATE command that is refused with a STATUS -/
  | refused (status : Nat)

/-- The service of a residency or copy-on-write request (R126, R128): a T2 page moves to T0 of HOME where a frame is
free there, otherwise to T1. A request for a frame waits at the head of its queue while none is free (R115; log 92). -/
def State.needOf (s : State) (m : Migrate) : Need :=
  match s.leaf m.ctx m.va.toNat with
  | none => .nothing
  | some a =>
    let x := s.pte a
    if !pteV x then
      if pteDemand x && (s.part (pteHome x)).freecnt = 0 then .waits else .nothing
    else if s.pteReserved m.vi x then .nothing
    else if pteTier x = 2 then
      if (s.pageDesc m.vi x).state = 3 then .waits
      else if (s.part (pteHome x)).freecnt ≠ 0 then .move a 0 (pteHome x)
      else .move a 1 0
    else if pteCow x && !s.cowFrames m.vi a then .waits
    else .nothing

/-- The service of a MIGRATE command's request (R127, R128). -/
def State.needOfHost (s : State) (m : Migrate) (tier part : Nat) : Need :=
  match s.leaf m.ctx m.va.toNat with
  | none => .refused 2
  | some a =>
    let x := s.pte a
    if !pteV x || pteClass x = 1 || s.pteReserved m.vi x || (s.pageDesc m.vi x).state ≠ 1 then .refused 2
    else if (s.takeFrame m.vi tier (if tier = 0 then part else pteHome x)).isNone then .refused 3
    else .move a tier part

/-- The oldest request of a die leaves its queue; a MIGRATE command learns its STATUS. -/
def State.endRequest (s : State) (die : Nat) (m : Migrate) (status : Nat) : State :=
  let d := s.die die
  let s := s.setDie die { d with migration := d.migration.tail }
  let x := s.fn physicalFn
  if m.target.isSome && x.moved = some 0 then s.setFn physicalFn { x with moved := some status } else s

/-- MIGRATION (R128): the control core serves the oldest request of its die (R106, R115): a migration begins, and a later
step ends it. While the die switches its firmware, requests wait but for the one in hand (R330). -/
def State.serveMigration (s : State) (die : Nat) : State :=
  match (s.die die).migration with
  | [] => s
  | m :: rest =>
    match m.begun with
    | some x =>
      let done := (s.desc m.vi x.tier x.home x.loc).state = 3
      (s.endMove m.vi x).endRequest die m (if done then 1 else 2)
    | none =>
      if (s.die die).switching then s
      else
        match (match m.target with
               | some t => s.needOfHost m t.1 t.2
               | none => s.needOf m) with
        | .nothing => s.endRequest die m 1
        | .refused k => s.endRequest die m k
        | .waits => s
        | .move a tier part =>
          match s.beginMove m.vi a tier part with
          | none => s
          | some (s, x) => s.setDie die { s.die die with migration := { m with begun := some x } :: rest }
def execMigration (die : Nat) (s : State) : Out := .next (s.serveMigration die)

/-! ### Replay (R129) and faults without a service (R318) -/

/-- Whether a bundle with an earlier access parked on the same page has still to make it (R126, R129). -/
def State.replaysFirst (s : State) (t : Team) (b : Bundle) (va : Nat) : Bool :=
  s.teams.any (fun kt => kt.2.bundles.any (fun y =>
    !y.frozen.isEmpty && y.since.getD 0 < b.since.getD 0 && kt.2.runs y &&
    (match y.wait with
     | .replay _ _ va' _ => s.leaf kt.2.ctx va' = s.leaf t.ctx va && (s.leaf t.ctx va).isSome
     | .ready => true
     | _ => false)))

/-- The check that a parked access meets now. -/
def State.parkedCheck (s : State) (t : Team) (b : Bundle) (va : Nat) (write : Bool) : Check :=
  s.checkPage t.ctx t.vi (coreDie (t.coreOf (t.groupOf (b.members.headD 0)))) (if write then .store else .load) va

/-- FAULT_REPLAY (R129): a parked access whose cause is served is made again, in the order of parking; while the
cause stands, its request stands in the die's queue (R115). -/
def State.faultReplay (s : State) (tk bi : Nat) : State :=
  match s.team tk with
  | none => s
  | some t =>
    match t.bundle bi with
    | none => s
    | some b =>
      let die := coreDie (t.coreOf (t.groupOf (b.members.headD 0)))
      let go (va : Nat) (write : Bool) (cause : Option Nat) : State :=
        match s.parkedCheck t b va write with
        | .replay c =>
          if cause.isNone || cause = some c then
            s.postMigration die { ctx := t.ctx, vi := t.vi, va := BitVec.ofNat 64 va }
          else s.mapTeam tk (fun t => t.mapBundle bi (fun b => { b with wait := .ready }))
        | _ =>
          if s.replaysFirst t b va then s
          else s.mapTeam tk (fun t => t.mapBundle bi (fun b => { b with wait := .ready }))
      match b.wait with
      | .replay c _ va write => go va write (some c)
      | .fetchReplay va => go va false none
      | _ => s
def execFaultReplay (tk bi : Nat) (s : State) : Out := .next (s.faultReplay tk bi)

/-- A service gives up a page: its request leaves the queue, where its migration has not begun. -/
def State.giveUp (s : State) (t : Team) (b : Bundle) (va : Nat) : State :=
  let die := coreDie (t.coreOf (t.groupOf (b.members.headD 0)))
  let d := s.die die
  s.setDie die { d with migration := d.migration.filter (fun m =>
    m.begun.isSome || m.target.isSome || m.ctx ≠ t.ctx || m.va.toNat / 65536 ≠ va / 65536) }

/-- Whether a parked bundle can trap now (R314, R315): its team is not halted, a halt of it spreads, or the bundle runs the
handler. -/
def Team.mayGiveUp (t : Team) (b : Bundle) : Bool :=
  t.saving.isNone && (!t.isHalted || t.stops || (t.inHandler && b.handler))

/-- UNRESOLVED_FAULT (R318): a residency fault, or a copy-on-write without a frame, that its service gives up. The faults of a
die wait while it switches to another firmware (R330). -/
def State.unresolvedFault (s : State) (tk bi : Nat) : State :=
  match s.team tk with
  | none => s
  | some t =>
    match t.bundle bi with
    | none => s
    | some b =>
      let info (c : Nat) (ths : List Nat) (va : Nat) : TrapInfo :=
        { cause := BitVec.ofNat 8 c, mask := t.mask ths, addr := BitVec.ofNat 64 va, unres := true }
      let lost (c : Nat) (va : Nat) (write : Bool) : Bool :=
        t.mayGiveUp b && !(s.die (coreDie (t.coreOf (t.groupOf (b.members.headD 0))))).switching && s.parkedCheck t b va write = .replay c &&
        (c = 0x12 || (c = 0x13 && !(((s.leaf t.ctx va).map (s.cowFrames t.vi)).getD true)))
      match b.wait with
      | .replay c ths va write =>
        if lost c va write then raiseTrap (s.giveUp t b va) tk bi (info c ths va) else s
      | .fetchReplay va => if lost 0x12 va false then raiseTrap (s.giveUp t b va) tk bi (info 0x12 b.members va) else s
      | _ => s
def execUnresolvedFault (tk bi : Nat) (s : State) : Out := .next (s.unresolvedFault tk bi)

end Sys2Proof.Machine
end

