-- ==== Sys2Proof/Machine/Chain.lean ====
section
/-!
DEFINITION. What moves along a flight (R102, R116, R133, R263): chained stores from step to step, tail
acknowledgements back, the copy to a joining step, and the ends of joins and drains.
-/
namespace Sys2Proof.Machine

/-- CHAIN_STORE_APPLY (R116, R133): the oldest landing entry of a flight on a die is applied and passed on; where the step
holds its forwarding, the oldest entry not yet applied is applied in its place. A closed gate lets neither through
(R130). -/
def State.chainApply (s : State) (die fl : Nat) : State :=
  let mine (y : Flying) : Bool := y.die = die && y.flight = fl
  match s.landing.find? mine with
  | none => s
  | some y =>
    if !s.entryGate y then s
    else if s.mayPass y then { s with landing := s.landing.erase y }.passOn y
    else
      match s.landing.find? (fun y => mine y && !y.applied) with
      | none => s
      | some y =>
        if (s.flight fl).forwardsOnly die then s
        else
          let s := s.applyStep y
          { s with landing := s.landing.map (fun z => if z = y then { z with applied := true } else z) }
def execChainStoreApply (die fl : Nat) (s : State) : Out := .next (s.chainApply die fl)

/-- Whether a store applied at a die after another is still unacknowledged there: an acknowledgement that has not
passed the die, or a landing entry beyond it or one that the die itself still holds (R344). -/
def State.laterAt (s : State) (a : Ack) (d : Nat) : Bool :=
  s.acks.any (fun b => b ≠ a && b.flight = a.flight && b.entry = a.entry && b.line = a.line && b.dies.contains d) ||
  s.landing.any (fun y => y.flight = a.flight && y.entry = a.entry && y.offsets.any (fun o => o / 128 = a.line) &&
    (((s.flight a.flight).before y.die).contains d || (y.die = d && y.applied)))

/-- TAIL_ACKNOWLEDGEMENT (R102, R133): it passes the next die towards the head, where it cleans the line after the
last store applied there; past the head it reaches the issuer. A closed gate does not let it in (R130). -/
def State.acknowledged (s : State) (fl store : Nat) : State :=
  match s.acks.find? (fun a => a.flight = fl && a.id = store && s.ackGate a) with
  | none => s
  | some a =>
    match a.dies with
    | [] => { s with acks := s.acks.erase a }
    | d :: rest =>
      { s with
        acks := s.acks.map (fun b => if b = a then { b with dies := rest } else b)
        chainDirty := if s.laterAt a d then s.chainDirty
          else s.chainDirty.filter (fun x => x ≠ (d, a.flight, a.entry, a.line)) }
def execTailAcknowledgement (fl store : Nat) (s : State) : Out := .next (s.acknowledged fl store)

/-- The joining step of a flight. -/
def Flight.joiner (f : Flight) : Option (Nat × Nat × Nat) := f.stepList.find? (fun x => x.1 = 2)

/-- Whether the chain engine's packets of a flight reach both the tail's partition and the joining step's (R130). -/
def State.joinGates (s : State) (f : Flight) : Bool :=
  (f.tail.toList ++ f.joiner.toList).all (fun x => s.gateOf (4 * x.2.1 + x.2.2) f.owner)

/-- JOIN_COPY (R133): the chain engine copies the next page map entry from the tail to the joining step. Behind a closed gate
the copy does not advance (R130; log 105). -/
def State.joinCopy (s : State) (fl : Nat) : State :=
  let f := s.flight fl
  match f.joiner with
  | none => s
  | some (_, d, _) =>
    if f.npage ≤ f.copypos || !s.joinGates f then s
    else
      let s := match s.tailAddr fl f.copypos 0, s.chainAddr f f.copypos d 0 with
        | some src, some dst => s.copyFrame src dst
        | _, _ => s
      s.setFlight fl { f with copypos := f.copypos + 1 }
def execJoinCopy (fl : Nat) (s : State) : Out := .next (s.joinCopy fl)

/-- Applies a change to every re-link that has not ended, those of saved teams too (R299). -/
def State.mapRelinks (s : State) (f : Op → Op) : State :=
  { s with ops := s.ops.map f, saved := s.saved.map (fun v => { v with relinks := v.relinks.map f }) }

/-- A re-link ends. -/
def endRelink (fl : Nat) (isIt : Option Nat → Option Nat → Bool) (o : Op) : Op :=
  match o.kind with
  | .relink f j l => if f = fl && isIt j l then { o with done := true } else o
  | _ => o

/-- Whether a store that the tail has applied has not been applied at the joining step too: it waits in that step's landing
buffer, or the tail still holds it (R133, R116). -/
def State.joinOwes (s : State) (f : Flight) (fl d : Nat) : Bool :=
  s.landing.any (fun y => y.flight = fl && (y.die = d || (y.applied && f.isTailDie y.die)))

/-- JOIN_COMPLETION (R133, R262): everything is copied, and what the tail has applied has reached the joining step;
that step serves, and is the tail. The old step of an FSWAP becomes leaving. -/
def State.joinComplete (s : State) (fl : Nat) : State :=
  let f := s.flight fl
  match f.joiner with
  | none => s
  | some (_, d, _) =>
    if f.copypos < f.npage || s.joinOwes f fl d then s
    else
      let f := { f with steps := packSteps (f.stepList.map (fun x => if x.2.1 = d then (1, x.2) else x)) }
      let old := (s.ops ++ s.saved.flatMap (·.relinks)).findSome? (fun o => match o.kind with
        | .relink g (some j) (some l) => if g = fl && j = d && !o.done then some l else none
        | _ => none)
      let f := match old with
        | some l => if f.stepList.any (fun x => x.2.1 = l && x.1 = 1) then f.leave l else f
        | none => f
      let s := s.setFlight fl f
      s.mapRelinks (endRelink fl (fun j l => j = some d && (match l with
        | none => true
        | some l => !(f.stepList.any (fun x => x.2.1 = l)))))
def execJoinCompletion (fl : Nat) (s : State) : Out := .next (s.joinComplete fl)

/-- Every line of a frame leaves the L2 (R344). -/
def State.dropFrameLines (s : State) (p fr : Nat) : State :=
  let lo := lineOf (frameBase 0 p fr)
  { s with l2 := s.l2.filter (fun l => l.line < lo || lo + 512 ≤ l.line) }

/-- A step's frames leave a flight (R133, R124, R344): the head's ring passes to the next step that holds a frame. -/
def State.leaveFrames (s : State) (fl : Nat) (d q : Nat) : State :=
  let f := s.flight fl
  (s.entriesInUse f).foldl (fun s e =>
    match s.entryFrame f e d with
    | none => s
    | some fr =>
      let head := s.entryHead f e
      let k := frameKey (4 * d + q) fr
      let s := s.setFrame k { s.frame k with refs := 0, rmpa := 0, rmpart := 0 }
      let s := { s with mem := s.mem.writeLE (f.entryAddr e + 4 * d) 4 0 }
      let s := (s.dropFrameLines (4 * d + q) fr).dropFrame f.owner 0 (4 * d + q) fr
      match s.entryFrames f e with
      | [] => s
      | h :: _ =>
        let k := frameKey (4 * h.1 + h.2.1) h.2.2
        s.setFrame k { s.frame k with rmpa := head.rmpa, rmpart := head.rmpart }) s

/-- A store that a new tail has applied leaves it where it may: to the step that joins behind it, as far as that has room, or as
an acknowledgement (R116, R133). -/
def State.passHeld (s : State) (y : Flying) : State :=
  let first := s.landing.find? (fun z => z.die = y.die && z.flight = y.flight)
  if first = some y && s.mayPass y then { s with landing := s.landing.erase y }.passOn y else s

/-- DRAIN_COMPLETION (R133, R263): a leaving step without landing entries is removed. Where it was the tail, the
predecessor is the tail now, and the stores that it has applied are performed at once: those that it held back, which go on
where they may, and those that wait beyond it. -/
def State.drainComplete (s : State) (fl : Nat) : State :=
  let f := s.flight fl
  match f.stepList.find? (fun x => x.1 = 3 && !(s.landing.any (fun y => y.flight = fl && y.die = x.2.1))) with
  | none => s
  | some (_, d, q) =>
    let wasTail := f.isTailDie d
    let s := s.leaveFrames fl d q
    let f := f.drop d
    let s := s.setFlight fl f
    let s := { s with chainDirty := s.chainDirty.filter (fun x => !(x.1 = d && x.2.1 = fl)) }
    let s := s.mapRelinks (endRelink fl (fun j l => l = some d && j ≠ some d &&
      (match j with
       | some j => !(f.stepList.any (fun x => x.2.1 = j && x.1 = 2))
       | none => true)))
    match wasTail, f.tail with
    | true, some (_, t, _) =>
      let held := s.landing.filter (fun y => y.flight = fl && y.die = t && y.applied)
      let beyond := s.landing.filter (fun y => y.flight = fl && (f.before y.die).contains t)
      let s := { s with chainDirty := s.chainDirty.filter (fun x => !(x.1 = t && x.2.1 = fl)) }
      held.foldl State.passHeld ((beyond ++ held).foldl State.seen s)
    | _, _ => s
def execDrainCompletion (fl : Nat) (s : State) : Out := .next (s.drainComplete fl)

end Sys2Proof.Machine
end

