-- ==== Sys2Proof/Machine/Copies.lean ====
section
/-!
DEFINITION. The copy engine: the units of a copy (R256, R257), and the slots of circular buffers (R113).
-/
namespace Sys2Proof.Machine

/-! ### COPY_UNIT_TRANSFER (R256, R257) -/

/-- What names a lane within its operation: its thread, and which of the thread's lanes it is (R117). -/
def CopyLane.key (l : CopyLane) : Nat := l.thread + 4096 * l.nth

/-- Changes one lane of an operation. -/
def Op.mapLane (o : Op) (key : Nat) (f : CopyLane → CopyLane) : Op :=
  let go (ls : List CopyLane) : List CopyLane := ls.map (fun l => if l.key = key then f l else l)
  { o with kind := match o.kind with
      | .copy ls => .copy (go ls)
      | .cpyc b ls => .cpyc b (go ls)
      | k => k }

/-- A lane of an operation. -/
def Op.lane (o : Op) (key : Nat) : Option CopyLane :=
  match o.kind with
  | .copy ls => ls.find? (fun l => l.key = key)
  | .cpyc _ ls => ls.find? (fun l => l.key = key)
  | _ => none

/-- The threads of a copy word's lanes: its active lanes. -/
def Op.copyThreads (o : Op) : List Nat :=
  match o.kind with
  | .copy ls => ls.map (·.thread)
  | .cpyc _ ls => ls.map (·.thread)
  | _ => []

/-- A fault ends a lane's copy (R256): it is reported against the word. -/
def State.failLane (s : State) (o : Op) (key : Nat) (info : TrapInfo) : State :=
  (s.setOp (o.mapLane key (fun l => { l with failed := true }))).report o.team o.group info

/-- What an engine's access to one page gives. -/
inductive Reach where
  | at_ (p : Place) (s : State)
  /-- the access ends with a fault -/
  | fail (info : TrapInfo) (s : State)
  /-- it waits; the state holds what serves it -/
  | wait (s : State)

/-- An access of the copy engine for a lane (R122, R130, R103): a copy-on-write is made here, other replayable
causes are waited for. A line that the copy only partly writes is not cleared of its error; one that it writes `whole` is met
without a fault. MASK is the lane, or every active lane for a flight's state; ADDR of an error is the physical line (R301;
log 101). -/
def State.engineReach (s : State) (t : Team) (o : Op) (th : Nat) (k : Kind) (va : Nat) (whole : Bool) : Reach :=
  let die := coreDie (t.coreOf o.group)
  let info (cause : BitVec 8) (a : Nat) (code : Word) : TrapInfo :=
    asyncInfo cause (t.mask (if cause = 0x17 then o.copyThreads else [th])) a code o.clause o.widx
  let ask (s : State) : Reach := .wait (s.postMigration die { ctx := t.ctx, vi := t.vi, va := BitVec.ofNat 64 va })
  let s := s.touchPage t.ctx t.vi va
  match s.checkPage t.ctx t.vi die k va with
  | .trap cause => .fail (info cause va (s.flightCode t.ctx cause va)) s
  | .replay c =>
    if c = 0x13 then
      match (s.leaf t.ctx va).bind (s.resolveCow t.ctx t.vi) with
      | some s => .wait s
      | none => ask s
    else if c = 0 then .wait s
    else ask s
  | .page _ x _ =>
    let p := pagePlace die k x va 16
    match s.closedPart t.vi p, (s.physOf p).find? (fun a => s.poison.contains (lineOf a)) with
    | some q, _ => .fail (info 0x16 va (BitVec.ofNat 32 q)) s
    | none, some a => if whole then .at_ p s else .fail (info 0x30 (lineOf a * 128) 0) s
    | none, none => .at_ p s

/-- A side of a lane's copy: in scratch where it lies there, otherwise as the engine reaches it. -/
def State.sideReach (s : State) (t : Team) (o : Op) (l : CopyLane) (k : Kind) (scratch : Bool) (a : Nat) (whole : Bool) :
    Reach :=
  if !scratch then s.engineReach t o l.thread k a whole
  else
    let p : Place := { scratch := true, bytes := upFrom a 16 }
    match t.badAt p.bytes with
    | some b => if whole then .at_ p s else .fail (asyncInfo 0x30 (t.mask [l.thread]) b 0 o.clause o.widx) s
    | none => .at_ p s

/-- Pins the frames that a lane's access reaches, each once a lane (R123): of a chained source, the frame that serves it, of a
chained destination, that of every step. None where a pin would have to wait. -/
def State.pinFor (s : State) (t : Team) (o : Op) (key : Nat) (p : Place) : Option (State × Op) :=
  let held := ((o.lane key).map (·.pins)).getD []
  let ids := (sortUp ((s.physOf p).map (pinId t.vi))).filter (fun i => !held.contains i)
  if s.pinFull ids then none
  else
    let o := o.mapLane key (fun l => { l with pins := l.pins ++ ids })
    some ((s.pin ids).setOp o, o)

/-- Where the lane's destination begins: the slot of a CPYC (R113). -/
def Team.copyTo (t : Team) (o : Op) (l : CopyLane) : Nat :=
  match o.kind, l.slot with
  | .cpyc b _, some i => (t.cbuf b).slotAt i
  | _, _ => l.dst.toNat

/-- The accepted stores of an operation's group that precede it in program order and meet a place (R280). -/
def State.storesBefore (s : State) (t : Team) (o : Op) (p : Place) : List Store :=
  s.stores.filter (fun st => st.team = o.team && t.groupOf st.thread = o.group && st.id < o.id && st.stranded.isNone &&
    st.place.overlaps p)

/-- Writes a unit whole at its place: scratch, the slices, or the head of a flight. None where the flight holds it, or
an earlier store of the group to these bytes has still to commit (R280). -/
def State.writeUnit (s : State) (t : Team) (o : Op) (l : CopyLane) (p : Place) (bs : List Byte) : Option State :=
  let s := s.commitAhead t (s.storesBefore t o p)
  if !(s.storesBefore t o p).isEmpty then none
  else if p.scratch then some (s.writeScratch o.team (p.bytes.zip bs))
  else
    match p.chain with
    | none =>
      let ps := p.bytes.zip bs
      let s := s.pokeBytes p.home o.hint ps
      let s := t.coreList.foldl (fun s c => s.updateL1 c o.hint ps) s
      some (s.recordWrite (sortUp (p.bytes.map lineOf)))
    | some (f, e) =>
      match (s.flight f).stepList.head? with
      | some (_, d, _) =>
        let y : Flying := { id := s.nextId, op := o.id, flight := f, entry := e, die := d, offsets := p.bytes,
                            data := bs, team := o.team, thread := l.thread, hint := o.hint,
                            clause := o.clause, widx := o.widx, va := l.dst }
        if s.headTakes y then some ({ s with nextId := s.nextId + 1 }.enterHead y) else none
      | none => none

/-- Whether a lane's copy writes the whole line of an address of its destination (R103). -/
def CopyLane.writesLine (l : CopyLane) (dst0 a : Nat) : Bool :=
  dst0 ≤ a / 128 * 128 && a / 128 * 128 + 128 ≤ dst0 + l.count

/-- Once a lane's copy has written every byte of a line of its destination, the line holds no error (R103; log 100). -/
def State.mendLine (s : State) (t : Team) (o : Op) (l : CopyLane) (dst0 a : Nat) (q : Place) : State :=
  let units := upFrom ((a / 128 * 128 - dst0) / 16) 8
  if !l.writesLine dst0 a || !units.all l.moved.contains then s
  else if q.scratch then s.mapTeam o.team (fun t => { t with badScratch := t.badScratch.filter (· ≠ lineOf a) })
  else
    let lines := (s.physOf q).map lineOf
    let s := { s with poison := s.poison.filter (fun x => !lines.contains x) }
    if q.chain.isSome then s else t.coreList.foldl (fun s c => s.mendL1 c lines) s

/-- A unit is written at its destination, and counts as moved. -/
def State.putUnit (s : State) (t : Team) (o : Op) (l : CopyLane) (unit : Nat) (bs : List Byte) : State :=
  let dst0 := t.copyTo o l
  let dst := dst0 + 16 * unit
  match s.sideReach t o l .store l.dstScratch dst (l.writesLine dst0 dst) with
  | .fail i s => s.failLane o l.key i
  | .wait s => s
  | .at_ q s =>
    match s.pinFor t o l.key q with
    | none => s
    | some (s, o) =>
      match s.writeUnit t o l q bs with
      | none => s
      | some s =>
        let o := o.mapLane l.key (fun l => { l with moved := l.moved ++ [unit] })
        (s.setOp o).mendLine t o ((o.lane l.key).getD l) dst0 dst q

/-- COPY_UNIT_TRANSFER (R256, R257): a 16-byte unit of a lane is read and written whole. -/
def State.copyUnit (s : State) (id key unit : Nat) : State :=
  match s.op id with
  | none => s
  | some o =>
    match s.team o.team, o.lane key with
    | some t, some l =>
      let ready := match o.kind with
        | .cpyc _ _ => l.slot.isSome
        | _ => true
      if !ready || s.acquiring o.team l.thread o.id || l.failed || l.moved.contains unit || l.count < 16 * (unit + 1) then s
      else
        match s.sideReach t o l .load l.srcScratch (l.src.toNat + 16 * unit) false with
        | .fail i s => s.failLane o key i
        | .wait s => s
        | .at_ p s =>
          match s.pinFor t o key p with
          | none => s
          | some (s, o) => (s.holdLines p o.hint).putUnit t o l unit (p.bytes.map (s.pointByte t p))
    | _, _ => s
def execCopyUnitTransfer (op lane unit : Nat) (s : State) : Out := .next (s.copyUnit op lane unit)

/-! ### Slots of circular buffers (R113) -/

/-- The lanes of CPYC words on a buffer of a team that wait for a slot, in issue and lane order, each by its key. -/
def State.slotWaiters (s : State) (tk buf : Nat) : List (Nat × Nat) :=
  (s.ops.filter (fun o => o.team = tk)).flatMap (fun o => match o.kind with
    | .cpyc b ls => if b = buf then (ls.filter (fun l => l.slot.isNone)).map (fun l => (o.id, l.key)) else []
    | _ => [])

/-- CPYC_SLOT_RESERVE (R113): the first waiting lane of a buffer reserves slot WIX where a slot is free, also while its
team drains for a save (R299). -/
def State.slotReserve (s : State) (id key : Nat) : State :=
  match s.op id with
  | none => s
  | some o =>
    match o.kind, s.team o.team with
    | .cpyc buf _, some t =>
      let x := t.cbuf buf
      if (s.slotWaiters o.team buf).head? ≠ some (id, key) || x.free = 0 then s
      else (s.setOp (o.mapLane key (fun l => { l with slot := some x.wix }))).mapTeam o.team (fun t =>
        t.setCbuf buf { x with wix := (x.wix + 1) % x.nslot, resv := x.resv + 1 })
    | _, _ => s
def execCpycSlotReserve (op lane : Nat) (s : State) : Out := .next (s.slotReserve op lane)

/-- The oldest reserved slots that are done move from RESV to FILLED, in slot order (R113). -/
def CBuf.handOver (x : CBuf) (fuel : Nat) : CBuf :=
  match fuel with
  | 0 => x
  | n + 1 =>
    let i := (x.wix + 2 * x.nslot - x.resv) % x.nslot
    if x.resv ≠ 0 && x.done.contains i then
      { x with resv := x.resv - 1, filled := x.filled + 1, done := x.done.erase i }.handOver n
    else x

/-- CPYC_SLOT_FILLED (R113): a lane's copy is complete, and its slot is done. -/
def State.slotFilled (s : State) (id key : Nat) : State :=
  match s.op id with
  | none => s
  | some o =>
    match o.kind, o.lane key with
    | .cpyc buf _, some l =>
      match l.slot with
      | some i =>
        if l.done || !l.complete then s
        else (s.setOp (o.mapLane key (fun l => { l with done := true }))).mapTeam o.team (fun t =>
          let x := t.cbuf buf
          t.setCbuf buf ({ x with done := x.done ++ [i] }.handOver 64))
      | none => s
    | _, _ => s
def execCpycSlotFilled (op lane : Nat) (s : State) : Out := .next (s.slotFilled op lane)

end Sys2Proof.Machine
end

