-- ==== Sys2Proof/Machine/Plinths.lean ====
section
/-!
DEFINITION. Events at the plinths: projections (R226, R235 to R238), programming, retrim and retirement of arrays
(R100, R101, R137, R260, R317, R350), and the markings of VPUB and VINV (R99, R240, R241).
-/
namespace Sys2Proof.Machine

/-! ### VIEW_PROJECTION (R225, R226, R235 to R238) -/

/-- The word or operation that a request belongs to. -/
inductive Request where
  | word (w : CWord)
  | op (o : Op) (projs : List Proj) (writes : List RegWrite)

/-- The word or operation of an identity that has requests. -/
def State.request (s : State) (id : Nat) : Option Request :=
  match s.word id with
  | some w => some (.word w)
  | none =>
    match s.op id with
    | some o => match o.kind with
      | .view ps ws => some (.op o ps ws)
      | _ => none
    | none => none

def Request.team : Request → Nat
  | .word w => w.team
  | .op o _ _ => o.team

/-- Clause address and word index of a request. -/
def Request.origin : Request → DWord × Word
  | .word w => (w.clause, w.widx)
  | .op o _ _ => (o.clause, o.widx)

def Request.hint : Request → Nat
  | .word w => w.hint
  | .op o _ _ => o.hint

/-- The request of a thread. -/
def Request.proj (r : Request) (th : Nat) : Option Proj :=
  match r with
  | .word w => w.projs.find? (fun p => p.thread = th)
  | .op _ ps _ => ps.find? (fun p => p.thread = th)

/-- Replaces the request of a thread by a list: itself changed, or nothing. -/
def State.setProj (s : State) (r : Request) (th : Nat) (ps : List Proj) : State :=
  let go (l : List Proj) : List Proj := l.flatMap (fun p => if p.thread = th then ps else [p])
  match r with
  | .word w => s.setWord { w with projs := go w.projs }
  | .op o l ws => s.setOp { o with kind := .view (go l) ws }

/-- The row of a tile as FP32 elements, zero beyond the elements given (R226). -/
def tileRow (es : List Word) : List Word := (upFrom 0 32).map (fun j => es.getD j 0)

/-- XMV.t ends with its last request (R226): rows of lanes without one are +0. -/
def State.endTile (s : State) (id : Nat) : State :=
  match s.word id with
  | none => s
  | some w =>
    match w.tile with
    | none => s
    | some a =>
      if !w.projs.isEmpty then s
      else
        { s.mapTeam w.team (fun t => t.setTile a (fun i j => match w.rows.find? (fun r => r.1 = i) with
            | some r => r.2.getD j 0
            | none => 0) w.bounded) with
          words := s.words.filter (fun x => x.id ≠ id) }

/-- A request that ends with a fault (R238): it is reported, and its destinations keep what they hold; a row that stays in
its tile keeps the tile's tag (R223). -/
def State.dropProj (s : State) (r : Request) (t : Team) (p : Proj) (info : TrapInfo) : State :=
  let s := s.report r.team (t.groupOf p.thread) info
  match r with
  | .op o ps ws =>
    let rest : OpKind := .view (ps.filter (fun x => x.thread ≠ p.thread)) (ws.filter (fun x => x.thread ≠ p.thread))
    s.setOp { o with kind := rest }
  | .word w =>
    let rows := match p.tile with
      | some a => w.rows ++ [(t.laneOf p.thread, (upFrom 0 32).map (t.tileElem a (t.laneOf p.thread)))]
      | none => w.rows
    let bounded := w.bounded || (match p.tile with
      | some a => t.tileTag a
      | none => false)
    (s.setWord { w with projs := w.projs.filter (fun x => x.thread ≠ p.thread), rows := rows, bounded := bounded }).endTile
      w.id

/-- The scratch row that a request of LDVA writes. -/
def Proj.rowPlace (p : Proj) : Place :=
  { scratch := true, bytes := upFrom (p.row.getD 0) ((if vOutfmt p.view.image = 0 then 2 else 4) * p.count) }

/-- The earlier stores of the group to the row of a request commit; whether none is left (R280). -/
def State.rowReady (s : State) (r : Request) (t : Team) (p : Proj) : Bool × State :=
  match r with
  | .word _ => (true, s)
  | .op o _ _ =>
    let s := s.commitAhead t (s.storesBefore t o p.rowPlace)
    ((s.storesBefore t o p.rowPlace).isEmpty, s)

/-- A request is served: its elements reach the lane's registers, its scratch row, or its row of a tile. -/
def State.deliver (s : State) (r : Request) (t : Team) (p : Proj) (es : List Nat) (bounded : Bool) : State :=
  let bf16 := vOutfmt p.view.image = 0
  match r with
  | .op o ps ws =>
    let bytes := es.flatMap (bytesLE (if bf16 then 2 else 4))
    let s := s.writeScratch o.team (p.rowPlace.bytes.zip bytes)
    let ws := ws.map (fun x => if x.thread = p.thread then { x with tag := bounded } else x)
    s.setOp { o with kind := .view (ps.filter (fun x => x.thread ≠ p.thread)) ws }
  | .word w =>
    let projs := w.projs.filter (fun x => x.thread ≠ p.thread)
    match p.reg with
    | some d =>
      let ws := ((packElems bf16 es 16).zipIdx.map (fun x =>
        { thread := p.thread, reg := d + x.2, value := x.1, tag := bounded : RegWrite }))
      s.setWord { w with projs := projs, writes := w.writes ++ ws }
    | none =>
      (s.setWord { w with projs := projs, bounded := w.bounded || bounded,
                          rows := w.rows ++ [(t.laneOf p.thread, tileRow (es.map (asFp32 p.view.image)))] }).endTile w.id

/-- The record of a request, read at its lines as they are committed (R279, R337): a store of the thread that no release has
performed may be found or not, since nothing says when it commits. Or the fault that keeps the record from being read; none
while it has to wait. -/
def State.readRecord (s : State) (r : Request) (id : Nat) (t : Team) (p : Proj) :
    Option (Except TrapInfo (List Byte × State)) :=
  let (cl, ix) := r.origin
  if p.places.isEmpty then some (.ok (p.record, s))
  else if !p.places.all (s.gateOpen t.vi) || s.acquiring r.team p.thread id then none
  else
    match (p.places.flatMap s.physOf).find? (fun a => s.poison.contains (lineOf a)) with
    | some a => some (.error (asyncInfo 0x30 (t.mask [p.thread]) (lineOf a * 128) 0 cl ix))
    | none => some (.ok (p.places.flatMap s.placeBytes, p.places.foldl (fun s q => s.holdLines q r.hint) s))

/-- The first line of scratch with an uncorrectable error that the row of an LDVA writes in part (R103; log 100). -/
def Team.badRow (t : Team) (r : Request) (p : Proj) : Option Nat :=
  match r with
  | .word _ => none
  | .op .. => (p.rowPlace.bytes.find? (fun a =>
      t.badScratch.contains (lineOf a) && !coverLine p.rowPlace.bytes (lineOf a))).map (fun a => lineOf a * 128)

/-- VIEW_PROJECTION (R226, R235): the plinth serves the request of a thread, with the largest deviation of the
reference columns of each array in units of 2^-20 of full scale (R101). A page on T2 is waited for. -/
def State.viewProjection (s : State) (id th : Nat) (deviations : List Nat) : State :=
  match s.request id with
  | none => s
  | some r =>
    match s.team r.team, r.proj th with
    | some t, some p =>
      let (cl, ix) := r.origin
      (match s.readRecord r id t p with
       | none => s
       | some (.error i) => s.dropProj r t p i
       | some (.ok (record, s)) =>
         let p := { p with places := [], record := record }
         match s.rowReady r t p with
         | (false, s) => s.setProj r th [p]
         | (true, s) =>
           match s.serve t r.team p record deviations with
           | (.ok (es, bounded), s) =>
             (match s.request id, t.badRow r p with
              | some r, some a => s.dropProj r t p (asyncInfo 0x30 (t.mask [th]) a 0 cl ix)
              | some r, none => s.deliver r t p es bounded
              | none, _ => s)
           | (.error e, s) =>
             match s.request id, e with
             | some r, .fault cause a code => s.dropProj r t p (asyncInfo cause (t.mask [th]) a code cl ix)
             | some r, .wait a =>
               (s.setProj r th [p]).postMigration (p.plinth / 32)
                 { ctx := t.ctx, vi := t.vi, va := BitVec.ofNat 64 a }
             | some r, .busy => s.setProj r th [p]
             | none, _ => s)
    | _, _ => s
def execViewProjection (id lane : Nat) (deviations : List Nat) (s : State) : Out :=
  .next (s.viewProjection id lane deviations)

/-! ### Arrays (R100, R101, R137, R317) -/

/-- An array leaves service for good (R100, R137): its content is erased, and its part of the view is programmed
into a free array of the plinth, where there is one. Those who were to be told of its retrim are not (log 94). -/
def State.retireArray (s : State) (k : Nat) : State :=
  let a := s.array k
  let s := s.eraseArrays [k] 4
  if a.ast = 0 || a.ast = 4 then s
  else
    match (s.freeArrays (k / 64)).head? with
    | none => s
    | some j =>
      let b := s.array j
      let s := s.setArray j { a with progs := b.progs + 1, drift := b.drift, since := b.since, ast := 1,
                                     used := s.now, alerts := [] }
      s.writeRes a.ctx a.vi (k / 2048) a.desc.toNat (232 + k / 2048) true

/-- The resident team of a launch with an index. -/
def State.teamOf (s : State) (launch : Nat) (index : Word) : Option Nat :=
  (s.teams.find? (fun kt => kt.2.launch = launch && kt.2.index = index)).map (·.1)

/-- The notices of a view that is resident again at a plinth (R110, R317), to the teams that were told of its drift or
asked for the retrim. A team that stands saved at that moment gets none (log 79). -/
def State.tellResident (s : State) (k : Nat) : State :=
  let a := s.array k
  let same := (arrayKeys (k / 64)).filter (fun j =>
    (s.array j).desc = a.desc && (s.array j).gen = a.gen && (s.array j).vi = a.vi && (s.array j).ast ≠ 0 &&
    (s.array j).ast ≠ 4)
  if !(same.all (fun j => (s.array j).ast = 2)) then s
  else
    let told := (same.flatMap (fun j => (s.array j).alerts)).foldl (fun l x => if l.contains x then l else l ++ [x]) []
    let s := same.foldl (fun s j => s.setArray j { s.array j with alerts := [] }) s
    told.foldl (fun s x =>
      match s.teamOf x.1 x.2.1 with
      | some tk => s.mapTeam tk (fun t => t.notify (notice 3 (k / 64) x.2.2.1 x.2.2.2))
      | none => s) s

/-- RECALIBRATION (R101, R317): a drifting array is retrimmed; one whose reference columns are not `within` 2^-10
afterwards is retired (R137). -/
def State.recalibrate (s : State) (die plinth array : Nat) (within : Bool) : State :=
  let k := (32 * die + plinth) * 64 + array
  let a := s.array k
  if a.ast ≠ 3 || (s.die die).switching || 32 ≤ plinth || 64 ≤ array || 8 ≤ die then s
  else
    let s := s.setArray k { a with progs := a.progs + 1, drift := 0, since := 0, ast := if within then 2 else 3 }
    if within then s.tellResident k else s.retireArray k
def execRecalibration (die plinth array : Nat) (within : Bool) (s : State) : Out :=
  .next (s.recalibrate die plinth array within)

/-- ARRAY_RETIREMENT (R137): at the endurance limit. -/
def State.arrayRetirement (s : State) (die plinth array : Nat) : State :=
  let k := (32 * die + plinth) * 64 + array
  if (s.array k).progs < 1048576 || (s.array k).ast = 4 || 32 ≤ plinth || 64 ≤ array || 8 ≤ die then s
  else s.retireArray k
def execArrayRetirement (die plinth array : Nat) (s : State) : Out := .next (s.arrayRetirement die plinth array)

/-! ### ARRAY_PROGRAMMING_COMPLETE (R100, R260, R350) -/

/-- Bytes that a plinth reads for XPROG through the issuing context (R260); a frame whose pins are all taken is waited
for (R123). -/
def State.plinthRead (s : State) (ctx : DWord) (vi die va n : Nat) : Fetch × State :=
  match s.reachParts ctx vi die .load (pageParts va n) with
  | .error (a, .trap cause, s) => (.fault cause a (s.flightCode ctx cause a), s)
  | .error (a, _, s) => (.wait a, s)
  | .ok (ps, s) =>
    match ps.findSome? (s.closedPart vi), (ps.flatMap s.physOf).find? (fun a => s.poison.contains (lineOf a)) with
    | some q, _ => (.fault 0x16 va (BitVec.ofNat 32 q), s)
    | none, some a => (.fault 0x30 (lineOf a * 128) 0, s)
    | none, none =>
      if s.pinFull (ps.map (fun p => pinId vi ((s.servedAt p).headD 0))) then (.busy, s)
      else (.bytes (ps.flatMap s.placeBytes), s)

/-- Descriptor bytes and matrix bytes of a view, or what keeps them from being read. -/
def State.viewSource (s : State) (ctx : DWord) (vi die : Nat) (v : View) : Except Fetch (Word × List Byte) × State :=
  match s.plinthRead ctx vi die (vDesc v.image + 24) 4 with
  | (.bytes g, s) =>
    (match s.plinthRead ctx vi die (vMatva v.image) (matrixSize v.image) with
     | (.bytes m, s) => (.ok (BitVec.ofNat 32 (ofBytesLE g), m), s)
     | (f, s) => (.error f, s))
  | (f, s) => (.error f, s)

/-- Programmed arrays become resident, and RES says so where the die has no other programming of the view (R350). -/
def State.settleArrays (s : State) (keys : List Nat) (weights : List Byte) : State :=
  match keys with
  | [] => s
  | k0 :: _ =>
    (keys.foldl (fun s k => s.setArray k { s.array k with ast := 2, weights := weights, used := s.now }) s).endProgramming
      (k0 / 2048) (s.array k0)

/-- An XPROG has finished at a plinth. -/
def State.plinthDone (s : State) (o : Op) (reg : Nat) (v : View) (ps : List Nat) (st plinth st' : Nat) : State :=
  s.setOp { o with kind := .xprog reg v (ps.filter (· ≠ plinth)) (max st st') }

/-- The XPROGs that a programming in a partition serves: two of one view program it once (R260). -/
def State.sharing (s : State) (v : View) (part : Nat) : List Op :=
  s.ops.filter (fun o => match o.kind with
    | .xprog _ v' ps _ => vDesc v'.image = vDesc v.image && v'.gen = v.gen && ps.any (fun p => p / 8 = part)
    | _ => false)

/-- The fault of an XPROG against its word (R260, R303): MASK is the lanes of its access (R301; log 37). -/
def State.xprogFault (s : State) (o : Op) (cause : BitVec 8) (a : Nat) (code : Word) : State :=
  match s.team o.team with
  | none => s
  | some t => s.report o.team o.group (asyncInfo cause (t.mask o.lanes) a code o.clause o.widx)

/-- An XPROG ends at every plinth of its group's partition. -/
def Op.abandoned (o : Op) (st : Nat) : Op :=
  match o.kind with
  | .xprog reg v _ st' => { o with kind := .xprog reg v [] (max st st') }
  | _ => o

/-- A programming is abandoned at every plinth of a partition (R260): its arrays are erased, and every XPROG that it serves
ends. -/
def State.abandon (s : State) (v : View) (st plinth : Nat) : State :=
  let shared := (s.sharing v (plinth / 8)).map (·.id)
  let s := s.eraseArrays ((upFrom (plinth / 8 * 8) 8).flatMap (fun p => s.arraysOf p v [1, 2, 3])) 0
  { s with ops := s.ops.map (fun o => if shared.contains o.id then o.abandoned st else o) }

/-- ARRAY_PROGRAMMING_COMPLETE (R100, R260): programming ends at a plinth of an XPROG; with operation 0, of arrays
that firmware re-placed there. Where a retirement has left the plinth too few arrays of the view, it fails there with its
notice (R110); where some drift, their retrim is waited for. It reads the view behind the acquires of the threads whose
XPROGs it serves (R279). -/
def State.programmed (s : State) (id plinth : Nat) : State :=
  match s.op id with
  | none =>
    if id ≠ 0 then s
    else
      let keys := (arrayKeys plinth).filter (fun k => (s.array k).ast = 1 &&
        !(s.ops.any (fun o => match o.kind with
          | .xprog _ v ps _ => ps.contains plinth && vDesc v.image = (s.array k).desc.toNat && v.gen = (s.array k).gen
          | _ => false)))
      keys.foldl (fun s k => (s.settleArrays [k] (s.array k).weights).tellResident k) s
  | some o =>
    match o.kind, s.team o.team with
    | .xprog reg v ps st, some t =>
      let held := s.arraysOf plinth v [1, 2, 3]
      let keys := s.arraysOf plinth v [1]
      if !ps.contains plinth then s
      else if s.resident plinth v then s.plinthDone o reg v ps st plinth 1
      else if held.isEmpty then s.abandon v 4 plinth
      else if held.length < arraysNeeded v.image then
        (s.plinthDone o reg v ps st plinth 2).mapTeam o.team (fun t => t.notify (notice 2 plinth reg o.group))
      else if keys.isEmpty || (s.sharing v (plinth / 8)).any (fun x =>
          x.lanes.any (fun th => s.acquiring x.team th x.id)) then s
      else
        (match s.viewSource t.ctx t.vi (plinth / 32) v with
         | (.error (.wait a), s) =>
           s.postMigration (plinth / 32) { ctx := t.ctx, vi := t.vi, va := BitVec.ofNat 64 a }
         | (.error (.fault cause a code), s) =>
           (s.sharing v (plinth / 8)).foldl (fun s o => s.xprogFault o cause a code) (s.abandon v 6 plinth)
         | (.error _, s) => s
         | (.ok (gen, m), s) =>
           if gen ≠ v.gen then s.abandon v 4 plinth
           else
             let s := s.settleArrays keys m
             if s.resident plinth v then s.plinthDone o reg v ps st plinth 1 else s)
    | _, _ => s
def execArrayProgrammingComplete (op plinth : Nat) (s : State) : Out := .next (s.programmed op plinth)

/-! ### VPUB_MARKING_ARRIVAL and VIEW_CACHE_ENTRY_DISCARD (R99, R240, R241) -/

/-- Whether a view cache line lies in a marking's matrix. -/
def Marking.covers (m : Marking) (line : Nat) : Bool :=
  m.matva.toNat / 128 ≤ line && line ≤ (m.matva.toNat + m.bytes - 1) / 128

/-- A marking at one plinth: older entries are marked, or all are discarded; arrays are withdrawn. -/
def State.markPlinth (s : State) (vi plinth : Nat) (m : Marking) : State :=
  let hit (e : VLine) : Bool := e.plinth = plinth && e.vi = vi && m.covers e.line
  let s := { s with vcache := match m.keep with
    | some g => s.vcache.map (fun e => if hit e && e.gen ≠ g then { e with marked := true } else e)
    | none => s.vcache.filter (fun e => !hit e) }
  if !m.arrays then s
  else s.eraseArrays ((arrayKeys plinth).filter (fun k =>
    let a := s.array k
    a.desc = m.desc && m.keep ≠ some a.gen && (a.ast = 1 || a.ast = 2 || a.ast = 3))) 0

/-- Accepted stores of the groups of a word that precede it in program order and can still be written. -/
def State.storesAhead (s : State) (t : Team) (w : CWord) : List Store :=
  s.stores.filter (fun st => st.team = w.team && w.groups.contains (t.groupOf st.thread) && st.id < w.id &&
    !st.place.scratch && st.stranded.isNone && !t.heldStore st)

/-- What a VINV has still to wait for at a plinth: the earlier stores of its groups (R282), and the requests issued before
it that read the matrix there (R241). -/
def State.vinvWaits (s : State) (t : Team) (w : CWord) (m : Marking) (plinth : Nat) : Bool :=
  let mine (tk th : Nat) : Bool := tk = w.team && w.groups.contains (t.groupOf th)
  let uses (tk : Nat) (p : Proj) : Bool :=
    ((s.team tk).map (·.vi)) = some t.vi && (p.plinth = plinth || p.digital = some plinth) &&
    (m.covers (vMatva p.view.image / 128) || vDesc p.view.image = m.desc.toNat)
  !(s.storesAhead t w).isEmpty ||
  s.landing.any (fun y => mine y.team y.thread && y.id < w.id && s.ownWord y.op) ||
  s.acks.any (fun a => mine a.team a.thread && a.id < w.id && s.ownWord a.op) ||
  s.words.any (fun x => x.id < w.id && x.projs.any (uses x.team)) ||
  s.ops.any (fun o => o.id < w.id && (match o.kind with
    | .view ps _ => ps.any (uses o.team)
    | _ => false))

/-- One marking of a word at a plinth: done there, or waiting. -/
def State.markAt (s : State) (t : Team) (w : CWord) (plinth : Nat) (m : Marking) : State × Marking :=
  if !m.plinths.contains plinth then (s, m)
  else
    let s := if m.keep.isSome then s else s.commitAhead t (s.storesAhead t w)
    if m.keep.isNone && s.vinvWaits t w m plinth then (s, m)
    else (s.markPlinth t.vi plinth m, { m with plinths := m.plinths.filter (· ≠ plinth) })

/-- VPUB_MARKING_ARRIVAL (R240, R241): the markings of a word reach a plinth. -/
def State.markingArrival (s : State) (id plinth : Nat) : State :=
  match s.word id with
  | none => s
  | some w =>
    match s.team w.team with
    | none => s
    | some t =>
      let r := w.markings.foldl (fun (acc : State × List Marking) m =>
        let x := acc.1.markAt t w plinth m
        (x.1, acc.2 ++ [x.2])) (s, [])
      match r.1.word id with
      | some w => r.1.setWord { w with markings := r.2 }
      | none => r.1
def execVpubMarkingArrival (id plinth : Nat) (s : State) : Out := .next (s.markingArrival id plinth)

/-- Whether a request of a generation is in flight at a plinth. -/
def State.inFlightAt (s : State) (plinth : Nat) (gen : Word) : Bool :=
  let hit (p : Proj) : Bool := (p.plinth = plinth || p.digital = some plinth) && p.view.gen = gen
  s.words.any (fun w => w.projs.any hit) || s.ops.any (fun o => match o.kind with
    | .view ps _ => ps.any hit
    | _ => false)

/-- VIEW_CACHE_ENTRY_DISCARD (R99): marked entries of a line and generation go once no request of the generation is
in flight at the plinth. -/
def State.discardEntry (s : State) (plinth line gen : Nat) : State :=
  if s.inFlightAt plinth (BitVec.ofNat 32 gen) then s
  else { s with vcache := s.vcache.filter (fun e =>
    !(e.plinth = plinth && e.line = line && e.gen.toNat = gen && e.marked)) }
def execViewCacheEntryDiscard (plinth line gen : Nat) (s : State) : Out := .next (s.discardEntry plinth line gen)

end Sys2Proof.Machine
end

