-- ==== Sys2Proof/Machine/Device.lean ====
section
/-!
DEFINITION. Accesses that the device itself makes: through a context's translation for the scheduler, the trap
record writer and the save engine (R287, R290, R299, R311, R312), to host memory by DMA (R325), and the error
record ring of a function (R326). The packets of the save engine pass every bridge gate (R130).
-/
namespace Sys2Proof.Machine

/-! ### Functions (R16, R322) -/

/-- Partitions that a virtual interface owns (R130). -/
def State.owned (s : State) (vi : Nat) : List Nat :=
  (upFrom 0 32).filter (fun p => (s.part p).owned && (s.part p).vi = vi)

/-! ### Host memory (R325) -/

def State.hostRead (s : State) (a n : Nat) : List Byte := s.hostMem.readBytes (upFrom a n)

def State.hostNat (s : State) (a n : Nat) : Nat := s.hostMem.readLE a n

/-- The bytes of a command's content, where its DMA read does not fail (R323; log 80). -/
def State.dmaRead (s : State) (a n : Nat) : Option (List Byte) :=
  if (upFrom a n).all (Config.hostAnswers s.now) then some (s.hostRead a n) else none

/-- A device write to host memory. -/
def State.hostPut (s : State) (a n x : Nat) : State := { s with hostMem := s.hostMem.writeLE a n x }

/-! ### The error record ring (R326) -/

/-- An error record, or its drop (R326): the ring's line and slots lie in host memory at ERRREC. -/
def State.postError (s : State) (fn kind where_ addr reason index : Nat) : State :=
  let x := s.fn fn
  let base := fld x.errrec 63 12 * 4096
  let n := fld x.errrec 3 0
  let lost (s : State) : State := s.setFn fn { s.fn fn with errlost := true }
  if base = 0 || n < 4 || 8 < n then lost s
  else
    let head := s.hostNat (base + 4) 4
    let tail := s.hostNat (base + 8) 4
    if 2 ^ n ≤ (tail + 2 ^ 32 - head) % 2 ^ 32 then
      lost (s.hostPut (base + 12) 4 (s.hostNat (base + 12) 4 ||| 1))
    else
      let entry := kind % 2 ^ 32 + where_ % 2 ^ 32 * 2 ^ 32 + addr % 2 ^ 64 * 2 ^ 64 + reason % 2 ^ 32 * 2 ^ 128 +
        index % 2 ^ 32 * 2 ^ 160
      (s.hostPut (base + 128 + 64 * (tail % 2 ^ n)) 64 entry).hostPut (base + 8) 4 (tail + 1)

/-! ### Through a context's translation -/

/-- What the packets of the device's own agents carry in place of a team: no key of a team (R311). -/
def deviceTeam : Nat := 2 ^ 20

/-- What such an access gives. -/
inductive Served (α : Type) where
  | ok (x : α) (s : State)
  /-- a residency fault, or a copy-on-write without a frame, is waited for -/
  | wait (s : State)
  | fail (cause : BitVec 8) (s : State)

/-- The place of a stretch within one page, which is touched: a copy-on-write is made, another replayable cause is waited
for. A bridge gate drops the packets of an agent that carries the context's virtual interface, `gated`, where they do not
match (R16, R130): with no team to take the fault, the access fails with it (log 106). -/
def State.ctxPlace (s : State) (c : DWord) (vi die : Nat) (k : Kind) (va n : Nat) (gated : Bool := true) : Served Place :=
  let s := s.touchPage c vi va
  let s := match s.checkPage c vi die k va with
    | .replay 0x13 => ((s.leaf c va).bind (s.resolveCow c vi)).getD s
    | _ => s
  match s.checkPage c vi die k va with
  | .trap cause => .fail cause s
  | .replay 0 => .wait s
  | .replay _ => .wait (s.postMigration die { ctx := c, vi := vi, va := BitVec.ofNat 64 va })
  | .page a _ _ =>
    let p := pagePlace die k (s.pte a) va n
    if gated && !s.gateOpen vi p then .fail 0x16 s else .ok p s

/-- The places of a stretch of bytes. -/
def State.ctxPlaces (s : State) (c : DWord) (vi die : Nat) (k : Kind) (va n : Nat) (gated : Bool := true) :
    Served (List Place) :=
  (if n = 0 then [] else pageParts va n).foldl (fun acc p =>
    match acc with
    | .ok ps s =>
      (match s.ctxPlace c vi die k p.1 p.2 gated with
       | .ok q s => .ok (ps ++ [q]) s
       | .wait s => .wait s
       | .fail cause s => .fail cause s)
    | r => r) (.ok [] s)

/-- Reads bytes of a context. -/
def State.ctxRead (s : State) (c : DWord) (vi die va n : Nat) (gated : Bool := true) : Served (List Byte) :=
  match s.ctxPlaces c vi die .load va n gated with
  | .ok ps s =>
    if s.poisoned (ps.flatMap s.physOf) then .fail 0x30 s else .ok (ps.flatMap s.placeBytes) s
  | .wait s => .wait s
  | .fail cause s => .fail cause s

/-- Writes bytes at a place, as a store does; a flight that holds them is waited for. -/
def State.putPlace (s : State) (p : Place) (bs : List Byte) : Option State :=
  match p.chain with
  | none => some ((s.pokeBytes p.home 0 (p.bytes.zip bs)).recordWrite (sortUp (p.bytes.map lineOf)))
  | some (f, e) =>
    ((s.flight f).entered p).bind (fun x =>
      let y : Flying := { id := s.nextId, op := 0, flight := f, entry := e, die := x.2.1, offsets := p.bytes, data := bs,
                          team := deviceTeam, thread := 0 }
      if s.headTakes y then some ({ s with nextId := s.nextId + 1 }.enterHead y) else none)

/-- Whether a write at a place meets a poisoned line that it does not cover whole (R103). -/
def State.spoils (s : State) (p : Place) : Bool :=
  (s.physOf p).any (fun a => s.poison.contains (lineOf a) &&
    !((upFrom (lineOf a * 128) 128).all (s.physOf p).contains))

/-- The poison of the lines that a write at a place covers is gone (R103). -/
def State.cure (s : State) (p : Place) : State :=
  { s with poison := s.poison.filter (fun l => !((s.physOf p).any (fun a => lineOf a = l))) }

/-- Writes bytes of a context; a partly written poisoned line fails the write (R103). -/
def State.ctxWrite (s : State) (c : DWord) (vi die va : Nat) (bs : List Byte) (gated : Bool := true) :
    Served Unit :=
  match s.ctxPlaces c vi die .store va bs.length gated with
  | .ok ps s' =>
    if ps.any s'.spoils then .fail 0x30 s'
    else
    (match ps.foldl (fun (acc : Option (State × List Byte)) p => acc.bind (fun x =>
        ((x.1.cure p).putPlace p (x.2.take p.bytes.length)).map (fun s => (s, x.2.drop p.bytes.length))))
        (some (s', bs)) with
     | some (s, _) => .ok () s
     | none => .wait s')
  | .wait s => .wait s
  | .fail cause s => .fail cause s

end Sys2Proof.Machine
end

