-- ==== Sys2Proof/Machine/Halting.lean ====
section
/-!
DEFINITION. The halt (R305 to R307), asynchronous faults (R303), and the records of a halt with the entry to the
handler (R309 to R313, R284).
-/
namespace Sys2Proof.Machine

/-! ### TRAP_HALT (R305, R306) -/

/-- Threads of other groups leave a trapping bundle: they are siblings stopped at the same word (R306). -/
def Team.splitTrap (t : Team) (x : Trap) : Team :=
  match x.bundle with
  | none => t
  | some bi =>
    match t.bundle bi with
    | none => t
    | some b =>
      let mine (th : Nat) : Bool := t.groupOf th = x.group
      let others := b.members.filter (fun th => !mine th)
      if others.isEmpty then t
      else
        let t := t.mapBundle bi (fun b => { b with members := b.members.filter mine })
        { t with bundles := t.bundles ++ [{ b with members := others }] }

/-- The skid counters at zero (R148). -/
def Team.zeroSkid (t : Team) : Team := { t with groups := t.groups.map (fun g => { g with skid := 0 }) }

/-- The halt reaches a team (R305): the first trap that reached the halt logic is its trap. A save that was decided
is not made (R306). A trap in the handler halts the team again (R314). The bounds of the words that wait stop (R308). -/
def Team.takeHalt (t : Team) (cycle : Nat → Nat) : Team :=
  match t.raised with
  | [] => t
  | x :: _ =>
    let t := { t.splitTrap x with raised := [] }
    match t.halt with
    | none =>
      let t := t.zeroSkid.mapBounds (fun _ => true) Monitor.stop PhaseWait.stop cycle
      { t with
        bundles := t.bundles.map Bundle.goesOn
        halt := some { trap := x, phase := .stopping }
        saving := none
        deadline := t.deadline.map (fun d => (cycle t.core, d.2 - (cycle t.core - d.1))) }
    | some h =>
      if h.phase = .handler then
        { t.zeroSkid.mapBounds (·.handler) Monitor.stop PhaseWait.stop cycle with halt := some { h with
            trap := x, phase := .stopping, nested := true, posted := .nothing, outer := some (h.trap, h.seq) } }
      else t

/-- TRAP_HALT (R305). -/
def State.trapHalt (s : State) (tk : Nat) : State := s.mapTeam tk (fun t => t.takeHalt s.cycle)
def execTrapHalt (tk : Nat) (s : State) : Out := .next (s.trapHalt tk)

/-! ### ASYNC_FAULT_REPORT (R303, R308) -/

/-- A bundle of a group that stands at a word boundary. -/
def Team.boundaryOf (t : Team) (g : Nat) : Option (Nat × Bundle) :=
  (t.bundles.zipIdx.map (fun x => (x.2, x.1))).find? (fun x =>
    x.2.members.any (fun th => t.groupOf th = g) && (x.2.wait = .ready || x.2.wait = .stalled) && x.2.frozen.isEmpty)

/-- Whether the held fault of a group can be taken: the group stands at a word boundary, or has no live thread (R303). -/
def Team.takable (t : Team) (g : Nat) : Bool := (t.liveOf g).isEmpty || (t.boundaryOf g).isSome

/-- A held fault is raised where its group stands (R303, R309). -/
def Team.raiseHeld (t : Team) (header : Bundle → DWord) (g : Nat) (info : TrapInfo) : Team :=
  match if (t.liveOf g).isEmpty then none else t.boundaryOf g with
  | none =>
    { t with raised := t.raised ++ [
        { group := g, bundle := none, clause := 0, widx := 0xFFFFFFFF, word := 0, info := info }] }
  | some (bi, b) =>
    let t := t.mapBundle bi (fun b => { b with wait := .trapped })
    let word := if b.clause.isNone && b.held.isNone then header b else b.stopWord
    { t with raised := t.raised ++ [
        { group := g, bundle := some bi, clause := b.pc, widx := b.widx, word := word, info := info }] }

/-- ASYNC_FAULT_REPORT (R303): the oldest held fault whose group can take it stops that group. It waits while another trap
halts the team (R306), the team is halted (R308) or drains for a save (R306). `header` is what stands at the header of a
clause that is not fetched yet (R309). -/
def Team.takeAsync (t : Team) (header : Bundle → DWord) : Team :=
  if t.isHalted || !t.raised.isEmpty || t.saving.isSome || t.aborted then t
  else
    match t.held.find? (fun x => t.takable x.1) with
    | none => t
    | some x => { t with held := t.held.erase x }.raiseHeld header x.1 x.2

/-- The 64 bits of a clause at which a bundle stands that has not started it. -/
def Bundle.wordOf (b : Bundle) (c : Clause) : DWord :=
  match b.resume with
  | some i => c.words.getD i 0
  | none => c.header

/-- The 64 bits where a bundle stands whose clause is not fetched: zero where they cannot be read. -/
def State.headerAt (s : State) (t : Team) (b : Bundle) : DWord :=
  let core := t.coreOf (t.groupOf (b.members.headD 0))
  match (s.core core).fetched.find? (fun f => f.ctx = t.ctx && f.pc = b.pc) with
  | some f => b.wordOf f.clause
  | none =>
    match (s.fetch t (coreDie core) b.pc).1 with
    | .clause c => b.wordOf c
    | .trap _ _ _ h => h
    | _ => 0

def State.asyncFaultReport (s : State) (tk : Nat) : State := s.mapTeam tk (fun t => t.takeAsync (s.headerAt t))
def execAsyncFaultReport (tk : Nat) (s : State) : Out := .next (s.asyncFaultReport tk)

/-! ### TRAP_RECORD_WRITE (R309 to R313) -/

/-- Whether a halted team has drained (R302, R143, R216, R320): no counted word, one parked for its replay among them, no
matrix operation and no group call. -/
def State.drained (s : State) (tk : Nat) (t : Team) : Bool :=
  !(s.words.any (fun w => w.team = tk && (w.flag.isSome || w.tile.isSome || w.awaited))) && t.emulated.isEmpty &&
  t.bundles.all (fun b => b.parkedFlag.isNone)

/-- The 128 bytes of a trap record (R309). -/
def trapRecord (stat : Nat) (seq team : Word) (grp core : Nat) (clause : DWord) (widx : Word) (vi : Nat)
    (info : TrapInfo) (word : DWord) : List Byte :=
  let o := info.origin.getD (0, 0)
  bytesLE 4 stat ++ bytesLE 4 seq.toNat ++ bytesLE 4 team.toNat ++ bytesLE 2 grp ++ bytesLE 2 core ++
  bytesLE 8 clause.toNat ++ bytesLE 4 widx.toNat ++ bytesLE 4 vi ++ bytesLE 8 info.mask.toNat ++
  bytesLE 8 info.addr.toNat ++ bytesLE 8 o.1.toNat ++ bytesLE 4 o.2.toNat ++ bytesLE 4 info.code.toNat ++
  bytesLE 8 word.toNat ++ bytesLE 56 0

/-- STAT of a record (R309). -/
def recordStat (info : TrapInfo) (nested faulter handled : Bool) (skid : Nat) : Nat :=
  info.cause.toNat + (if info.async then 2 ^ 8 else 0) + (if info.unres then 2 ^ 9 else 0) +
  (if nested then 2 ^ 10 else 0) + (if info.origin.isSome then 2 ^ 11 else 0) + (if faulter then 2 ^ 12 else 0) +
  (if handled then 2 ^ 13 else 0) + skid * 2 ^ 16

/-- Where a group stands: the bundle of its lowest-numbered live thread (R307). -/
def Team.standsAt (t : Team) (g : Nat) : DWord × Word :=
  let low := ((t.threadsOf g).filter (fun th => (t.thread th).live)).headD 0
  match t.bundles.find? (fun b => b.members.contains low) with
  | some b => (b.pc, b.widx)
  | none => (0, 0xFFFFFFFF)

/-- Whether a halt enters the handler (R313, R314, R303). -/
def Team.enters (t : Team) (h : Halt) : Bool := t.decl.handler.isSome && !h.nested && h.trap.bundle.isSome

/-- The records of a halt, each with its group: the faulting group's first, then each sibling's that has a live
thread (R310). -/
def Team.records (t : Team) (h : Halt) (seq : Word) : List (Nat × List Byte) :=
  let x := h.trap
  let handled := t.enters h
  let sibling (g : Nat) : Nat × List Byte :=
    let p := t.standsAt g
    let info : TrapInfo := { cause := 0x3F }
    (g, trapRecord (recordStat info h.nested false handled (min 16 (t.group g).skid)) seq t.index g (t.coreOf g)
      p.1 p.2 t.vi info 0)
  (x.group, trapRecord (recordStat x.info h.nested true handled 0) seq t.index x.group (t.coreOf x.group)
    x.clause x.widx t.vi x.info x.word) ::
  ((upFrom 0 t.groups.length).filter (fun g => g ≠ x.group &&
    (t.threadsOf g).any (fun th => (t.thread th).live))).map sibling

/-- Address of a group's record in the table (R311). -/
def recordAt (table : DWord) (tk g : Nat) : Nat := (table.toNat + (tk * 256 + g) * 128) % 2 ^ 64

/-- The trap record queue's control line where the queue can be used (R312): n, HEAD, TAIL. -/
def queueLine (bs : List Byte) : Option (Nat × Nat × Nat) :=
  let n := ofBytesLE (bs.take 4)
  let word (i : Nat) : Nat := ofBytesLE ((bs.drop i).take 4)
  if n < 4 || 12 < n || 2 ≤ word 12 || !((bs.drop 16).all (· = 0)) then none else some (n, word 4, word 8)

/-- Reads the control line and checks that it can be written. -/
def State.openQueue (s : State) (t : Team) (die : Nat) : Served (Option (Nat × Nat × Nat)) :=
  let q := (s.ctxTrapQ t.ctx).toNat
  match s.ctxRead t.ctx t.vi die q 128 with
  | .wait s => .wait s
  | .fail _ s => .ok none s
  | .ok bs s =>
    match s.ctxPlaces t.ctx t.vi die .store q 128 with
    | .wait s => .wait s
    | .fail _ s => .ok none s
    | .ok _ s => .ok (queueLine bs) s

/-- One record to the table, and its error record where the write is dropped (R311). -/
def State.recordToTable (s : State) (t : Team) (die tk g : Nat) (bs : List Byte) : Served Unit :=
  let a := recordAt (s.ctxTrapTab t.ctx) tk g
  match s.ctxWrite t.ctx t.vi die a bs with
  | .fail _ s => .ok () (s.postError t.vi 3 0 a 0 0)
  | r => r

/-- One record to the queue (R312): TAIL and the overflow bit as they stand after it. -/
def State.recordToQueue (s : State) (t : Team) (die n head tail : Nat) (bs : List Byte) : Served (Nat × Bool) :=
  if 2 ^ n ≤ (tail + 2 ^ 32 - head) % 2 ^ 32 then .ok (tail, true) s
  else
    match s.ctxWrite t.ctx t.vi die ((s.ctxTrapQ t.ctx).toNat + 128 + 128 * (tail % 2 ^ n)) bs with
    | .ok _ s => .ok ((tail + 1) % 2 ^ 32, false) s
    | .wait s => .wait s
    | .fail _ s => .ok (tail, true) s

/-- The records of a halt, each to the table and then to the queue (R310, R312): TAIL and the overflow bit as they stand
after them, where the queue is used. -/
def State.putRecords (s : State) (t : Team) (die tk : Nat) (line : Option (Nat × Nat × Nat))
    (rs : List (Nat × List Byte)) : Served (Option (Nat × Bool)) :=
  let r := rs.foldl (fun (acc : Served (Nat × Bool)) x =>
    match acc with
    | .ok (tail, ovf) s =>
      (match s.recordToTable t die tk x.1 x.2 with
       | .wait s => .wait s
       | .fail c s => .fail c s
       | .ok _ s =>
         match line with
         | none => .ok (tail, ovf) s
         | some (n, head, _) =>
           match s.recordToQueue t die n head tail x.2 with
           | .ok (tail, o) s => .ok (tail, ovf || o) s
           | r => r)
    | r => r) (.ok ((line.map (fun l => l.2.2)).getD 0, false) s)
  match r with
  | .ok x s =>
    if line.isNone then .ok none (s.postError t.vi 4 0 (s.ctxTrapQ t.ctx).toNat 0 0) else .ok (some x) s
  | .wait s => .wait s
  | .fail c s => .fail c s

/-- The stores of the group of a halt for a stranded store that precede it, and the store itself (R284). -/
def State.beforeStranded (s : State) (tk : Nat) (t : Team) (x : Trap) : Option (List Store × Store) :=
  match x.info.stranded.bind (fun _ => x.info.origin) with
  | none => none
  | some (cl, ix) =>
    let mine := s.stores.filter (fun st => st.team = tk && t.groupOf st.thread = x.group)
    (mine.find? (fun st => st.stranded.isSome && st.clause = cl && st.widx = ix)).map (fun st =>
      (mine.filter (fun y => y.id < st.id && y.stranded.isNone), st))

/-- Stores of a halt for a stranded store (R284): those before it are committed, and then it is gone. Whether that is done. -/
def State.reportStranded (s : State) (tk : Nat) (t : Team) (x : Trap) : Bool × State :=
  match s.beforeStranded tk t x with
  | none => (true, s)
  | some (before, st) =>
    let s := (before.map (·.id)).foldl State.pushStore s
    if ((s.beforeStranded tk t x).map (·.1)).getD [] ≠ [] then (false, s)
    else (true, { s with stores := s.stores.filter (fun y =>
      !(y.team = tk && t.groupOf y.thread = x.group && y.stranded.isSome && y.word = st.word)) })

/-- Entering the handler (R313), or standing halted (R305 step 5): %skid of every group (R81, R148), and the registers of the
faulting one. -/
def Team.enterHandler (t : Team) (h : Halt) (mark : Nat) : Team :=
  let h := { h with mark := some mark }
  match t.decl.handler, h.trap.bundle, t.enters h with
  | some pc, some bi, true =>
    let stop := (t.bundle bi).map (fun b => { b with wait := .ready })
    let t := t.mapBundle bi (fun b =>
      { b with pc := pc, clause := none, idx := 0, wait := .ready, held := none, parked := false, regroup := false,
               handler := true, since := none, frozen := [], popped := [], poppedRanks := [], counted := [], slots := [], resume := none })
    let t : Team := { t with groups := t.groups.map (fun g => { g with skidReg := BitVec.ofNat 32 (min 16 g.skid) }) }
    let t := t.mapGroup h.trap.group (fun g =>
      { g with trapcause := h.trap.info.cause.setWidth 32, trapaddr := h.trap.clause, trapidx := h.trap.widx,
               skidReg := 0 })
    { t with halt := some { h with phase := .handler, stop := stop } }
  | _, _, _ => { t with halt := some { h with phase := .halted } }

/-- The next halt number of a context (R309). -/
def State.nextSeq (s : State) (ctx : DWord) : Word := Sparse.get s.ctxSeq 0 ctx.toNat + 1

/-- A team whose halt has drained and whose records stand at a stage. -/
def State.recording (s : State) (tk : Nat) : Option (Team × Halt) :=
  match s.team tk with
  | none => none
  | some t =>
    match t.halt with
    | some h => if h.phase = .stopping && s.drained tk t then some (t, h) else none
    | none => none

/-- A halt's stage of writing changes. -/
def State.setPosted (s : State) (tk : Nat) (h : Halt) (p : Posted) : State :=
  s.mapTeam tk (fun t => { t with halt := some { h with posted := p } })

/-- Whether a write of the device's own agents is still on its way through a flight. -/
def State.deviceOwes (s : State) : Bool :=
  s.landing.any (fun y => y.team = deviceTeam) || s.acks.any (fun a => a.team = deviceTeam)

/-- Whether the records of another halt of the context are being written: that halt holds the queue's control line (R312;
log 116). -/
def State.queueHeld (s : State) (tk : Nat) (t : Team) : Bool :=
  s.teams.any (fun kt => kt.1 ≠ tk && kt.2.ctx = t.ctx && kt.2.stops &&
    (kt.2.halt.map (fun h => decide (h.posted ≠ .nothing))).getD false)

/-- The records are written, after those of another halt of the context; a residency fault of a record write is waited for
(R311, R312). -/
def State.writeRecords (s : State) (tk : Nat) : State :=
  match s.recording tk with
  | none => s
  | some (t, h) =>
    let die := coreDie t.core
    let seq := s.nextSeq t.ctx
    if h.posted ≠ .nothing || s.queueHeld tk t then s
    else
      match s.openQueue t die with
      | .wait s' => { s with dies := s'.dies }
      | .fail _ _ => s
      | .ok line s1 =>
        match s1.putRecords t die tk line (t.records h seq) with
        | .wait s' => { s with dies := s'.dies }
        | .fail _ _ => s
        | .ok tail s2 =>
          { s2 with ctxSeq := Sparse.put s2.ctxSeq 0 t.ctx.toNat seq }.setPosted tk { h with seq := seq } (.records tail)

/-- TAIL, and the overflow bit where it is set, as a release at .sys (R310, R285): every record is performed before. Where the
line can no longer be written, the halt posts its record of KIND 4 (R312). -/
def State.writeTail (s : State) (tk : Nat) : State :=
  match s.recording tk with
  | none => s
  | some (t, h) =>
    match h.posted with
    | .records line =>
      let q := (s.ctxTrapQ t.ctx).toNat
      let die := coreDie t.core
      if s.deviceOwes then s
      else
        match line with
        | none => s.setPosted tk h .tail
        | some (tail, ovf) =>
          match s.flushT1.ctxWrite t.ctx t.vi die (q + 8) (bytesLE 4 tail ++ (if ovf then bytesLE 4 1 else [])) with
          | .ok _ s => s.flushT1.setPosted tk h .tail
          | .wait s' => { s with dies := s'.dies }
          | .fail _ s => (s.postError t.vi 4 0 q 0 0).setPosted tk h .tail
    | _ => s

/-- Once TAIL is advanced, and the stores before a stranded one are committed (R284), the halt goes on: the handler, or the
wait for the owner (R310, R305 step 5). -/
def State.endRecords (s : State) (tk : Nat) : State :=
  match s.recording tk with
  | none => s
  | some (t, h) =>
    if h.posted ≠ .tail || s.deviceOwes then s
    else
      match s.reportStranded tk t h.trap with
      | (false, s) => s
      | (true, s) => s.mapTeam tk (fun t => t.enterHandler h s.nextId)

/-- TRAP_RECORD_WRITE (R310): once the team has drained. -/
def State.recordWriteOut (s : State) (tk : Nat) : State := ((s.writeRecords tk).writeTail tk).endRecords tk
def execTrapRecordWrite (tk : Nat) (s : State) : Out := .next (s.recordWriteOut tk)

end Sys2Proof.Machine
end

