-- ==== Sys2Proof/Machine/Launching.lean ====
section
/-!
DEFINITION. From launch queue to team (R114, R286 to R293): packets and their checks, images (R160, R161), wait
counters, placement, and the end of teams and launches.
-/
namespace Sys2Proof.Machine

/-! ### Bytes -/

/-- `n` bytes from an offset, as a number. -/
def natAt (bs : List Byte) (off n : Nat) : Nat := ofBytesLE ((bs.drop off).take n)

/-- Bytes from an offset that are all zero. -/
def zeroAt (bs : List Byte) (off n : Nat) : Bool := natAt bs off n = 0

/-! ### Images (R82, R160, R161) -/

/-- Rounds up to a granule. -/
def roundUp (x g : Nat) : Nat := (x + g - 1) / g * g

/-- The declarations of a kernel entry (R82, R160); reserved bits are checked apart. -/
def kernelDecl (image codeOff : Nat) (k : List Byte) : Decl :=
  let w := natAt k 16 4
  let a := natAt k 20 4
  let h := natAt k 8 8
  { width := bits w 6 0, vregs := bits a 9 0, sregs := bits a 18 10, preds := bits a 26 19, acc := bits w 15 8,
    views := bits a 31 27, scratchKB := bits w 25 16, pair := tbit w 7, cooperative := tbit (natAt k 30 2) 0,
    teamX := natAt k 24 2, teamY := natAt k 26 2, teamZ := natAt k 28 2,
    entry := BitVec.ofNat 64 (image + codeOff + natAt k 0 8),
    handler := if h = 2 ^ 64 - 1 then none else some (BitVec.ofNat 64 (image + codeOff + h)) }

def Decl.threads (d : Decl) : Nat := d.teamX * d.teamY * d.teamZ
def Decl.groups (d : Decl) : Nat := d.threads / d.width

/-- What a team takes on one core (R22, R23): threads, vector registers, uniform registers, predicates, tiles and
scratch; `odd` for the odd core of a pair. -/
structure Share where
  threads : Nat
  vregs : Nat
  sregs : Nat
  preds : Nat
  tiles : Nat
  scratch : Nat

/-- The share of a declaration. -/
def Decl.share (d : Decl) (odd : Bool) : Share :=
  let g := if !d.pair then d.groups else if odd then d.groups / 2 else (d.groups + 1) / 2
  let th := g * d.width
  { threads := th, vregs := roundUp d.vregs 16 * th, sregs := roundUp d.sregs 32 * g,
    preds := roundUp d.preds 32 * th,
    tiles := if d.pair then d.acc / 2 else roundUp d.acc 8, scratch := d.scratchKB }

/-- The capacity of a core (R23). -/
def Share.fits (x : Share) : Bool :=
  x.threads ≤ 2048 && x.vregs ≤ 393216 && x.sregs ≤ 32768 && x.preds ≤ 262144 && x.tiles ≤ 192 && x.scratch ≤ 512

def Share.add (x y : Share) : Share :=
  ⟨x.threads + y.threads, x.vregs + y.vregs, x.sregs + y.sregs, x.preds + y.preds, x.tiles + y.tiles,
   x.scratch + y.scratch⟩

/-- R21, R23 and the ranges of R82 for a kernel; a pair kernel whose NACC is no multiple of 16 (R22) refuses its image,
which R161 does not name (log 96). -/
def Decl.ok (d : Decl) : Bool :=
  (d.width = 16 || d.width = 32 || d.width = 64) && 1 ≤ d.vregs && d.vregs ≤ 768 && d.sregs ≤ 256 &&
  d.preds ≤ 128 && d.acc ≤ 192 && (!d.pair || d.acc % 16 = 0) && d.views ≤ 16 && d.scratchKB ≤ 512 &&
  1 ≤ d.teamX && d.teamX ≤ 4096 && 1 ≤ d.teamY && d.teamY ≤ 4096 && 1 ≤ d.teamZ && d.teamZ ≤ 4096 &&
  d.threads % d.width = 0 && d.threads ≤ (if d.pair then 4096 else 2048) &&
  (d.share false).fits && (!d.pair || (d.share true).fits)

/-- A kernel table entry that the device accepts (R161). -/
def kernelOk (codeSize : Nat) (k : List Byte) : Bool :=
  let e := natAt k 0 8
  let h := natAt k 8 8
  bits (natAt k 16 4) 31 26 = 0 && natAt k 30 2 < 4 && zeroAt k 42 6 &&
  (tbit (natAt k 30 2) 1 == tbit (natAt k 16 4) 7) &&
  e % 8 = 0 && e < codeSize && (h = 2 ^ 64 - 1 || (h % 8 = 0 && h < codeSize)) &&
  (kernelDecl 0 0 k).ok

/-- Relocation entries (R160, R161): kinds, companions and places. -/
def relocsOk (imageSize : Nat) (es : List Nat) : Bool :=
  match es with
  | [] => true
  | e :: rest =>
    let kind := bits e 33 32
    let size := if kind = 0 then 8 else 4
    if e / 2 ^ 36 ≠ 0 || kind = 3 || imageSize < bits e 31 0 + size then false
    else if kind = 2 then
      match rest with
      | c :: rest => c / 2 ^ 36 = 0 && bits c 33 32 = 3 && bits c 35 34 = 0 && relocsOk imageSize rest
      | [] => false
    else relocsOk imageSize rest

/-- A section's alignment field and its offset (R160, R161). -/
def sectionOk (al off : Nat) : Bool := 7 ≤ al && al ≤ 16 && off % 2 ^ al = 0

/-- The 64-byte header of an image (R160, R161). NKERN outside its range refuses the image too: R161 does not name it
(log 84); nor does it name a CODEOFF that is no multiple of 128, which refuses it as well (log 109). -/
def imageHeaderOk (h : List Byte) : Bool :=
  natAt h 0 4 = 0x4D524854 && natAt h 4 2 ≤ 1 && 1 ≤ natAt h 6 2 && natAt h 6 2 ≤ 255 && zeroAt h 51 13 &&
  natAt h 12 4 % 128 = 0 && sectionOk (natAt h 48 1) (natAt h 20 4) && sectionOk (natAt h 49 1) (natAt h 28 4) &&
  sectionOk (natAt h 50 1) 0

/-- Bytes of an image with some kernel entries, which R161's 'outside the image' means here: up to the end of its last part,
argument tables among them, with its header and any gap (log 110). -/
def imageSize (h : List Byte) (kernels : List (List Byte)) : Nat :=
  let ends := [natAt h 12 4 + natAt h 16 4, natAt h 20 4 + natAt h 24 4, natAt h 28 4 + natAt h 32 4,
    natAt h 8 4 + 64 * natAt h 6 2, natAt h 40 4 + 8 * natAt h 44 4] ++
    (kernels.filter (fun k => natAt k 40 2 ≠ 0)).map (fun k => natAt k 36 4 + 24 * natAt k 40 2)
  ends.foldl max 64

/-- Pieces of `n` bytes. -/
def pieces (n : Nat) (bs : List Byte) (k : Nat) : List (List Byte) :=
  (upFrom 0 k).map (fun i => (bs.drop (n * i)).take n)

/-- Reads through a context one after another, each with the state after it. -/
def Served.bind {α β : Type} (x : Served α) (f : α → State → Served β) : Served β :=
  match x with
  | .ok a s => f a s
  | .wait s => .wait s
  | .fail c s => .fail c s

/-- The declarations and the argument size of a kernel of an image, where the device accepts the image (R161). -/
def State.readImage (s : State) (ctx : DWord) (vi image kernel : Nat) : Served (Option (Decl × Nat)) :=
  (s.ctxRead ctx vi 0 image 64).bind (fun h s =>
    let n := natAt h 6 2
    if !imageHeaderOk h then .ok none s
    else
      (s.ctxRead ctx vi 0 (image + natAt h 8 4) (64 * n)).bind (fun tab s =>
        (s.ctxRead ctx vi 0 (image + natAt h 40 4) (8 * natAt h 44 4)).bind (fun rel s =>
          let ks := pieces 64 tab n
          let es := (pieces 8 rel (natAt h 44 4)).map ofBytesLE
          if n ≤ kernel || !(ks.all (kernelOk (natAt h 16 4))) || !relocsOk (imageSize h ks) es then .ok none s
          else
            let k := ks.getD kernel []
            .ok (some (kernelDecl image (natAt h 12 4) k, natAt k 32 4)) s)))

/-! ### Packets (R286, R287) -/

/-- Reason 1. -/
def packetReserved (p : List Byte) (prio : Nat) : Bool :=
  let c := natAt p 0 4
  32 ≤ c || bits c 1 0 ≠ prio || !zeroAt p 4 4 || !zeroAt p 26 2 || !zeroAt p 44 4 || !zeroAt p 88 40 ||
  tbit (natAt p 40 2) 15 || tbit (natAt p 42 2) 15 ||
  (!tbit c 3 && !zeroAt p 56 16) || (!tbit c 4 && !zeroAt p 72 16)

/-- DIETAB entry i (R138). -/
def dieOf (dietab : Word) (i : Nat) : Nat := bits dietab.toNat (4 * i + 2) (4 * i)

/-- Reason 5. -/
def State.dietabOk (s : State) (vi : Nat) (dietab : Word) : Bool :=
  (upFrom 0 8).all (fun i => !tbit dietab.toNat (4 * i + 3) &&
    (upFrom 0 4).any (fun q => (s.owned vi).contains (4 * dieOf dietab i + q)))

/-- Teams of a declaration that an idle core, or an idle pair, holds (R23). -/
def Decl.perCore (d : Decl) : Nat :=
  let n (x : Share) : Nat :=
    let q (cap used : Nat) : Nat := if used = 0 then 32 else cap / used
    min (min (min (q 2048 x.threads) (q 393216 x.vregs)) (min (q 32768 x.sregs) (q 262144 x.preds)))
      (min (min (q 192 x.tiles) (q 512 x.scratch)) 32)
  if d.pair then min (n (d.share false)) (n (d.share true)) else n (d.share false)

/-- Reason 6: a cooperative launch that R38 refuses. -/
def State.coopRefused (s : State) (vi teams : Nat) (d : Decl) : Bool :=
  32768 < teams * d.threads ||
  (s.owned vi).length * (if d.pair then 5 else 10) * d.perCore < teams

/-- A misaligned or malformed address (reason 7). -/
def addressBad (a align : Nat) : Bool := a % align ≠ 0 || 2 ^ 57 ≤ a

/-- What the checks of R287 give a packet. -/
inductive PacketResult where
  | refused (reason : Nat) (s : State)
  | accepted (l : Launch) (s : State)
  | wait (s : State)

/-- Whether a failure is one of translation or permission (R287, R290). -/
def refusesAccess (cause : BitVec 8) : Bool := cause = 0x10 || cause = 0x11

/-- Reason 8 for the counter of a packet: the access fails translation or permission. A residency fault is waited for;
any other outcome is left to the access itself (R290; log 82). -/
def State.counterCheck (s : State) (ctx : DWord) (vi : Nat) (k : Kind) (va : Nat) : Served Bool :=
  let s := s.touchPage ctx vi va
  match s.checkPage ctx vi 0 k va with
  | .trap cause => .ok (refusesAccess cause) s
  | .replay 0x12 => .wait (s.postMigration 0 { ctx := ctx, vi := vi, va := BitVec.ofNat 64 va })
  | _ => .ok false s

/-- The checks of R287 in their order. A reserved bit of DIETAB breaks both a reserved bit's rule and R138: the packet is
refused with reason 5 (log 83). -/
def State.checkPacket (s : State) (fn prio : Nat) (index : Word) (slot : Nat) (p : List Byte) : PacketResult :=
  let ctx := BitVec.ofNat 64 (natAt p 8 8)
  let c := natAt p 0 4
  let nx := natAt p 28 4
  let ny := natAt p 32 2
  let nz := natAt p 34 2
  let dietab := BitVec.ofNat 32 (natAt p 36 4)
  let args := natAt p 48 8
  let wait := natAt p 56 8
  let sig := natAt p 72 8
  if packetReserved p prio then .refused 1 s
  else if !s.ctxDefined ctx || s.ctxVi ctx ≠ fn then .refused 2 s
  else if natAt p 16 8 % 128 ≠ 0 then .refused 3 s
  else
    match s.readImage ctx fn (natAt p 16 8) (natAt p 24 2) with
    | .wait s => .wait s
    | .fail _ s => .refused 3 s
    | .ok none s => .refused 3 s
    | .ok (some (d, argSize)) s =>
      if nx = 0 || 2 ^ 31 ≤ nx || ny = 0 || nz = 0 then .refused 4 s
      else if !s.dietabOk fn dietab then .refused 5 s
      else if tbit c 2 != d.cooperative || (d.cooperative && s.coopRefused fn (nx * ny * nz) d) then .refused 6 s
      else if addressBad args 16 || addressBad wait 8 || addressBad sig 8 then .refused 7 s
      else
        match s.ctxRead ctx fn 0 args argSize with
        | .wait s => .wait s
        | .fail _ s => .refused 3 s
        | .ok _ s =>
          match (if tbit c 3 then s.counterCheck ctx fn .load wait else .ok false s) with
          | .wait s => .wait s
          | .fail _ s => .refused 8 s
          | .ok true s => .refused 8 s
          | .ok false s =>
            match (if tbit c 4 then s.counterCheck ctx fn .atomic sig else .ok false s) with
            | .wait s => .wait s
            | .fail _ s => .refused 8 s
            | .ok true s => .refused 8 s
            | .ok false s =>
              .accepted
                { id := s.nextId, fn := fn, prio := prio, index := index, slot := slot, vi := fn, ctx := ctx,
                  decl := d, gridX := nx, gridY := ny, gridZ := nz, dietab := dietab, dshift := natAt p 40 2,
                  sshift := natAt p 42 2, args := BitVec.ofNat 64 args,
                  wait := if tbit c 3 then some (BitVec.ofNat 64 wait, BitVec.ofNat 64 (natAt p 64 8)) else none,
                  signal := if tbit c 4 then some (BitVec.ofNat 64 sig, BitVec.ofNat 64 (natAt p 80 8)) else none,
                  begun := !tbit c 3 } { s with nextId := s.nextId + 1 }

/-! ### Launch queues (R114) -/

def State.lq (s : State) (fn prio : Nat) : LQueue := Sparse.get (s.fn fn).lq {} prio

def State.setLq (s : State) (fn prio : Nat) (x : LQueue) : State :=
  let f := s.fn fn
  s.setFn fn { f with lq := Sparse.put f.lq {} prio x }

/-- The queue address Q and n of a launch queue register (R322). -/
def LQueue.base (x : LQueue) : Nat := fld x.reg 63 7 * 128
def LQueue.logn (x : LQueue) : Nat := fld x.reg 4 0

/-- Whether a queue is served (R114, R16). -/
def State.served (s : State) (fn prio : Nat) : Bool :=
  let q := s.lq fn prio
  s.ready && prio < 4 && q.base ≠ 0 && 4 ≤ q.logn && q.logn ≤ 16 && !q.stopped && !(s.owned fn).isEmpty

/-- The context and the global address that a bus address names in a function's CXL.mem window (R321, R351; log 81). -/
def State.inWindow (s : State) (fn a : Nat) : Option (DWord × Nat) :=
  (s.fn fn).window.bind (fun w => if w.1 ≤ a && a < w.1 + 2 ^ 57 then some (w.2, a - w.1) else none)

/-- Bytes of a launch queue, which lies in host memory, or in device memory where its address falls into the function's
window (R114). -/
def State.queueRead (s : State) (fn a n : Nat) : Served (List Byte) :=
  match s.inWindow fn a with
  | none => .ok (s.hostRead a n) s
  | some (c, va) => if s.ctxDefined c && s.ctxVi c = fn then s.ctxRead c fn 0 va n else .fail 0x10 s

/-- Writes four bytes of a launch queue. -/
def State.queueWrite (s : State) (fn a x : Nat) : Served Unit :=
  match s.inWindow fn a with
  | none => .ok () (s.hostPut a 4 x)
  | some (c, va) => if s.ctxDefined c && s.ctxVi c = fn then s.ctxWrite c fn 0 va (bytesLE 4 x) else .fail 0x10 s

/-- The scheduler sees a TAIL (R114): one more than 2^n beyond HEAD stops the queue. -/
def State.seeTail (s : State) (fn prio : Nat) (tail : Word) : State :=
  let q := s.lq fn prio
  if 2 ^ q.logn < (tail - q.head).toNat then
    (s.setLq fn prio { q with tail := tail, stopped := true }).postError fn 2 prio q.base 0 tail.toNat
  else s.setLq fn prio { q with tail := tail }

/-- LAUNCH_QUEUE_TAIL_UPDATE (R114): the host writes TAIL to the tail line of a queue in its memory, and the snoop prompts
the scheduler. Of a queue in device memory, whose tail line a store has changed, the scheduler reads TAIL from the
line. -/
def State.tailUpdate (s : State) (fn prio : Nat) (tail : Word) : State :=
  let q := s.lq fn prio
  if q.base = 0 then s
  else
    match s.inWindow fn q.base with
    | none =>
      let s := s.hostPut q.base 4 tail.toNat
      if s.served fn prio then s.seeTail fn prio tail else s
    | some _ =>
      if !s.served fn prio then s
      else
        match s.queueRead fn q.base 4 with
        | .ok bs s => s.seeTail fn prio (BitVec.ofNat 32 (ofBytesLE bs))
        | .wait s => s
        | .fail _ s => s
def execLaunchQueueTailUpdate (fn prio : Nat) (tail : Word) (s : State) : Out := .next (s.tailUpdate fn prio tail)

/-- HEAD moves past a packet, in the register and in the head line (R114). -/
def State.pastPacket (s : State) (fn prio : Nat) : Served Unit :=
  let q := s.lq fn prio
  (s.setLq fn prio { q with head := q.head + 1 }).queueWrite fn (q.base + 132) (q.head + 1).toNat

/-- What the reading of the packet at HEAD gives (R287): slot i lies at i mod 2^n, and the packet's ring index is HEAD itself
(R114, R139, R326). -/
def State.packetServed (s : State) (fn prio : Nat) : Served Unit :=
  let q := s.lq fn prio
  let slot := q.base + 256 + 128 * (q.head.toNat % 2 ^ q.logn)
  (s.queueRead fn slot 128).bind (fun p s =>
    match s.checkPacket fn prio q.head slot p with
    | .wait s => .wait s
    | .refused reason s => (s.postError fn 1 prio slot reason q.head.toNat).pastPacket fn prio
    | .accepted l s => { s with launches := s.launches ++ [l] }.pastPacket fn prio)

/-- LAUNCH_PACKET_READ (R287): the next packet is read and refused or accepted, and HEAD moves past it. What has to wait
leaves its request for service alone. -/
def State.packetRead (s : State) (fn prio : Nat) : State :=
  if !s.served fn prio || (s.lq fn prio).head = (s.lq fn prio).tail then s
  else
    match s.packetServed fn prio with
    | .ok _ s => s
    | .wait s' => { s with dies := s'.dies }
    | .fail _ _ => s
def execLaunchPacketRead (fn prio : Nat) (s : State) : Out := .next (s.packetRead fn prio)

/-! ### Order of launches (R114, R288) -/

def State.launch (s : State) (id : Nat) : Option Launch := s.launches.find? (fun l => l.id = id)

def State.setLaunch (s : State) (l : Launch) : State :=
  { s with launches := s.launches.map (fun x => if x.id = l.id then l else x) }

def Launch.teams (l : Launch) : Nat := l.gridX * l.gridY * l.gridZ

/-- Whether every earlier packet of a launch's queue has all its teams placed (R114). -/
def State.atTurn (s : State) (l : Launch) : Bool :=
  (s.launches.filter (fun x => x.fn = l.fn && x.prio = l.prio && x.id < l.id)).all (fun x => x.teams ≤ x.placed)

/-- A 64-bit word of a context, as a load. -/
def State.ctxWord (s : State) (ctx : DWord) (vi : Nat) (va : DWord) : Served Nat :=
  (s.ctxRead ctx vi 0 va.toNat 8).bind (fun bs s => .ok (ofBytesLE bs) s)

/-- WAIT_COUNTER_MET (R288, R290, R285): the launch begins with an acquire at .sys. A counter whose translation or
permission has gone refuses the packet; a counter that cannot be read for another cause is read again (log 82). -/
def State.waitMet (s : State) (id : Nat) : State :=
  match s.launch id with
  | none => s
  | some l =>
    match l.wait with
    | none => s
    | some (va, v) =>
      if l.begun || !s.atTurn l then s
      else
        match s.ctxWord l.ctx l.vi va with
        | .wait s => s
        | .fail cause s =>
          if !refusesAccess cause then s
          else { s.postError l.fn 1 l.prio l.slot 8 l.index.toNat with
            launches := s.launches.filter (fun x => x.id ≠ id) }
        | .ok n s =>
          if n < v.toNat then s
          else
            let ps := s.owned l.vi
            let s := (ps.flatMap (fun p => upFrom (10 * p) 10)).foldl State.clearL1 s
            let s := { s with l2 := s.l2.filter (fun x => x.dirty || !isT1 (x.line * 128) || !(ps.any (fun p => p / 4 = x.slice / 32))) }
            s.setLaunch { l with begun := true }
def execWaitCounterMet (launch : Nat) (s : State) : Out := .next (s.waitMet launch)

/-! ### Placement (R23, R291 to R293) -/

/-- What the resident teams take on a core (R23, R92). -/
def State.usedOn (s : State) (core : Nat) : Share :=
  (s.teams.map (·.2)).foldl (fun (x : Share) t =>
    if t.coreList.contains core then
      x.add { t.decl.share (core ≠ t.core) with scratch := t.scratchKB }
    else x) ⟨0, 0, 0, 0, 0, 0⟩

/-- Team positions free on a core (R311). -/
def State.positionsOn (s : State) (core : Nat) : List Nat :=
  (upFrom 0 32).filter (fun t => !(s.teams.any (fun kt => kt.2.pos = t && kt.2.coreList.contains core)))

/-- The position a team takes on a core, or on a pair, where it fits (R23, R311). -/
def State.positionFor (s : State) (d : Decl) (core : Nat) : Option Nat :=
  let cores := if d.pair then [core, core + 1] else [core]
  if cores.all (fun c => ((s.usedOn c).add (d.share (c ≠ core))).fits) then
    ((s.positionsOn core).filter (fun t => cores.all (fun c => (s.positionsOn c).contains t))).head?
  else none

/-- The cores of a quadrant in the nearness order of one of its slices (R291). -/
def nearCores (part slice : Nat) : List Nat :=
  (sortByKey (fun i => gap i slice * 16 + i) (upFrom 0 10)).map (fun i => 10 * part + i)

/-- First cores of pairs, in the order in which their first-listed core appears (R291). -/
def pairCores (cores : List Nat) : List Nat :=
  cores.foldl (fun l c => if l.contains (c / 2 * 2) then l else l ++ [c / 2 * 2]) []

/-- The die that a team's affinity chooses, and its coordinate term for the slice (R291). -/
def Launch.dieFor (l : Launch) (x y z : Nat) : Nat :=
  dieOf l.dietab ((x / 2 ^ bits l.dshift 4 0 ^^^ y / 2 ^ bits l.dshift 9 5 ^^^ z / 2 ^ bits l.dshift 14 10) % 8)

/-- Cores to try for a team, in order (R291 steps 1 to 4). -/
def State.coresFor (s : State) (l : Launch) (x y z : Nat) : List Nat :=
  let owned := (s.owned l.vi).filter (fun p => !(s.die (p / 4)).out)
  let die := l.dieFor x y z
  let qs := owned.filter (fun p => p / 4 = die)
  let n := qs.length
  let t := (x / 2 ^ bits l.sshift 4 0 ^^^ y / 2 ^ bits l.sshift 9 5 ^^^ z / 2 ^ bits l.sshift 14 10) % (8 * max n 1)
  let first := qs.getD (t / 8) 0
  let rest := qs.filter (· ≠ first)
  let others := (sortByKey (fun d => dieHops die d * 8 + d) ((upFrom 0 8).filter (· ≠ die))).flatMap (fun d =>
    owned.filter (fun p => p / 4 = d))
  let cores := ((if n = 0 then [] else [first]) ++ rest ++ others).flatMap (fun p => nearCores p (t % 8))
  if l.decl.pair then pairCores cores else cores

/-- The core and position that a team would get now. -/
def State.spotFor (s : State) (l : Launch) (x y z : Nat) : Option (Nat × Nat) :=
  (s.coresFor l x y z).findSome? (fun c => (s.positionFor l.decl c).map (fun t => (c, t)))

/-- Coordinates of the team of an index. -/
def Launch.coords (l : Launch) (i : Nat) : Nat × Nat × Nat :=
  (i % l.gridX, i / l.gridX % l.gridY, i / l.gridX / l.gridY)

/-- A new team (R20, R21, R71, R76): every register zero, one bundle for each group at the kernel's first clause. -/
def Launch.newTeam (l : Launch) (i core pos now : Nat) : Team :=
  let d := l.decl
  let c := l.coords i
  { decl := d, vi := l.vi, ctx := l.ctx, launch := l.id, prio := l.prio, core := core, pos := pos,
    teamX := c.1, teamY := c.2.1, teamZ := c.2.2, gridX := l.gridX, gridY := l.gridY, gridZ := l.gridZ,
    args := l.args, scratchKB := d.scratchKB,
    threads := List.replicate d.threads {}, groups := List.replicate d.groups {},
    bundles := (upFrom 0 d.groups).map (fun g =>
      { members := upFrom (g * d.width) d.width, pc := d.entry }),
    placedAt := now }

/-- A team's bundles take the cycle of their core as their age (R295). -/
def Team.setAges (t : Team) (cycle : Nat → Nat) : Team :=
  { t with bundles := t.bundles.map (fun b => { b with age := cycle (t.bundleCore b) }) }

/-- A team becomes resident: its bundles are as old as its start, its scratch takes ways, and its cores forget the clauses they
have fetched. -/
def State.settle (s : State) (t : Team) : State :=
  let t := t.setAges s.cycle
  let used (c : Nat) : Nat := s.scratchUsed c
  let s' := s.setTeam t.key t
  t.coreList.foldl (fun s' c =>
    let s' := s'.loseWays c (used c) (s'.scratchUsed c)
    s'.setCore c { s'.core c with fetched := [] }) s'

/-- Places the next team of a launch (R291). -/
def State.placeNext (s : State) (l : Launch) : Option State :=
  let c := l.coords l.placed
  (s.spotFor l c.1 c.2.1 c.2.2).map (fun p =>
    (s.settle (l.newTeam l.placed p.1 p.2 s.now)).setLaunch { l with placed := l.placed + 1 })

/-- Places the teams of a launch that are left: all of them or none (R293). -/
def State.placeAll (s : State) (id fuel : Nat) : Option State :=
  match fuel with
  | 0 => some s
  | n + 1 => ((s.launch id).bind s.placeNext).bind (fun s => s.placeAll id n)

/-- Whether the next team of a launch could be placed now. -/
def State.canPlace (s : State) (l : Launch) : Bool :=
  if l.decl.cooperative then (s.placeAll l.id (l.teams - l.placed)).isSome else (s.placeNext l).isSome

/-- Launches of a virtual interface whose next team waits for its place. -/
def State.waitingLaunches (s : State) (vi : Nat) : List Launch :=
  s.launches.filter (fun l => l.vi = vi && l.begun && l.placed < l.teams && s.atTurn l)

/-- TEAM_PLACEMENT (R291 to R293): a higher priority that fits goes first, and so does a saved team of the same
priority or higher. -/
def State.teamPlacement (s : State) (id : Nat) : State :=
  match s.launch id with
  | none => s
  | some l =>
    if !(s.waitingLaunches l.vi).any (fun x => x.id = id) || s.stopped ||
        (s.waitingLaunches l.vi).any (fun x => l.prio < x.prio && s.canPlace x) ||
        s.saved.any (fun v => v.team.vi = l.vi && l.prio ≤ v.team.prio) then s
    else if l.decl.cooperative then (s.placeAll id (l.teams - l.placed)).getD s
    else (s.placeNext l).getD s
def execTeamPlacement (launch : Nat) (s : State) : Out := .next (s.teamPlacement launch)

/-! ### Ends (R25, R289, R290) -/

/-- The increment of a launch's signal counter, as one atomic (R289, R290). -/
def State.signal (s : State) (l : Launch) : Served Unit :=
  match l.signal with
  | none => .ok () s
  | some (va, inc) =>
    let s := s.flushT1
    match s.ctxPlaces l.ctx l.vi 0 .atomic va.toNat 8 with
    | .wait s => .wait s
    | .fail _ s => .ok () (s.postError l.fn 8 l.prio va.toNat 0 l.index.toNat)
    | .ok ps s =>
      match ps with
      | [] => .ok () s
      | p :: _ =>
        match s.putPlace p (bytesLE 8 (ofBytesLE (s.placeBytes p) + inc.toNat)) with
        | some s => .ok () s.flushT1
        | none => .wait s

/-- A launch whose last team has ended signals and is gone (R289); none while the increment waits. -/
def State.launchEnd (s : State) (l : Launch) : Served Unit :=
  let l := { l with ended := l.ended + 1 }
  if l.ended < l.teams then .ok () (s.setLaunch l)
  else (s.signal l).bind (fun _ s => .ok () { s with launches := s.launches.filter (fun x => x.id ≠ l.id) })

/-- Whether everything of a team has ended (R25, R146): its threads, its words and its operations; a trap that it
still has to take keeps it. -/
def State.overFor (s : State) (tk : Nat) (t : Team) : Bool :=
  (t.aborted || (t.threads.all (fun x => !x.live) && !t.isHalted && t.raised.isEmpty && t.held.isEmpty)) &&
  !(s.words.any (fun w => w.team = tk)) && !(s.ops.any (fun o => o.team = tk)) && t.emulated.isEmpty

/-- TEAM_END (R25, R285): the team's stores are performed, those on their way through a flight too; then its registers and
memories are gone, and its launch counts it. A store that its page stranded after its group's last word goes with the team,
without a record (log 115). -/
def State.teamEnd (s : State) (tk : Nat) : State :=
  match s.team tk with
  | none => s
  | some t =>
    if !s.overFor tk t then s
    else
      let s := ((s.stores.filter (fun st => st.team = tk)).map (·.id)).foldl
        (if t.aborted then State.pushStore else State.commit) s
      if s.stores.any (fun st => st.team = tk && st.stranded.isNone) ||
          s.owesChained tk (upFrom 0 t.threads.length) then s
      else
        let gone := { s with teams := Sparse.erase s.teams tk, stores := s.stores.filter (fun st => st.team ≠ tk) }
        match s.launch t.launch with
        | none => gone
        | some l =>
          match gone.launchEnd l with
          | .ok _ s' => s'.finishLaunchBarriers l.id
          | .wait s' => { s with dies := s'.dies }
          | .fail _ _ => s
def execTeamEnd (tk : Nat) (s : State) : Out := .next (s.teamEnd tk)

/-! ### Yield requests (R294, R297) -/

/-- Whether the team has arrived at its YIELD words (R266): every live thread stands at one. -/
def Team.arrived (t : Team) : Bool :=
  t.yieldreq && !t.isHalted && t.raised.isEmpty && !t.counted.isEmpty &&
  t.liveThreads.all (fun th => t.bundles.any (fun b => b.wait = .yield && b.members.contains th))

end Sys2Proof.Machine
end

