-- ==== Sys2Proof/Machine/Saving.lean ====
section
/-!
DEFINITION. Saving a team and restoring it (R298 to R300, R266): the save area (R87), the queue save block (R117),
the drain, and the restore on a new placement (R292, R41).
-/
namespace Sys2Proof.Machine

/-! ### Layout -/

/-- Sections one after another, each that is not empty on a 128-byte boundary (R87, R117). -/
def layout (sections : List (List Byte)) : List Byte :=
  sections.foldl (fun (acc : List Byte) x =>
    if x.isEmpty then acc else acc ++ List.replicate (roundUp acc.length 128 - acc.length) 0 ++ x) []

/-- Offsets of sections of given sizes in that layout. -/
def offsets (sizes : List Nat) : List Nat :=
  (sizes.foldl (fun (acc : Nat × List Nat) n =>
    let o := if n = 0 then acc.1 else roundUp acc.1 128
    (o + n, acc.2 ++ [o])) (0, [])).2

/-- The number with the bits below `n` that satisfy a condition. -/
def maskOf (f : Nat → Bool) (n : Nat) : Nat :=
  (upFrom 0 n).foldl (fun x i => if f i then x + 2 ^ i else x) 0

/-- What a save names live (R87): vector, uniform, predicate and tile granules, and scratch units. -/
structure Live where
  vec : List Nat
  uni : List Nat
  pred : List Nat
  acc : List Nat
  units : List Nat

/-- Tiles of a granule (R79, R87). -/
def Decl.accGranule (d : Decl) : Nat := if d.pair then 16 else 8

/-- The live set that granule and unit conditions give within the allocation. -/
def Team.liveBy (t : Team) (vec uni pred acc unit_ : Nat → Bool) : Live where
  vec := (upFrom 0 ((t.decl.vregs + 15) / 16)).filter vec
  uni := (upFrom 0 ((t.decl.sregs + 31) / 32)).filter uni
  pred := (upFrom 0 ((t.decl.preds + 31) / 32)).filter pred
  acc := (upFrom 0 ((t.decl.acc + t.decl.accGranule - 1) / t.decl.accGranule)).filter acc
  units := (upFrom 0 t.scratchKB).filter unit_

/-- The literals of the YIELD words at which the threads of a team wait (R266). -/
def Team.yieldLiterals (t : Team) : List (Nat × Nat) :=
  (t.bundles.filter (fun b => b.wait = .yield && !b.members.isEmpty)).map (fun b => match b.clause with
    | some c => ((c.words.getD (b.idx + 1) 0).toNat, (c.words.getD (b.idx + 2) 0).toNat)
    | none => (0, 0))

/-- The live set of a save: everything for a full one, else the union of the YIELD literals (R87, R266). -/
def Team.liveSet (t : Team) (full : Bool) : Live :=
  if full then t.liveBy (fun _ => true) (fun _ => true) (fun _ => true) (fun _ => true) (fun _ => true)
  else
    let ys := t.yieldLiterals
    let within (u st len : Nat) : Bool := st ≤ u && u < st + len
    t.liveBy (fun g => ys.any (fun y => tbit y.1 g)) (fun g => ys.any (fun y => tbit y.1 (48 + g)))
      (fun g => ys.any (fun y => tbit y.1 (56 + g))) (fun g => ys.any (fun y => tbit y.2 g))
      (fun u => ys.any (fun y => within u (bits y.2 32 24) (bits y.2 42 33) || within u (bits y.2 51 43) (bits y.2 61 52)))

/-! ### The save area (R87) -/

/-- Sizes of its sections after the header. -/
def Team.areaSizes (t : Team) (x : Live) : List Nat :=
  let n := t.threads.length
  let g := t.groups.length
  let k := t.decl.accGranule
  [16 * n, 64 * n * x.vec.length, 2 * n * x.vec.length, 4 * n * x.pred.length, 128 * g * x.uni.length, 1408 * g,
   (4097 * k) * x.acc.length, 1024 * x.units.length * (if t.decl.pair then 2 else 1)]

/-- The bundle in which a live thread stands. -/
def Team.bundleOf (t : Team) (th : Nat) : Option Bundle := t.bundles.find? (fun b => b.members.contains th)

/-- Whether a thread waits on a monitor: an active lane of a WAITM, armed or not (R248). -/
def Bundle.waitsOnMonitor (b : Bundle) (th : Nat) : Bool :=
  b.wait = .monitor && b.frozen.any (fun x => x.thread = th)

/-- Thread state of a thread. Of a thread that has exited the manual states no position: zero (log 85). -/
def Team.threadState (t : Team) (th : Nat) : List Byte :=
  let x := t.thread th
  let b := (t.bundleOf th).getD default
  let fl : Nat := x.rm.toNat + x.fstat.toNat * 4 + (if b.parked then 128 else 0) +
    (if b.waitsOnMonitor th then 256 else 0) + (if x.live then 512 else 0)
  if x.live then bytesLE 8 b.pc.toNat ++ bytesLE 4 b.widx.toNat ++ bytesLE 4 fl
  else bytesLE 12 0 ++ bytesLE 4 fl

/-- View registers, flags and counters of a group. -/
def Group.saveImage (g : Group) : List Byte :=
  let view (i : Nat) : List Byte :=
    let v := Sparse.get g.views {} i
    bytesLE 64 v.image.toNat ++ bytesLE 4 v.gen.toNat ++ bytesLE 4 v.fourth.toNat
  (upFrom 0 16).flatMap view ++ (upFrom 0 12).flatMap (fun i => bytesLE 1 (g.flag i)) ++
    (upFrom 0 4).flatMap (fun i => bytesLE 2 (g.counter i)) ++ bytesLE 236 0

/-- First scratch addresses of the units that are saved; of a pair team, the odd core's follow (log 20). -/
def Team.unitAddrs (t : Team) (x : Live) : List Nat :=
  x.units.map (1024 * ·) ++ if t.decl.pair then x.units.map (fun u => 2 ^ 20 + 1024 * u) else []

/-- The header, with the total size. -/
def Team.areaHeader (t : Team) (full : Bool) (x : Live) (size : Nat) : List Byte :=
  bytesLE 256 ((if full then 1 else 0) + maskOf x.vec.contains 48 * 2 ^ 64 + maskOf x.uni.contains 8 * 2 ^ 112 +
    maskOf x.pred.contains 4 * 2 ^ 120 + maskOf x.acc.contains 24 * 2 ^ 128 + t.threads.length * 2 ^ 160 +
    t.groups.length * 2 ^ 192 + size * 2 ^ 224 + maskOf x.units.contains 512 * 2 ^ 288)

/-- The save area, with the thread states. -/
def Team.areaImage (t : Team) (full : Bool) (x : Live) (positions : List (List Byte)) : List Byte :=
  let ths := upFrom 0 t.threads.length
  let gs := upFrom 0 t.groups.length
  let k := t.decl.accGranule
  let body := layout [bytesLE 256 0,
    positions.flatten,
    x.vec.flatMap (fun g => ths.flatMap (fun th => (upFrom (16 * g) 16).flatMap (fun n =>
      bytesLE 4 (Sparse.get (t.thread th).v 0 n).toNat))),
    x.vec.flatMap (fun g => ths.flatMap (fun th =>
      bytesLE 2 (maskOf (fun i => Sparse.get (t.thread th).vt false (16 * g + i)) 16))),
    x.pred.flatMap (fun g => ths.flatMap (fun th =>
      bytesLE 4 (maskOf (fun i => Sparse.get (t.thread th).p false (32 * g + i)) 32))),
    x.uni.flatMap (fun g => gs.flatMap (fun j => (upFrom (32 * g) 32).flatMap (fun n =>
      bytesLE 4 (Sparse.get (t.group j).s 0 n).toNat))),
    gs.flatMap (fun j => (t.group j).saveImage),
    x.acc.flatMap (fun g => (upFrom (1024 * k * g) (1024 * k)).flatMap (fun n =>
      bytesLE 4 (Sparse.get t.tiles 0 n).toNat) ++ (upFrom (k * g) k).flatMap (fun a =>
      bytesLE 1 (if Sparse.get t.tileTags false a then 1 else 0))),
    (t.unitAddrs x).flatMap (fun a => t.scratch.readBytes (upFrom a 1024))]
  t.areaHeader full x body.length ++ body.drop 256

/-- The live set that a save area's header names (R87). -/
def Team.liveOfHeader (t : Team) (bs : List Byte) : Live :=
  let h := natAt bs 0 256
  t.liveBy (fun g => tbit h (64 + g)) (fun g => tbit h (112 + g)) (fun g => tbit h (120 + g))
    (fun g => tbit h (128 + g)) (fun u => tbit h (288 + u))

/-- A group from its saved state. -/
def Group.load (g : Group) (bs : List Byte) : Group :=
  { g with
    views := ofPairs {} ((upFrom 0 16).map (fun i =>
      (i, { image := BitVec.ofNat 512 (natAt bs (72 * i) 64), gen := BitVec.ofNat 32 (natAt bs (72 * i + 64) 4),
            fourth := BitVec.ofNat 32 (natAt bs (72 * i + 68) 4) : View })))
    flags := ofPairs 0 ((upFrom 0 12).map (fun i => (i, natAt bs (1152 + i) 1)))
    counters := ofPairs 0 ((upFrom 0 4).map (fun i => (i, natAt bs (1164 + 2 * i) 2))) }

/-- A team from its save area (R300 step 1): what the area does not hold reads as zero with its tag clear. -/
def Team.load (t : Team) (bs : List Byte) : Team :=
  let x := t.liveOfHeader bs
  let n := t.threads.length
  let k := t.decl.accGranule
  let os := offsets (256 :: t.areaSizes x)
  let at_ (i : Nat) : Nat := os.getD i 0
  let per {α : Type} (gs : List Nat) (f : Nat → Nat → List α) : List α := gs.zipIdx.flatMap (fun y => f y.1 y.2)
  let thread (th : Nat) (z : Thread) : Thread :=
    let fl := natAt bs (at_ 1 + 16 * th + 12) 4
    { z with
      rm := BitVec.ofNat 2 fl
      fstat := BitVec.ofNat 5 (fl / 4)
      live := tbit fl 9
      monitor := if tbit fl 8 then some { line := 0, written := true } else z.monitor
      v := ofPairs 0 (per x.vec (fun g j => (upFrom 0 16).map (fun i =>
        (16 * g + i, BitVec.ofNat 32 (natAt bs (at_ 2 + 64 * n * j + 64 * th + 4 * i) 4)))))
      vt := ofPairs false (per x.vec (fun g j => (upFrom 0 16).map (fun i =>
        (16 * g + i, tbit (natAt bs (at_ 3 + 2 * n * j + 2 * th) 2) i))))
      p := ofPairs false (per x.pred (fun g j => (upFrom 0 32).map (fun i =>
        (32 * g + i, tbit (natAt bs (at_ 4 + 4 * n * j + 4 * th) 4) i)))) }
  let group (j : Nat) (z : Group) : Group :=
    { z.load ((bs.drop (at_ 6 + 1408 * j)).take 1408) with
      s := ofPairs 0 (per x.uni (fun g i => (upFrom 0 32).map (fun m =>
        (32 * g + m, BitVec.ofNat 32 (natAt bs (at_ 5 + 128 * t.groups.length * i + 128 * j + 4 * m) 4))))) }
  { t with
    threads := t.threads.zipIdx.map (fun y => thread y.2 y.1)
    groups := t.groups.zipIdx.map (fun y => group y.2 y.1)
    tiles := ofPairs 0 (per x.acc (fun g j => (upFrom 0 (1024 * k)).map (fun i =>
      (1024 * k * g + i, BitVec.ofNat 32 (natAt bs (at_ 7 + 4097 * k * j + 4 * i) 4)))))
    tileTags := ofPairs false (per x.acc (fun g j => (upFrom 0 k).map (fun i =>
      (k * g + i, tbit (natAt bs (at_ 7 + 4097 * k * j + 4096 * k + i) 1) 0))))
    scratch := (t.unitAddrs x).zipIdx.foldl (fun m y =>
      m.writeBytes ((upFrom y.1 1024).zip ((bs.drop (at_ 8 + 1024 * y.2)).take 1024))) [] }

/-- Where a restored thread stands (R87, R300): group, clause address, word index or none at a header, parked, of the
bundle that took a trap, in the handler. -/
structure Position where
  group : Nat
  pc : DWord
  widx : Option Nat
  parked : Bool
  faulter : Bool
  handler : Bool := false
  deriving DecidableEq, Repr

/-- The position of a thread in a save area. After an annotated save a thread goes on after its YIELD's literals
(R300). -/
def Team.positionIn (t : Team) (bs : List Byte) (full : Bool) (faulter handlers : List Nat) (th : Nat) : Position :=
  let at_ := (offsets [256, 16]).getD 1 0 + 16 * th
  let ix := natAt bs (at_ + 8) 4
  { group := t.groupOf th, pc := BitVec.ofNat 64 (natAt bs at_ 8),
    widx := if ix = 2 ^ 32 - 1 then none else some (if full then ix else ix + 3),
    parked := tbit (natAt bs (at_ + 12) 4) 7, faulter := faulter.contains th, handler := handlers.contains th }

/-- Adds a thread to the bundle of its position. -/
def addTo (x : Position) (th : Nat) (l : List (Position × List Nat)) : List (Position × List Nat) :=
  match l with
  | [] => [(x, [th])]
  | p :: ps => if p.1 = x then (x, p.2 ++ [th]) :: ps else p :: addTo x th ps

/-- The bundles of a restored team (R300): the live threads of one group that stand at one place form a bundle, which
fetches its clause afresh (R167; log 86). -/
def Team.rebuilt (t : Team) (bs : List Byte) (full : Bool) (faulter handlers : List Nat)
    (slots : List (Nat × Nat × Nat)) : List (Position × Bundle) :=
  let place (l : List (Position × List Nat)) (th : Nat) : List (Position × List Nat) :=
    addTo (t.positionIn bs full faulter handlers th) th l
  (t.liveThreads.foldl place []).map (fun x => (x.1,
    { members := x.2, pc := x.1.pc, resume := x.1.widx, parked := x.1.parked, handler := x.1.handler,
      slots := (slots.filter (fun y => x.2.contains y.1)).map (fun y => y.2) }))

/-- A bundle whose clause will be fetched afresh (R300). -/
def Bundle.afresh (b : Bundle) : Bundle :=
  match b.clause with
  | some _ => { b with clause := none, held := none, idx := 0, resume := some b.idx }
  | none => { b with held := none }

/-- The positions of a team from its save area; of a halted team, the faulting bundle's place in the list, and the bundle that
its handler will return to (R314, R315). -/
def Team.loadPositions (t : Team) (bs : List Byte) (full : Bool) (faulter handlers : List Nat)
    (slots : List (Nat × Nat × Nat)) : Team :=
  let l := t.rebuilt bs full faulter handlers slots
  let bi := l.findIdx? (fun x => x.1.faulter)
  { t with
    bundles := l.map (·.2)
    halt := t.halt.map (fun h =>
      { h with trap := { h.trap with bundle := h.trap.bundle.bind (fun _ => bi) }, stop := h.stop.map Bundle.afresh }) }

/-! ### The queue save block (R117) -/

/-- The 16 bytes of a circular-buffer record (R112). -/
def CBuf.image (x : CBuf) : Nat :=
  (if x.valid then 2 ^ 106 else 0) + x.nslot % 128 * 2 ^ 99 + x.slotsz % 512 * 2 ^ 90 + x.base % 2 ^ 21 * 2 ^ 64 +
  x.wix % 64 * 2 ^ 40 + x.rix % 64 * 2 ^ 34 + x.resv % 128 * 2 ^ 27 + x.filled % 128 * 2 ^ 20 + x.acq % 128 * 2 ^ 13

/-- A record from its 16 bytes. -/
def cbufOf (n : Nat) : CBuf where
  valid := tbit n 106
  nslot := bits n 105 99
  slotsz := bits n 98 90
  base := bits n 84 64
  wix := bits n 45 40
  rix := bits n 39 34
  resv := bits n 33 27
  filled := bits n 26 20
  acq := bits n 19 13

/-- Bytes of an entry, and an entry from its bytes. -/
def entryBytes (w : Nat) (e : Sparse Word) : List Byte :=
  (upFrom 0 w).flatMap (fun l => bytesLE 4 (Sparse.get e 0 l).toNat)
def entryOf (w : Nat) (bs : List Byte) (off : Nat) : Sparse Word :=
  ofPairs 0 ((upFrom 0 w).map (fun l => (l, BitVec.ofNat 32 (natAt bs (off + 4 * l) 4))))

/-- A count and a number of slots of one size, unused slots zero. -/
def slots (n size : Nat) (es : List (List Byte)) : List Byte :=
  bytesLE 8 es.length ++ es.flatten ++ List.replicate ((n - es.length) * size) 0

/-- Lanes of a CPYC word that wait for a slot. -/
def Op.waitingLanes (o : Op) : List CopyLane :=
  match o.kind with
  | .cpyc _ ls => ls.filter (fun l => !l.done && l.slot.isNone)
  | _ => []

/-- The set-aside records of a CPYC word. -/
def Op.asideRecords (o : Op) : List Byte :=
  let buf := match o.kind with
    | .cpyc b _ => b
    | _ => 0
  o.waitingLanes.flatMap (fun l =>
    bytesLE 8 l.src.toNat ++ bytesLE 4 l.count ++ bytesLE 1 (buf % 16) ++
    bytesLE 1 ((if l.srcScratch then 1 else 0) + o.hint % 4 * 2) ++ bytesLE 2 o.group ++ bytesLE 8 o.clause.toNat ++
    bytesLE 4 o.widx.toNat ++ bytesLE 4 0)

/-- Replies on a port. -/
def Team.repliesOn (t : Team) (q : Nat) : List (Nat × Nat × Sparse Word) := t.replies.filter (fun r => r.1 = q)

/-- Sizes of the sections before the set-aside lanes, for a group width. -/
def queueSizes (w : Nat) : List Nat := [64, 16 * (8 + 32 * w), 136, 7 * (8 + 8 * (8 + 4 * w)), 256]

/-- The words that some set-aside operations belong to, by group, clause address and word index (R117). -/
def asideWords (aside : List Op) : List (Nat × DWord × Word) :=
  aside.foldl (fun l o => if l.contains (o.group, o.clause, o.widx) then l else l ++ [(o.group, o.clause, o.widx)]) []

/-- The queue save block. -/
def Team.queueImage (t : Team) (aside : List Op) : List Byte :=
  let w := t.decl.width
  let lanes := aside.flatMap Op.asideRecords
  layout [bytesLE 64 (w + lanes.length / 32 * 2 ^ 32 + (asideWords aside).length * 2 ^ 64),
    (upFrom 0 16).flatMap (fun q => slots 8 (4 * w) ((t.pipe q).map (entryBytes w))),
    slots 32 4 (t.notices.map (fun n => bytesLE 4 n.toNat)),
    (upFrom 17 7).flatMap (fun q => slots 8 (8 + 4 * w) ((t.repliesOn q).map (fun r =>
      bytesLE 8 (r.2.1 % 65536) ++ entryBytes w r.2.2))),
    (upFrom 0 16).flatMap (fun i => bytesLE 16 (t.cbuf i).image),
    lanes]

/-- The set-aside records of a block: all of one CPYC word are one operation (R117, R300), the words in the order of their
first records, with the threads of the lanes in their order (log 86). -/
def Team.asideOps (t : Team) (bs : List Byte) (threads : List Nat) (id tk : Nat) : List Op :=
  let at_ := (offsets (queueSizes t.decl.width ++ [32])).getD 5 0
  let recs := (upFrom 0 (natAt bs 4 4)).map (fun i => (bs.drop (at_ + 32 * i)).take 32)
  ((recs.zip threads).foldl add []).zipIdx.map (fun x => { x.1 with id := id + x.2, team := tk })
where
  /-- the lane of a record -/
  lane (r : List Byte) (th nth : Nat) : CopyLane :=
    { thread := th, src := BitVec.ofNat 64 (natAt r 0 8), srcScratch := tbit (natAt r 13 1) 0, dst := 0,
      dstScratch := true, count := natAt r 8 4, nth := nth }
  /-- adds a record to the word it belongs to, or begins a word -/
  add (l : List Op) (x : List Byte × Nat) : List Op :=
    let r := x.1
    let o : Op := { id := 0, team := 0, group := natAt r 14 2, cls := 0, clause := BitVec.ofNat 64 (natAt r 16 8),
                    widx := BitVec.ofNat 32 (natAt r 24 4), hint := bits (natAt r 13 1) 2 1,
                    kind := .cpyc (natAt r 12 1 % 16) [lane r x.2 0] }
    let same (p : Op) : Bool := p.group = o.group && p.clause = o.clause && p.widx = o.widx
    if l.any same then
      l.map (fun p => if same p then { p with kind := match p.kind with
          | .cpyc buf ls => .cpyc buf (ls ++ [lane r x.2 (ls.filter (fun y => y.thread = x.2)).length])
          | k => k } else p)
    else l ++ [o]

/-- Queues and buffer records from the block (R300 step 1). -/
def Team.loadQueues (t : Team) (bs : List Byte) : Team :=
  let w := t.decl.width
  let os := offsets (queueSizes w)
  let at_ (i : Nat) : Nat := os.getD i 0
  let count (off n : Nat) : Nat := min n (natAt bs off 8)
  { t with
    pipes := ofPairs [] ((upFrom 0 16).map (fun q =>
      let o := at_ 1 + q * (8 + 32 * w)
      (q, (upFrom 0 (count o 8)).map (fun i => entryOf w bs (o + 8 + 4 * w * i)))))
    notices := (upFrom 0 (count (at_ 2) 32)).map (fun i => BitVec.ofNat 32 (natAt bs (at_ 2 + 8 + 4 * i) 4))
    replies := (upFrom 0 7).flatMap (fun k =>
      let o := at_ 3 + k * (8 + 8 * (8 + 4 * w))
      (upFrom 0 (count o 8)).map (fun i =>
        let a := o + 8 + (8 + 4 * w) * i
        (17 + k, natAt bs a 2, entryOf w bs (a + 8))))
    cbufs := ofPairs {} ((upFrom 0 16).map (fun i => (i, cbufOf (natAt bs (at_ 4 + 16 * i) 16)))) }

/-! ### The drain (R298, R299) -/

/-- Whether an operation need not retire before the save: a re-link, a CPYC word with lanes that wait for a free slot,
or a chained access whose stores a stranded store holds (R299, R284). -/
def State.maySetAside (s : State) (t : Team) (o : Op) : Bool :=
  match o.kind with
  | .relink .. => true
  | .cpyc buf ls => ls.all (fun l => l.done || l.slot.isNone) && (t.cbuf buf).free = 0
  | .chained => !(s.landing.any (fun y => y.op = o.id)) && !(s.acks.any (fun a => a.op = o.id)) &&
      s.stores.all (fun st => st.op ≠ some o.id || st.stranded.isSome || t.heldStore st)
  | _ => false

/-- Whether a bundle still runs to the end of its clause (R298). -/
def Bundle.runsOn (b : Bundle) : Bool := b.clause.isSome && b.wait = .ready && !b.members.isEmpty

/-- Whether firmware keeps a reply for a port of the team that has room: it is delivered before the save (R299; log 103). -/
def State.repliesDue (s : State) (t : Team) : Bool :=
  s.dies.any (fun d => d.2.owed.any (fun r => r.launch = t.launch && r.teamIx = t.index && t.portRoom r.port))

/-- Whether the team has drained (R299). -/
def State.saveDrained (s : State) (tk : Nat) (t : Team) : Bool :=
  !(s.words.any (fun w => w.team = tk)) && t.emulated.isEmpty && !s.repliesDue t &&
  (s.ops.filter (fun o => o.team = tk)).all (fun o => s.maySetAside t o || ((o.cls = 0 || o.cls = 3) && s.opEnded o)) &&
  (t.isHalted || t.bundles.all (fun b => !b.runsOn)) &&
  s.stores.all (fun st => st.team ≠ tk || st.stranded.isSome || t.heldStore st)

/-- A team as it is saved: words that wait are unissued, monitors written (R247), flags and counters by what is set
aside; no request stays (R297, R300). -/
def Team.settleForSave (t : Team) (aside kept : List Op) : Team :=
  let t := t.unissueAll
  let words (g : Nat) : Nat := ((asideWords aside).filter (fun x => x.1 = g)).length
  let links (g : Nat) : Nat := (kept.filter (fun o => o.group = g)).length
  { t with
    threads := t.threads.map (fun x => { x with monitor := x.monitor.map (fun m => { m with written := true, until_ := none }) })
    groups := t.groups.zipIdx.map (fun y =>
      { y.1 with counters := ofPairs 0 [(0, words y.2), (3, links y.2)] })
    yieldreq := false
    requested := false
    withdrawing := false
    deadline := none
    saving := none }

/-- What stays of a team in the scheduler's record: its save area and block hold the rest. -/
def Team.strip (t : Team) : Team :=
  { t with
    threads := t.threads.map (fun x => { live := false, monitor := x.monitor })
    groups := t.groups.map (fun g => { g with s := [], views := [], flags := [], counters := [] })
    bundles := []
    scratch := [], tiles := [], tileTags := [], pipes := [], pipeUsed := [], ranks := [], nextRank := 0, notices := [], replies := [], cbufs := [] }

/-- The slots that groups waiting at a CBACQ have got, each with a thread that waits there. -/
def Team.slotsHeld (t : Team) : List (Nat × Nat × Nat) :=
  t.bundles.flatMap (fun b => b.slots.filterMap (fun x =>
    (b.members.find? (fun th => t.groupOf th = x.1)).map (fun th => (th, x))))

/-- The threads of the faulting bundle of a halted team. -/
def Team.faulter (t : Team) : List Nat :=
  ((t.halt.bind (fun h => h.trap.bundle)).bind t.bundle).elim [] (fun b => b.members)

/-- The threads that run the handler of a team. -/
def Team.handlerThreads (t : Team) : List Nat := (t.bundles.filter (·.handler)).flatMap (·.members)

/-- The first address from a base on whose bytes no other saved team of the context takes (log 20). -/
def freeSpan (base size : Nat) (taken : List (Nat × Nat)) : Nat :=
  let clear (a : Nat) : Bool := taken.all (fun x => a + size ≤ x.1 || x.1 + x.2 ≤ a)
  let ends := sortUp (base :: (taken.map (fun x => base + roundUp (x.1 + x.2 - base) 128)))
  (ends.find? (fun a => base ≤ a && clear a)).getD base

/-- Re-links of a team that go on while it is saved, and chained accesses that a stranded store holds (R299). -/
def State.keptOps (s : State) (tk : Nat) : List Op :=
  s.ops.filter (fun o => o.team = tk && (match o.kind with
    | .relink .. => !o.done
    | .chained => !s.opEnded o
    | _ => false))

/-- The save itself, once the team has drained: the register sections, then the queue save block (R299). -/
def State.writeSave (s : State) (tk : Nat) (t : Team) (full : Bool) : State :=
  let aside := s.ops.filter (fun o => o.team = tk && !o.waitingLanes.isEmpty)
  let kept := s.keptOps tk
  let live := t.liveSet full
  let position (th : Nat) : List Byte := t.threadState th
  let before := t
  let t := t.settleForSave aside kept
  let area := t.areaImage full live ((upFrom 0 t.threads.length).map position)
  let block := t.queueImage aside
  let others := s.saved.filter (fun v => v.team.ctx = t.ctx)
  let a := freeSpan (s.ctxSaveVa t.ctx).toNat area.length (others.map (fun v => (v.areaAt, v.areaSize)))
  let q := freeSpan (s.ctxQSaveVa t.ctx).toNat block.length (others.map (fun v => (v.queueAt, v.queueSize)))
  let die := coreDie t.core
  match (s.ctxWrite t.ctx t.vi die a area false).bind (fun _ s => s.ctxWrite t.ctx t.vi die q block false) with
  | .wait s' => { s with dies := s'.dies }
  | .fail _ _ => s
  | .ok _ s' =>
    { s' with
      teams := Sparse.erase s'.teams tk
      ops := s'.ops.filter (fun o => o.team ≠ tk)
      stores := s'.stores.filter (fun st => st.team ≠ tk)
      nextId := s'.nextId + 1
      saved := s'.saved ++ [{ id := s'.nextId, team := t.strip, full := full, relinks := kept,
                              lanes := aside.flatMap (fun o => o.waitingLanes.map (fun l => l.thread)),
                              faulter := before.faulter, handlers := before.handlerThreads,
                              slots := before.slotsHeld,
                              stores := (s'.stores.filter (fun st => st.team = tk)).map
                                (fun st => { st with team := 2 ^ 20 + s'.nextId }), areaAt := a,
                              areaSize := area.length, queueAt := q, queueSize := block.length }] }

/-- TEAM_SAVE (R298, R299): a save that is decided (R297), annotated or full, is written once the team has drained. -/
def State.teamSave (s : State) (tk : Nat) : State :=
  match s.team tk with
  | none => s
  | some t =>
    match t.saving with
    | none => s
    | some full =>
      if t.aborted || !t.raised.isEmpty then s
      else
        let s := s.commitAll ((s.stores.filter (fun st => st.team = tk)).map (·.id))
        match s.team tk with
        | none => s
        | some t => if s.saveDrained tk t then s.writeSave tk t full else s
def execTeamSave (tk : Nat) (s : State) : Out := .next (s.teamSave tk)

/-! ### The restore (R300, R292, R41) -/

/-- The place a saved team would get. -/
def State.spotOf (s : State) (v : Saved) : Option (Nat × Nat) :=
  (s.launch v.team.launch).bind (fun l =>
    s.spotFor { l with decl := { l.decl with scratchKB := v.team.scratchKB } } v.team.teamX v.team.teamY v.team.teamZ)

/-- A saved team from its area and its block, on a placement (R300 steps 1 to 4). -/
def Saved.restored (v : Saved) (area block : List Byte) (core pos now : Nat) : Team :=
  let t : Team := { (v.team.load area).loadQueues block with core := core, pos := pos, placedAt := now }
  t.loadPositions area v.full v.faulter v.handlers v.slots

/-- Restores one saved team where it fits. -/
def State.restoreOne (s : State) (v : Saved) : Served Unit :=
  match s.spotOf v with
  | none => .wait s
  | some (core, pos) =>
    let die := coreDie core
    (s.ctxRead v.team.ctx v.team.vi die v.areaAt v.areaSize false).bind (fun area s =>
      (s.ctxRead v.team.ctx v.team.vi die v.queueAt v.queueSize false).bind (fun block s =>
        let t := v.restored area block core pos s.now
        let s := t.coreList.foldl State.clearL1 (s.settle t)
        let aside := t.asideOps block v.lanes s.nextId t.key
        let mine (tk : Nat) : Nat := if tk = v.key then t.key else tk
        .ok () { s with
          ops := s.ops ++ v.relinks.map (fun o => { o with team := t.key }) ++ aside
          nextId := s.nextId + aside.length
          stores := s.stores ++ v.stores.map (fun st => { st with team := t.key })
          landing := s.landing.map (fun y => { y with team := mine y.team })
          acks := s.acks.map (fun y => { y with team := mine y.team })
          saved := s.saved.filter (fun x => x.id ≠ v.id) }))

/-- Saved teams that must be restored together with one (R41). -/
def State.restoredWith (s : State) (v : Saved) : List Saved :=
  if v.team.decl.cooperative then s.saved.filter (fun x => x.team.launch = v.team.launch) else [v]

/-- Whether a cooperative launch still has a resident team that is about to be saved (R41): all its teams could not be
resident at once. One that stays resident, halted say, bars nothing. -/
def State.splitLaunch (s : State) (v : Saved) : Bool :=
  v.team.decl.cooperative && (s.teamsOf v.team.launch).any (fun k =>
    ((s.team k).map (fun t => t.saving.isSome || (t.yieldreq && !t.isHalted))).getD false)

/-- Restores saved teams, all of them or none. -/
def State.restoreAll (s : State) (vs : List Saved) : Served Unit :=
  vs.foldl (fun (acc : Served Unit) v => acc.bind (fun _ s => s.restoreOne v)) (.ok () s)

/-- Whether a saved team could be restored now. -/
def State.canRestore (s : State) (v : Saved) : Bool :=
  !s.splitLaunch v && (match s.restoreAll (s.restoredWith v) with
    | .ok .. => true
    | _ => false)

/-- Whether another team goes before a saved one (R292): of a higher priority that fits, or saved earlier. -/
def State.goesBefore (s : State) (v : Saved) : Bool :=
  (s.waitingLaunches v.team.vi).any (fun l => v.team.prio < l.prio && s.canPlace l) ||
  s.saved.any (fun u => u.team.vi = v.team.vi && v.team.prio < u.team.prio && s.canRestore u) ||
  (s.saved.takeWhile (fun u => u.id ≠ v.id)).any (fun u => u.team.vi = v.team.vi && u.team.prio = v.team.prio)

/-- TEAM_RESTORE (R300). -/
def State.teamRestore (s : State) (id : Nat) : State :=
  match s.saved.find? (fun v => v.id = id) with
  | none => s
  | some v =>
    if s.stopped || s.splitLaunch v || s.goesBefore v then s
    else
      match s.restoreAll (s.restoredWith v) with
      | .ok _ s => s
      | .wait s' => { s with dies := s'.dies }
      | .fail _ _ => s
def execTeamRestore (saved : Nat) (s : State) : Out := .next (s.teamRestore saved)

end Sys2Proof.Machine
end

