-- ==== Sys2Proof/Machine/Yielding.lean ====
section
/-!
DEFINITION. Yield requests, their withdrawal, and the decision of a save at the end of each cycle (R294, R297, R41).
-/
namespace Sys2Proof.Machine

/-! ### What waits for a place (R292, R294) -/

/-- A launch whose next team waits for its place, or a saved team that waits to be restored. -/
inductive Waiter where
  | launch (l : Launch)
  | saved (v : Saved)

def Waiter.prio : Waiter → Nat
  | .launch l => l.prio
  | .saved v => v.team.prio

/-- A saved team on the place that it would get now. -/
def State.placeSaved (s : State) (v : Saved) : Option State :=
  (s.spotOf v).map (fun p => s.setTeam (32 * p.1 + p.2) { v.team with core := p.1, pos := p.2 })

/-- Saved teams all on places that they would get. -/
def State.placeEach (s : State) (vs : List Saved) : Option State :=
  vs.foldl (fun acc v => acc.bind (fun s => s.placeSaved v)) (some s)

/-- Whether what waits has its place now. -/
def State.fits (s : State) : Waiter → Bool
  | .launch l => s.canPlace l
  | .saved v => (s.placeEach (s.restoredWith v)).isSome

/-- What waits for a place in a virtual interface: the first saved team of each priority, and the launches behind no saved
team (R292). -/
def State.waiters (s : State) (vi : Nat) : List Waiter :=
  let mine := s.saved.filter (fun v => v.team.vi = vi)
  (mine.filter (fun v => !s.splitLaunch v &&
    (mine.takeWhile (fun u => u.id ≠ v.id)).all (fun u => u.team.prio ≠ v.team.prio))).map Waiter.saved ++
  ((s.waitingLaunches vi).filter (fun l => mine.all (fun v => v.team.prio < l.prio))).map Waiter.launch

/-- The die that a team's affinity chooses, from its coordinates in its launch (R291). -/
def Launch.dieOfTeam (l : Launch) (i : Nat) : Nat :=
  let c := l.coords i
  l.dieFor c.1 c.2.1 c.2.2

/-- The affinity die of a saved team. -/
def State.dieOfSaved (s : State) (v : Saved) : Nat :=
  ((s.launch v.team.launch).map (fun l => l.dieFor v.team.teamX v.team.teamY v.team.teamZ)).getD 0

/-- The affinity dies of what waits. -/
def State.diesOf (s : State) : Waiter → List Nat
  | .launch l => (upFrom l.placed (if l.decl.cooperative then l.teams - l.placed else 1)).map l.dieOfTeam
  | .saved v => (s.restoredWith v).map s.dieOfSaved

/-- The affinity die of the first team of a launch that finds no core, among some of its next teams. -/
def State.stuckLaunch (s : State) (id fuel : Nat) : Option Nat :=
  match fuel with
  | 0 => none
  | n + 1 =>
    (s.launch id).bind (fun l => match s.placeNext l with
      | some s => s.stuckLaunch id n
      | none => some (l.dieOfTeam l.placed))

/-- The affinity die of the first saved team that finds no core. -/
def State.stuckSaved (s : State) (vs : List Saved) : Option Nat :=
  match vs with
  | [] => none
  | v :: vs => match s.placeSaved v with
    | some s => s.stuckSaved vs
    | none => some (s.dieOfSaved v)

/-- The affinity die of the team that finds no core (R294). -/
def State.stuckDie (s : State) : Waiter → Option Nat
  | .launch l => s.stuckLaunch l.id (if l.decl.cooperative then l.teams - l.placed else 1)
  | .saved v => s.stuckSaved (s.restoredWith v)

/-! ### YIELD_REQUEST (R294, R297) -/

/-- Whether a team will be saved: a request stands, or its save is decided. -/
def Team.leaves (t : Team) : Bool := t.yieldreq || t.requested || t.saving.isSome

/-- The machine as it will stand once the teams that leave, apart from some, are saved. -/
def State.once (s : State) (apart : List Nat) : State :=
  { s with teams := s.teams.filter (fun kt => !kt.2.leaves || apart.contains kt.1) }

/-- When a launch was placed: the latest placement of a resident team of it (log 87). -/
def State.placedLast (s : State) (launch : Nat) : Nat :=
  ((s.teamsOf launch).filterMap s.team).foldl (fun n t => max n t.placedAt) 0

/-- Resident teams that may be asked to yield, in the order of R294: on a die, of a lower priority, with no request;
lowest priority first, then the launch placed latest. -/
def State.victims (s : State) (vi prio die : Nat) : List Nat :=
  let ts := s.teams.filter (fun kt => kt.2.vi = vi && kt.2.prio < prio && coreDie kt.2.core = die && !kt.2.leaves)
  (sortByKey (fun kt => kt.2.prio) (sortByKey (fun kt => s.now - s.placedLast kt.2.launch) ts)).map (·.1)

/-- Whether what waits needs one more team to yield, and this one is next (R294). -/
def State.mustYield (s : State) (vi : Nat) (w : Waiter) (tk : Nat) : Bool :=
  !s.fits w && !(s.once []).fits w &&
  (match (s.once []).stuckDie w with
   | some die => (s.victims vi w.prio die).head? = some tk
   | none => false)

/-- Teams that a request or its withdrawal reaches: the team, or all of its cooperative launch (R41). -/
def State.reachedBy (s : State) (tk : Nat) (t : Team) : List Nat :=
  if t.decl.cooperative then s.teamsOf t.launch else [tk]

/-- A request is raised on a team (R297): on a halted one it waits for the resumption. -/
def Team.raiseRequest (t : Team) (cycle deadline : Nat) : Team :=
  if t.isHalted then (if t.yieldreq then { t with withdrawing := false } else { t with requested := true })
  else t.request cycle deadline

/-- YIELD_REQUEST (R294, R297). -/
def State.yieldRequest (s : State) (tk : Nat) : State :=
  match s.team tk with
  | none => s
  | some t =>
    if (s.waiters t.vi).any (fun w => s.mustYield t.vi w tk) then
      (s.reachedBy tk t).foldl (fun s k => s.mapTeam k (fun t => t.raiseRequest (s.cycle t.core) (s.ctxDeadline t.ctx))) s
    else s
def execYieldRequest (tk : Nat) (s : State) : Out := .next (s.yieldRequest tk)

/-! ### YIELD_WITHDRAWAL (R294, R297) -/

/-- Whether what waits still needs a request on some teams: it has a higher priority and does not fit, now or once the
other requested teams are saved; and one of the teams stands on its affinity die (R294). -/
def State.stillNeeds (s : State) (w : Waiter) (t : Team) (ks : List Nat) : Bool :=
  t.prio < w.prio && !s.fits w && !(s.once ks).fits w &&
  ks.any (fun k => ((s.team k).map (fun t => (s.diesOf w).contains (coreDie t.core))).getD false)

/-- Whether a request on a launch is met already: a team of it is saved, or its save is decided (R41). -/
def State.met (s : State) (t : Team) (ks : List Nat) : Bool :=
  (t.decl.cooperative && s.saved.any (fun v => v.team.launch = t.launch)) ||
  ks.any (fun k => ((s.team k).map (fun t => t.saving.isSome)).getD false)

/-- The request is gone (R297): threads at a YIELD go on after its literals. -/
def Team.withdraw (t : Team) : Team :=
  { t with yieldreq := false, requested := false, withdrawing := false, deadline := none,
           bundles := t.bundles.map (fun b => if b.wait = .yield then b.advance 3 else b) }

/-- The withdrawal reaches a team: it takes effect at the end of the cycle. -/
def Team.raiseWithdrawal (t : Team) : Team := { t with withdrawing := t.yieldreq }

/-- YIELD_WITHDRAWAL (R294, R297): nothing that waits needs the request any more. Where it waits on halted teams alone, no
cycle decides, and it is gone at once. -/
def State.yieldWithdrawal (s : State) (tk : Nat) : State :=
  match s.team tk with
  | none => s
  | some t =>
    let ks := s.reachedBy tk t
    if !(t.yieldreq || t.requested) || s.met t ks || (s.waiters t.vi).any (fun w => s.stillNeeds w t ks) then s
    else
      let live := ks.any (fun k => ((s.team k).map (·.yieldreq)).getD false)
      ks.foldl (fun s k => s.mapTeam k (if live then Team.raiseWithdrawal else Team.withdraw)) s
def execYieldWithdrawal (tk : Nat) (s : State) : Out := .next (s.yieldWithdrawal tk)

/-! ### The decision at the end of a cycle (R297) -/

/-- Whether R297 may decide about a team: a request is pending, and neither a halt, a trap nor a held fault whose group can
take it stands before it (R306). -/
def Team.decidable (t : Team) : Bool :=
  t.yieldreq && !t.isHalted && t.raised.isEmpty && t.saving.isNone && !t.aborted && !t.held.any (fun x => t.takable x.1)

/-- Whether the deadline falls due by the end of a cycle (R147). -/
def Team.due (t : Team) (cycle : Nat) : Bool :=
  match t.deadline with
  | some (start, n) => start + n ≤ cycle
  | none => false

/-- Reissues the YIELD words of a team that has arrived: a stranded store faults at one before the save is decided
(R284, R299). -/
def State.faultAtYield (s : State) (tk : Nat) (t : Team) : State :=
  t.bundles.zipIdx.foldl (fun s x =>
    if x.1.wait = .yield && !x.1.members.isEmpty then
      let lit (i : Nat) : DWord := match x.1.clause with
        | some c => c.words.getD (x.1.idx + i) 0
        | none => 0
      s.reissue tk x.2 (yieldSpec (rFields x.1.stopWord) (lit 1) (lit 2))
    else s) s

/-- The team has arrived at its YIELD words (R266): an annotated save is decided, unless a stranded store faults first. -/
def State.decideArrival (s : State) (tk : Nat) (t : Team) : State :=
  let s := s.faultAtYield tk t
  s.mapTeam tk (fun t => if t.decidable && t.arrived then { t with saving := some false, withdrawing := false } else t)

/-- A withdrawal takes effect at the end of a cycle, given for each core, on all the teams that it reaches, or on none (R41): none
of them has arrived or expired. -/
def State.decideWithdrawal (s : State) (tk : Nat) (t : Team) (cycle : Nat → Nat) : State :=
  let ks := s.reachedBy tk t
  let free (k : Nat) : Bool := match s.team k with
    | some t => !t.yieldreq || (t.withdrawing && t.decidable && !t.arrived && !t.due (cycle t.core))
    | none => true
  if s.met t ks || !ks.all free then s.mapTeam tk (fun t => { t with withdrawing := false })
  else ks.foldl (fun s k => s.mapTeam k Team.withdraw) s

/-- What R297 decides about a team at the end of a cycle, given for each core: arrival, then expiry, then withdrawal. -/
def State.decide (s : State) (tk : Nat) (cycle : Nat → Nat) : State :=
  match s.team tk with
  | none => s
  | some t =>
    if !t.decidable then s
    else if t.arrived then s.decideArrival tk t
    else if t.due (cycle t.core) then s.mapTeam tk (fun t => { t with saving := some true, withdrawing := false })
    else if t.withdrawing then s.decideWithdrawal tk t cycle
    else s

/-- DEADLINE_EXPIRY (R297, R147): the deadline has passed with the cycle before, and the full save is decided. The clock
itself decides so for every team (`endCycles`). -/
def State.deadlineExpiry (s : State) (tk : Nat) : State :=
  match s.team tk with
  | none => s
  | some t =>
    if t.decidable && t.due (s.cycle t.core - 1) && 0 < s.cycle t.core then s.decide tk (fun c => s.cycle c - 1) else s
def execDeadlineExpiry (tk : Nat) (s : State) : Out := .next (s.deadlineExpiry tk)

/-- The cycles that end when the clock of a state moves on to that of another: every requested team whose core's %cycle
has changed is decided about at the end of each (R297). In the first of them what has happened is decided; in those after it
nothing but the deadline moves, and the last of them tells whether it has passed. -/
def State.endCycles (s : State) (before : State) : State :=
  let asked := s.teams.filter (fun kt => kt.2.yieldreq)
  let s := asked.foldl (fun s kt =>
    if before.cycle kt.2.core < s.cycle kt.2.core then s.decide kt.1 before.cycle else s) s
  asked.foldl (fun s kt =>
    if before.cycle kt.2.core + 1 < s.cycle kt.2.core then s.decide kt.1 (fun c => s.cycle c - 1) else s) s

end Sys2Proof.Machine
end

