-- ==== Sys2Proof/Machine/Commands.lean ====
section
/-!
DEFINITION. The command ring (R322, R323): the entry, the checks in their order, STATUS and CMDHEAD; and the owner
commands RESUME, RESUMESKIP, ABORT and SAVEFULL (R315, R324).
-/
namespace Sys2Proof.Machine

/-! ### The ring -/

/-- Address of the next entry of a function's ring, where the host has filled one (R322). -/
def State.commandSlot (s : State) (fn : Nat) : Option Nat :=
  let x := s.fn fn
  let base := fld x.cmdq 63 12 * 4096
  let n := fld x.cmdq 3 0
  if !s.ready || physicalFn < fn || base = 0 || n < 4 || 12 < n || x.cmdhead = x.cmdtail then none
  else some (base + 64 * (x.cmdhead.toNat % 2 ^ n))

/-- The next entry of a function's ring (R323). -/
def State.nextCommand (s : State) (fn : Nat) : Option (BitVec 512) :=
  (s.commandSlot fn).map (fun a => BitVec.ofNat 512 (s.hostNat a 64))

/-- Completion (R323, R285): STATUS, then CMDHEAD, as a release at .sys: what is dirty in T1 reaches the pool first. -/
def State.completeCommand (s : State) (fn status : Nat) : State :=
  match s.commandSlot fn with
  | none => s
  | some a =>
    let s := s.flushT1.hostPut (a + 2) 2 status
    s.setFn fn { s.fn fn with cmdhead := (s.fn fn).cmdhead + 1, moved := none }

/-- What a command gives. -/
inductive Answer where
  /-- STATUS 1 -/
  | done (s : State)
  /-- another STATUS; nothing changed -/
  | status (n : Nat)
  /-- STATUS 2 after a DMA write that failed, of which a part may stand (R323) -/
  | failed (s : State)
  /-- not complete yet; what other agents did meanwhile stands -/
  | wait (s : State)

/-- An operand of an entry: `n` bits from a byte (R325). -/
def cmdOp (e : BitVec 512) (byte n : Nat) : Nat := e.toNat / 2 ^ (8 * byte) % 2 ^ n

def cmdLoc (e : BitVec 512) (byte : Nat) : DWord := BitVec.ofNat 64 (cmdOp e byte 64)

/-- A global address that is no multiple of 64 KiB, or malformed (R325, R88); or a range that leaves the address
space. -/
def badVa (va count : Nat) : Bool := va % 65536 ≠ 0 || 2 ^ 57 ≤ va || 2 ^ 57 < va + 65536 * count

/-- A command as the ring sees it. -/
structure Command where
  /-- of the physical function's ring alone (R324) -/
  physical : Bool := true
  /-- operands: byte and bits -/
  operands : List (Nat × Nat)
  /-- a reserved or malformed value of an operand -/
  malformed : Bool := false
  /-- its CTX operands -/
  ctxs : List DWord := []
  /-- its own rule -/
  run : State → Answer

/-- Whether a bit beyond the operands is set (R325). -/
def Command.stray (c : Command) (e : BitVec 512) : Bool :=
  (upFrom 64 448).any (fun i => tbit e.toNat i && !(c.operands.any (fun o => 8 * o.1 ≤ i && i < 8 * o.1 + o.2)))

/-- The checks of R323 after the opcode, in their order, and the command. -/
def Command.answer (c : Command) (s : State) (fn : Nat) (e : BitVec 512) : Answer :=
  if c.physical && fn ≠ physicalFn then .status 5
  else if c.stray e || c.malformed || c.ctxs.any (fun x => !locatorOk x) then .status 4
  else if fn ≠ physicalFn && c.ctxs.any (fun x => s.ctxVi x ≠ fn) then .status 5
  else if c.ctxs.any (fun x => !s.ctxDefined x) then .status 2
  else c.run s

/-- The device performs the entry that stands next on a ring (R323). -/
def State.perform' (s : State) (i : Instr) (fn : Nat) (e : BitVec 512) (answer : Answer) : State :=
  if s.nextCommand fn ≠ some e || decodeCommand fn e ≠ i || s.stopped then s
  else
    match answer with
    | .done s => s.completeCommand fn 1
    | .status n => s.completeCommand fn n
    | .failed s => s.completeCommand fn 2
    | .wait s => s

/-- UNASSIGNED_OPC_COMMAND (R323). -/
def execUnassignedOpcCommand (fn : Nat) (e : BitVec 512) (s : State) : Out :=
  .next (s.perform' (.unassignedOpcCommand fn e) fn e (.status 4))

/-! ### Owner commands (R315, R324) -/

/-- Key of the team that an owner command names. -/
def ownerKey (e : BitVec 512) : Nat := 32 * cmdOp e 16 16 + cmdOp e 18 5

/-- The halted team that an owner command names by CTX, CORE, position and SEQ; none refuses the command. A team that
is being saved, or that is aborted, has taken an earlier command. -/
def State.ownedTeam (s : State) (e : BitVec 512) : Option (Team × Halt) :=
  match s.team (ownerKey e) with
  | none => none
  | some t =>
    match t.halt with
    | none => none
    | some h =>
      if t.ctx = cmdLoc e 8 && h.phase ≠ .stopping && h.seq = BitVec.ofNat 32 (cmdOp e 20 32) &&
          t.saving.isNone && !t.aborted
      then some (t, h) else none

/-- An owner command with its effect on the team. -/
def ownerCommand (e : BitVec 512) (run : State → Team → Halt → Answer) : Command where
  physical := false
  operands := [(8, 64), (16, 16), (18, 5), (20, 32)]
  ctxs := [cmdLoc e 8]
  run := fun s => match s.ownedTeam e with
    | none => .status 2
    | some (t, h) => run s t h

/-- The team runs on, as after TRET (R267, R308): with a skip, the next stranded store of its group halts it (R310). -/
def State.resumed (s : State) (tk : Nat) (t : Team) (skip : Bool) (k : Nat) : State :=
  let s := (s.mapTeam tk (fun t => resumeTeam t skip k)).restartDeadline tk t
  (if skip then s.nextStranded tk t else s).finishBarriers tk

/-- RESUME. -/
def resumeCommand (e : BitVec 512) : Command :=
  ownerCommand e (fun s t h =>
    if h.phase = .handler then .status 2 else .done (s.resumed (ownerKey e) t false 0))
def execResume (fn : Nat) (e : BitVec 512) (s : State) : Out :=
  .next (s.perform' (.resume fn e) fn e ((resumeCommand e).answer s fn e))

/-- RESUMESKIP: refused where TRET.skip would not be allowed (R267). -/
def resumeskipCommand (e : BitVec 512) : Command :=
  ownerCommand e (fun s t h =>
    if h.phase = .handler ||
        (h.trap.bundle.isSome && (h.trap.widx = 0xFFFFFFFF || h.trap.info.cause = 0x05)) then .status 2
    else .done (s.resumed (ownerKey e) t true h.skipLength))
def execResumeskip (fn : Nat) (e : BitVec 512) (s : State) : Out :=
  .next (s.perform' (.resumeskip fn e) fn e ((resumeskipCommand e).answer s fn e))

/-- A team is aborted: its words that wait count no more (R146). -/
def Team.abort (t : Team) : Team := { t.unissueAll with aborted := true }

/-- ABORT: the team's threads stop, and it ends once its engine operations have retired (R25). -/
def abortCommand (e : BitVec 512) : Command :=
  ownerCommand e (fun s _ _ => .done (s.mapTeam (ownerKey e) Team.abort))
def execAbort (fn : Nat) (e : BitVec 512) (s : State) : Out :=
  .next (s.perform' (.abort fn e) fn e ((abortCommand e).answer s fn e))

/-- SAVEFULL: a full save is decided. -/
def savefullCommand (e : BitVec 512) : Command :=
  ownerCommand e (fun s _ h =>
    if h.phase = .handler then .status 2
    else .done (s.mapTeam (ownerKey e) (fun t => { t with saving := some true })))
def execSavefull (fn : Nat) (e : BitVec 512) (s : State) : Out :=
  .next (s.perform' (.savefull fn e) fn e ((savefullCommand e).answer s fn e))

end Sys2Proof.Machine
end

