-- ==== Sys2Proof/Machine/TableCommands.lean ====
section
/-!
DEFINITION. The table commands (R127, R325): MAPNEW, MAP, SHARE, RESERVE, UNMAP, PROTECT, MAPCHAIN and MIGRATE, with
the directories that they make (R120).
-/
namespace Sys2Proof.Machine

/-! ### Directories (R120; log 5) -/

/-- A new table: the topmost reserved frame of a partition that no directory has taken. -/
def State.newTable (s : State) (part : Nat) : Option (Nat × State) :=
  if 4096 ≤ s.tableNext then none
  else
    let a := part * 2 ^ 35 + (524287 - s.tableNext) * 65536
    some (a, { s with tableNext := s.tableNext + 1, mem := s.mem.zero a (a + 65536) })

/-- The next level of a walk, made where the entry is zero; none where the entry is malformed. -/
def State.makeLevel (s : State) (part table index : Nat) : Option (Nat × State) :=
  if s.mem.readLE (table + 16 * index) 16 = 0 then
    (s.newTable part).map (fun r => (r.1, r.2.setPte (table + 16 * index) (locatorOf r.1).toNat))
  else (s.descend table index).map (fun t => (t, s))

/-- The leaf entry of a page, its tables made where they are missing. -/
def State.makeLeaf (s : State) (c : DWord) (va : Nat) : Option (Nat × State) :=
  let part := fld (s.ctxRoot c) 63 59
  (s.makeLevel part (locatorAddr (s.ctxRoot c)) (bits va 56 52)).bind (fun r =>
    (r.2.makeLevel part r.1 (bits va 51 40)).bind (fun r =>
      (r.2.makeLevel part r.1 (bits va 39 28)).map (fun r => (r.1 + 16 * bits va 27 16, r.2))))

/-- The addresses of a range of pages. -/
def pagesOf (va count : Nat) : List Nat := (upFrom 0 count).map (fun i => va + 65536 * i)

/-- The leaf entries of a range, made where they are missing. -/
def State.makeLeaves (s : State) (c : DWord) (pages : List Nat) : Option (List Nat × State) :=
  pages.foldl (fun (acc : Option (List Nat × State)) va =>
    acc.bind (fun r => (r.2.makeLeaf c va).map (fun x => (r.1 ++ [x.1], x.2)))) (some ([], s))

/-- The PTE of a page as it stands; zero where no directory leads to it. -/
def State.pageEntry (s : State) (c : DWord) (va : Nat) : Nat :=
  match s.leaf c va with
  | some a => s.pte a
  | none => 0

/-! ### Entries -/

/-- FLAGS laid into a PTE (R325): RD, W, COW, LAT, SHR. -/
def flagBits (fl : Nat) : Nat :=
  fl % 8 * 4 + bits fl 3 3 * 64 + bits fl 4 4 * 32

/-- A PTE with other flags (R127). -/
def withFlags (x fl : Nat) : Nat := setBits x 6 2 0 + flagBits fl

/-- A valid plain PTE. -/
def plainPte (fl home tier loc : Nat) : Nat := 1 + flagBits fl + home * 2 ^ 43 + tier * 2 ^ 41 + loc * 2 ^ 48

/-! ### MAPNEW, MAP, RESERVE -/

/-- MAPNEW. -/
def mapnewCommand (e : BitVec 512) : Command :=
  let c := cmdLoc e 8
  let va := cmdOp e 16 64
  let home := cmdOp e 24 5
  let tier := cmdOp e 25 2
  { operands := [(8, 64), (16, 64), (24, 5), (25, 2), (26, 5)], ctxs := [c],
    malformed := badVa va 1 || 2 ≤ tier,
    run := fun s =>
      let vi := s.ctxVi c
      if pteV (s.pageEntry c va) then .status 2
      else
        match (s.makeLeaf c va).bind (fun r => (r.2.takeFrame vi tier home).map (fun f => (r.1, f))) with
        | none => .status 2
        | some (a, loc, s) => .done (s.joinRing vi a (plainPte (cmdOp e 26 5) home tier loc)) }
def execMapnew (fn : Nat) (e : BitVec 512) (s : State) : Out :=
  .next (s.perform' (.mapnew fn e) fn e ((mapnewCommand e).answer s fn e))

/-- Whether a frame number lies in its tier (R89, R131). -/
def State.frameExists (s : State) (vi tier loc : Nat) : Bool :=
  if tier = 0 then loc < 524288 else if tier = 1 then loc < (s.viEntry vi).n1 else loc < (s.viEntry vi).n2

/-- MAP. -/
def mapCommand (e : BitVec 512) : Command :=
  let c := cmdLoc e 8
  let va := cmdOp e 16 64
  let home := cmdOp e 24 5
  let tier := cmdOp e 25 2
  let loc := cmdOp e 28 32
  { operands := [(8, 64), (16, 64), (24, 5), (25, 2), (26, 5), (28, 32)], ctxs := [c],
    malformed := badVa va 1 || tier = 3,
    run := fun s =>
      let vi := s.ctxVi c
      let d := s.desc vi tier home loc
      if pteV (s.pageEntry c va) || !s.frameExists vi tier loc || d.state ≠ 1 || d.vi ≠ vi || d.refs = 2 ^ 32 - 1
      then .status 2
      else
        match s.makeLeaf c va with
        | none => .status 2
        | some (a, s) => .done (s.joinRing vi a (plainPte (cmdOp e 26 5) home tier loc)) }
def execMap (fn : Nat) (e : BitVec 512) (s : State) : Out :=
  .next (s.perform' (.map fn e) fn e ((mapCommand e).answer s fn e))

/-- RESERVE. -/
def reserveCommand (e : BitVec 512) : Command :=
  let c := cmdLoc e 8
  let va := cmdOp e 16 64
  let n := cmdOp e 28 32
  { operands := [(8, 64), (16, 64), (24, 5), (26, 5), (28, 32)], ctxs := [c], malformed := badVa va n,
    run := fun s =>
      if (pagesOf va n).any (fun v => pteV (s.pageEntry c v)) then .status 2
      else
        match s.makeLeaves c (pagesOf va n) with
        | none => .status 2
        | some (as, s) =>
          .done (as.foldl (fun s a => s.setPte a (128 + flagBits (cmdOp e 26 5) + cmdOp e 24 5 * 2 ^ 43)) s) }
def execReserve (fn : Nat) (e : BitVec 512) (s : State) : Out :=
  .next (s.perform' (.reserve fn e) fn e ((reserveCommand e).answer s fn e))

/-! ### SHARE -/

/-- One page of SHARE: a mapped source is copied with COW set and W clear, and so is a reservation. -/
def State.sharePage (s : State) (vi src dst : Nat) : State :=
  let x := setBits (setBits (s.pte src) 4 4 1) 3 3 0
  if pteV x then
    let s := s.setPte src x
    s.joinRing vi dst x
  else if pteDemand x then (s.setPte src x).setPte dst x
  else s.setPte dst 0

/-- SHARE: pending stores to the source pages are committed first (R283). -/
def shareCommand (e : BitVec 512) : Command :=
  let c := cmdLoc e 8
  let va := cmdOp e 16 64
  let c' := cmdLoc e 24
  let va' := cmdOp e 32 64
  let n := cmdOp e 40 32
  { operands := [(8, 64), (16, 64), (24, 64), (32, 64), (40, 32)], ctxs := [c, c'],
    malformed := badVa va n || badVa va' n || n = 0,
    run := fun s =>
      if s.ctxVi c ≠ s.ctxVi c' || (pagesOf va' n).any (fun v => pteV (s.pageEntry c' v)) then .status 2
      else
        let mapped := ((pagesOf va n).map (s.pageEntry c)).filter pteV
        let s := mapped.foldl State.commitPage s
        if mapped.any s.storesOn then .wait s
        else
          match (s.makeLeaves c (pagesOf va n)).bind (fun r => (r.2.makeLeaves c' (pagesOf va' n)).map (fun q => (r.1, q))) with
          | none => .status 2
          | some (src, dst, s) =>
            .done ((src.zip dst).foldl (fun s p => s.sharePage (s.ctxVi c) p.1 p.2) s) }
def execShare (fn : Nat) (e : BitVec 512) (s : State) : Out :=
  .next (s.perform' (.share fn e) fn e ((shareCommand e).answer s fn e))

/-! ### UNMAP and PROTECT (R283) -/

/-- Whether an access translated under an entry has still to be made. -/
def State.underEntry (s : State) (x : Nat) : Bool := s.loadsOn x || s.projsOn x || s.flyingOn x

/-- UNMAP. -/
def unmapCommand (e : BitVec 512) : Command :=
  let c := cmdLoc e 8
  let va := cmdOp e 16 64
  let n := cmdOp e 28 32
  { operands := [(8, 64), (16, 64), (28, 32)], ctxs := [c], malformed := badVa va n,
    run := fun s =>
      let as := (pagesOf va n).filterMap (s.leaf c)
      if as.any (fun a => pteV (s.pte a) && s.underEntry (s.pte a)) then .wait s
      else .done (as.foldl (fun s a =>
        let x := s.pte a
        if pteV x then (s.strand a x 0x10).unlink (s.ctxVi c) a else s.setPte a 0) s) }
def execUnmap (fn : Nat) (e : BitVec 512) (s : State) : Out :=
  .next (s.perform' (.unmap fn e) fn e ((unmapCommand e).answer s fn e))

/-- Whether a new entry still permits an accepted store into the same frame (R283). -/
def State.keepsStores (s : State) (vi x : Nat) : Bool :=
  (pteW x && !pteCow x) || (pteCow x && (s.pageDesc vi x).refs ≤ 1)

/-- PROTECT. -/
def protectCommand (e : BitVec 512) : Command :=
  let c := cmdLoc e 8
  let va := cmdOp e 16 64
  let n := cmdOp e 28 32
  let fl := cmdOp e 26 5
  { operands := [(8, 64), (16, 64), (26, 5), (28, 32)], ctxs := [c], malformed := badVa va n,
    run := fun s =>
      if (pagesOf va n).any (fun v => !pteV (s.pageEntry c v) && !pteDemand (s.pageEntry c v)) then .status 2
      else
        let vi := s.ctxVi c
        let as := (pagesOf va n).filterMap (s.leaf c)
        let kept := as.filter (fun a => pteV (s.pte a) && s.keepsStores vi (withFlags (s.pte a) fl))
        let s := kept.foldl (fun s a => s.commitPage (s.pte a)) s
        if as.any (fun a => pteV (s.pte a) && s.underEntry (s.pte a)) ||
            kept.any (fun a => s.storesOn (s.pte a)) then .wait s
        else .done (as.foldl (fun s a =>
          let x := s.pte a
          let s := if pteV x && !s.keepsStores vi (withFlags x fl) then s.strand a x 0x11 else s
          s.setPte a (withFlags x fl)) s) }
def execProtect (fn : Nat) (e : BitVec 512) (s : State) : Out :=
  .next (s.perform' (.protect fn e) fn e ((protectCommand e).answer s fn e))

/-! ### MAPCHAIN and MIGRATE -/

/-- A new page map entry of a flight: one frame on the partition of each serving or joining step. -/
def State.newEntry (s : State) (fl vi : Nat) : Option (Nat × State) :=
  let f := s.flight fl
  ((upFrom 0 f.npage).find? (fun i => !s.entryInUse f i)).bind (fun i =>
    ((f.stepList.filter (fun x => x.1 = 1 || x.1 = 2)).foldl (fun (acc : Option State) x =>
      acc.bind (fun s => (s.popFrame (4 * x.2.1 + x.2.2) vi).map (fun r =>
        { r.2 with mem := r.2.mem.writeLE (f.entryAddr i + 4 * x.2.1) 4 (2 ^ 31 + r.1) }))) (some s)).map
      (fun s => (i, s)))

/-- MAPCHAIN. -/
def mapchainCommand (e : BitVec 512) : Command :=
  let c := cmdLoc e 8
  let va := cmdOp e 16 64
  let fl := cmdOp e 24 6
  { operands := [(8, 64), (16, 64), (24, 6), (26, 5)], ctxs := [c], malformed := badVa va 1,
    run := fun s =>
      let vi := s.ctxVi c
      if pteV (s.pageEntry c va) || !(s.flight fl).valid || (s.flight fl).owner ≠ vi then .status 2
      else
        match (s.makeLeaf c va).bind (fun r => (r.2.newEntry fl vi).map (fun q => (r.1, q))) with
        | none => .status 2
        | some (a, i, s) =>
          .done (s.joinRing vi a (1 + flagBits (cmdOp e 26 5) + i * 2 ^ 48 + 2 ^ 80 + fl * 2 ^ 82)) }
def execMapchain (fn : Nat) (e : BitVec 512) (s : State) : Out :=
  .next (s.perform' (.mapchain fn e) fn e ((mapchainCommand e).answer s fn e))

/-- MIGRATE (R128): its request stands in the migration queue of the page's home die (R106), and the command completes when
the control core has served it. Busy where that queue is full (R115), or no frame is free in the target. -/
def migrateCommand (e : BitVec 512) : Command :=
  let c := cmdLoc e 8
  let va := cmdOp e 16 64
  let part := cmdOp e 24 5
  let tier := cmdOp e 25 2
  { operands := [(8, 64), (16, 64), (24, 5), (25, 2)], ctxs := [c], malformed := badVa va 1 || 2 ≤ tier,
    run := fun s =>
      let vi := s.ctxVi c
      let x := s.pageEntry c va
      let die := pteHome x / 4
      let d := s.die die
      match (s.fn physicalFn).moved with
      | some 0 => .wait s
      | some 1 => .done s
      | some k => .status k
      | none =>
        if !pteV x || pteClass x = 1 || s.pteReserved vi x || (s.pageDesc vi x).state ≠ 1 then .status 2
        else if 1024 ≤ d.migration.length || (s.takeFrame vi tier (if tier = 0 then part else pteHome x)).isNone
        then .status 3
        else .wait ((s.setDie die { d with migration := d.migration ++
            [{ ctx := c, vi := vi, va := BitVec.ofNat 64 va, target := some (tier, part) }] }).setFn physicalFn
          { s.fn physicalFn with moved := some 0 }) }
def execMigrate (fn : Nat) (e : BitVec 512) (s : State) : Out :=
  .next (s.perform' (.migrate fn e) fn e ((migrateCommand e).answer s fn e))

end Sys2Proof.Machine
end

