-- ==== Sys2Proof/Machine/ServiceCommands.lean ====
section
/-!
DEFINITION. The commands that set up and service the module (R324, R325): SETCTX (R119), SETPART (R98), SETFLIGHT
(R132), SETVI (R131), QRESET (R114), firmware (R330), dies (R331) and attestation (R329).
-/
namespace Sys2Proof.Machine

/-! ### Measurements (R329) -/

/-- A measurement register extended with a digest. -/
def extend (m d : BitVec 512) : BitVec 512 := Config.shake256 (bytesLE 64 m.toNat ++ bytesLE 64 d.toNat)

/-- M3 of a die is extended with a command. -/
def State.extendM3 (s : State) (die : Nat) (e : BitVec 512) : State :=
  let d := s.die die
  s.setDie die { d with m3 := extend d.m3 (Config.commandDigest e) }

/-! ### SETCTX -/

def setctxCommand (e : BitVec 512) : Command :=
  let c := cmdLoc e 8
  { operands := [(8, 64), (16, 64)], malformed := !locatorOk c,
    run := fun s =>
      match s.dmaRead (cmdOp e 16 64) 128 with
      | none => .status 2
      | some image =>
        if s.teams.any (fun kt => kt.2.ctx = c) || !(descriptorOk image || image.all (· = 0)) then .status 2
        else .done { s with mem := s.mem.writeBytes ((upFrom (locatorAddr c) 128).zip image) } }
def execSetctx (fn : Nat) (e : BitVec 512) (s : State) : Out :=
  .next (s.perform' (.setctx fn e) fn e ((setctxCommand e).answer s fn e))

/-! ### SETPART (R98, R105) -/

/-- The L2 mode of a die that its partitions give with a SHARED bit (R98). -/
def State.sharedMode (s : State) (die : Nat) (shared : Bool) : Bool :=
  let ps := (upFrom (4 * die) 4).map s.part
  shared && ps.all (fun p => p.owned && p.vi = (ps.headD {}).vi)

/-- Sets the mode in the four entries of a die. -/
def State.setMode (s : State) (die : Nat) (m : Bool) : State :=
  (upFrom (4 * die) 4).foldl (fun s p => s.setPart p { s.part p with l2sh := m }) s

/-- Writes back and drops the lines that a die's 32 slices cache, or those in a partition's own eight. -/
def State.emptySlices (s : State) (die : Nat) (part : Option Nat) : State :=
  ((s.l2.filter (fun l => match part with
    | none => l.slice / 32 = die
    | some p => l.slice / 8 = p)).map (·.line)).foldl State.dropL2 s

/-- Zeroes the plinths of a partition (R105): view cache and arrays. -/
def State.emptyPlinths (s : State) (p : Nat) : State :=
  let s := s.eraseArrays ((upFrom (8 * p) 8).flatMap (fun q => (arrayKeys q).filter (fun k =>
    (s.array k).ast ≠ 0 && (s.array k).ast ≠ 4))) 0
  { s with vcache := s.vcache.filter (fun v => v.plinth / 8 ≠ p) }

/-- A partition with a new owner, and the mode of its die (R98 steps 2 to 5). -/
def State.givePart (s : State) (p : Nat) (owned : Bool) (vi : Nat) (shared : Bool) : State :=
  let die := p / 4
  let x := s.part p
  let moved := x.owned ≠ owned || (owned && x.vi ≠ vi)
  let y : Part := { x with owned := owned, vi := if owned then vi else 0 }
  let m := (s.setPart p y).sharedMode die shared
  let s := if m ≠ x.l2sh then s.emptySlices die none else if moved then s.emptySlices die (some p) else s
  let s := if moved then s.emptyPlinths p else s
  (s.setPart p y).setMode die m

/-- Virtual interfaces of the teams resident on a die. -/
def State.residentVis (s : State) (die : Nat) : List Nat :=
  (s.teams.filter (fun kt => kt.2.coreList.any (fun c => coreDie c = die))).map (fun kt => kt.2.vi)

/-- Whether a request of some team to a plinth of a partition is in flight (R239). -/
def State.plinthAsked (s : State) (p : Nat) : Bool :=
  let here (x : Proj) : Bool := x.plinth / 8 = p || (match x.digital with
    | some q => q / 8 = p
    | none => false)
  s.words.any (fun w => w.projs.any here) ||
  s.ops.any (fun o => match o.kind with
    | .view ps _ => ps.any here
    | .xprog _ _ plinths _ => plinths.any (fun q => q / 8 = p)
    | _ => false)

/-- SETPART: refused while a team of the old owner or of the new one is resident on the die, or, where the L2 mode
would change, any team; and, of a partition that changes its owner, while its plinths have requests in flight (R239). -/
def setpartCommand (e : BitVec 512) : Command :=
  let p := cmdOp e 8 5
  let owned := cmdOp e 9 1 = 1
  let vi := cmdOp e 10 6
  let shared := cmdOp e 11 1 = 1
  { operands := [(8, 5), (9, 1), (10, 6), (11, 1)],
    run := fun s =>
      let x := s.part p
      let m := (s.setPart p { x with owned := owned, vi := if owned then vi else 0 }).sharedMode (p / 4) shared
      let moved := x.owned ≠ owned || (owned && x.vi ≠ vi)
      if (s.residentVis (p / 4)).any (fun v => (x.owned && v = x.vi) || (owned && v = vi) || m ≠ x.l2sh) ||
          (moved && s.plinthAsked p) then .status 2
      else .done ((s.givePart p owned vi shared).extendM3 (p / 4) e) }
def execSetpart (fn : Nat) (e : BitVec 512) (s : State) : Out :=
  .next (s.perform' (.setpart fn e) fn e ((setpartCommand e).answer s fn e))

/-! ### SETFLIGHT and SETVI -/

/-- The bytes of STEPS: SST, die and quadrant. -/
def stepBytes (x : Nat) : List (Nat × Nat × Nat) :=
  (upFrom 0 8).map (fun i => let b := x / 2 ^ (8 * i) % 256
    (b / 32, b / 4 % 8, b % 4))

/-- A reserved SST, or a nonzero bit in an empty step (R132). -/
def stepsMalformed (x : Nat) : Bool :=
  (stepBytes x).any (fun b => 4 ≤ b.1 || (b.1 = 0 && (b.2.1 ≠ 0 || b.2.2 ≠ 0)))

/-- Whether STEPS keeps the rules of R132 for an owner: contiguous from step 0, no die twice, every quadrant owned; and
no step joins or leaves. -/
def State.stepsAllowed (s : State) (x owner : Nat) : Bool :=
  let all := stepBytes x
  let used := all.filter (fun b => b.1 ≠ 0)
  (all.take used.length).all (fun b => b.1 = 1) &&
  (upFrom 0 8).all (fun d => (used.filter (fun b => b.2.1 = d)).length ≤ 1) &&
  used.all (fun b => (s.part (4 * b.2.1 + b.2.2)).owned && (s.part (4 * b.2.1 + b.2.2)).vi = owner)

/-- SETFLIGHT: with VALID 0 the entry is cleared. -/
def setflightCommand (e : BitVec 512) : Command :=
  let fl := cmdOp e 8 6
  let valid := cmdOp e 9 1 = 1
  let owner := cmdOp e 10 6
  let steps := cmdOp e 32 64
  { operands := [(8, 6), (9, 1), (10, 6), (16, 64), (24, 32), (32, 64)],
    malformed := stepsMalformed steps || !locatorOk (cmdLoc e 16),
    run := fun s =>
      let f := s.flight fl
      if !s.stepsAllowed steps owner || !(s.entriesInUse f).isEmpty || f.stepList.any (fun x => x.1 ≠ 1) then .status 2
      else .done (s.setFlight fl (if valid then
        { pmap := cmdLoc e 16, npage := cmdOp e 24 32, copypos := 0, steps := BitVec.ofNat 64 steps, owner := owner,
          valid := true } else {})) }
def execSetflight (fn : Nat) (e : BitVec 512) (s : State) : Out :=
  .next (s.perform' (.setflight fn e) fn e ((setflightCommand e).answer s fn e))

/-- SETVI: M3 of every die is extended. -/
def setviCommand (e : BitVec 512) : Command :=
  { operands := [(8, 6), (16, 64), (24, 32), (28, 64), (36, 32)],
    malformed := !locatorOk (cmdLoc e 16) || !locatorOk (cmdLoc e 28),
    run := fun s =>
      let x : Vi := { far1 := cmdLoc e 16, n1 := cmdOp e 24 32, far2 := cmdLoc e 28, n2 := cmdOp e 36 32 }
      let s := { s with vis := Sparse.put s.vis {} (cmdOp e 8 6) x }
      .done ((upFrom 0 8).foldl (fun s d => s.extendM3 d e) s) }
def execSetvi (fn : Nat) (e : BitVec 512) (s : State) : Out :=
  .next (s.perform' (.setvi fn e) fn e ((setviCommand e).answer s fn e))

/-! ### QRESET (R114, R325) -/

/-- Whether the DMA accesses of a QRESET to a queue's lines succeed (R323; log 80); a queue in device memory asks none. -/
def State.linesAnswer (s : State) (fn base : Nat) : Bool :=
  (s.inWindow fn base).isSome || (s.dmaRead base 4).isSome && (s.dmaRead (base + 132) 4).isSome

/-- QRESET: HEAD is 0, the stop ends, and the scheduler goes on from slot 0 up to the TAIL in the tail line. -/
def qresetCommand (e : BitVec 512) (fn : Nat) : Command :=
  let prio := cmdOp e 8 2
  { physical := false, operands := [(8, 2)],
    run := fun s =>
      let q := s.lq fn prio
      let x := s.setLq fn prio { q with head := 0, tail := 0, stopped := false }
      if q.base = 0 then .done x
      else if !s.linesAnswer fn q.base then .status 2
      else
        match x.queueWrite fn (q.base + 132) 0 with
        | .wait _ => .wait s
        | .fail .. => .status 2
        | .ok _ x =>
          match x.queueRead fn q.base 4 with
          | .wait _ => .wait s
          | .fail .. => .status 2
          | .ok bs x => .done (x.seeTail fn prio (BitVec.ofNat 32 (ofBytesLE bs))) }
def execQreset (fn : Nat) (e : BitVec 512) (s : State) : Out :=
  .next (s.perform' (.qreset fn e) fn e ((qresetCommand e fn).answer s fn e))

/-! ### Firmware (R330) -/

/-- FWSTAGE: an image without the vendor's signature is refused. -/
def fwstageCommand (e : BitVec 512) : Command :=
  let die := cmdOp e 8 3
  { operands := [(8, 3), (16, 64), (24, 32)],
    run := fun s =>
      let d := s.die die
      match s.dmaRead (cmdOp e 16 64) (cmdOp e 24 32) with
      | none => .status 2
      | some image =>
        if Config.firmwareSigned d.m0 image then .done (s.setDie die { d with staged := some (Config.shake256 image) })
        else .status 2 }
def execFwstage (fn : Nat) (e : BitVec 512) (s : State) : Out :=
  .next (s.perform' (.fwstage fn e) fn e ((fwstageCommand e).answer s fn e))

/-- FWACTIVATE: busy while a die is switching, the named one too (log 104); refused where nothing is staged. The image
that is staged now is the one that the switch starts. -/
def fwactivateCommand (e : BitVec 512) : Command :=
  let die := cmdOp e 8 3
  { operands := [(8, 3)],
    run := fun s =>
      if (upFrom 0 8).any (fun d => (s.die d).switching) then .status 3
      else if (s.die die).staged.isNone then .status 2
      else .done { s.setDie die { s.die die with switching := true, activating := (s.die die).staged } with
        suspended := true } }
def execFwactivate (fn : Nat) (e : BitVec 512) (s : State) : Out :=
  .next (s.perform' (.fwactivate fn e) fn e ((fwactivateCommand e).answer s fn e))

/-- FIRMWARE_SWITCH_COMPLETE: once the old image has finished the migration in hand (R330), the new one runs, and M1 is
extended. -/
def State.switchComplete (s : State) (die : Nat) : State :=
  let d := s.die die
  match d.activating with
  | some x =>
    if d.switching && d.migration.all (fun m => m.begun.isNone) then
      { s.setDie die { d with switching := false, activating := none, firmware := x, m1 := extend d.m1 x } with
        suspended := false }
    else s
  | none => s
def execFirmwareSwitchComplete (die : Nat) (s : State) : Out := .next (s.switchComplete die)

/-! ### Dies (R331) -/

/-- Whether the frame of a partition is a frame of a flight step. -/
def State.flightFrame (s : State) (p fr : Nat) : Bool :=
  s.flights.any (fun x => x.2.stepList.any (fun st => 4 * st.2.1 + st.2.2 = p) &&
    (s.entriesInUse x.2).any (fun e => s.entryFrame x.2 e (p / 4) = some fr && x.2.quadOf (p / 4) = some (p % 4)))

/-- Whether DIEOUT is refused (R331). -/
def State.dieBusy (s : State) (die : Nat) : Bool :=
  s.teams.any (fun kt => kt.2.coreList.any (fun c => coreDie c = die)) ||
  s.frames.any (fun x => x.1 / 524288 / 4 = die && x.2.state ≠ 0 && !s.flightFrame (x.1 / 524288) (x.1 % 524288)) ||
  s.flights.any (fun x =>
    let serving := x.2.stepList.filter (fun st => st.1 = 1)
    (serving.length = 1 && serving.any (fun st => st.2.1 = die)) ||
    (match x.2.stepList with
     | h :: _ => h.2.1 = die && x.2.joining
     | [] => false))

/-- Cuts a die from every flight, as FCUT does, as far as it can be cut now. -/
def State.cutDie (s : State) (die : Nat) : State :=
  (s.flights.map (·.1)).foldl (fun s fl =>
    let f := s.flight fl
    match f.stepList.find? (fun x => x.1 = 1 && x.2.1 = die) with
    | some x => (s.cutStep f.owner (BitVec.ofNat 32 fl) (BitVec.ofNat 32 (4 * die + x.2.2))).getD s
    | none => s) s

/-- A die as its reset leaves it: %cycle from here, measurements of boot and calibration (R149, R329), queues empty. -/
def Die.afterReset (d : Die) (die now : Nat) : Die :=
  { d with m0 := extend 0 (Config.bootDigest die), m1 := 0, m2 := extend 0 (Config.calibrationDigest die), m3 := 0,
           staged := none, activating := none, firmware := Config.bootDigest die, switching := false, resetAt := now,
           service := [], migration := [] }

/-- Recalibrates the crossbar arrays of a die out of service: retired arrays stay so, and of the others PROGS alone
stays (log 90). -/
def State.recalibrateDie (s : State) (die : Nat) : State :=
  (upFrom (32 * die) 32).foldl (fun s q => (arrayKeys q).foldl (fun s k =>
    if (s.array k).ast = 4 then s else s.setArray k { progs := (s.array k).progs }) s) s

/-- Whether a die's test retires an HBM pseudo-channel of a partition (R331 step 4; log 88). -/
def State.channelFails (s : State) (p : Nat) : Bool := s.poison.any (fun l => l * 128 / 2 ^ 35 = p)

/-- A die's failing pseudo-channels go to spares, each reported (R326): no address changes, and no access is made during
the move, which ends in this step. -/
def State.retireChannels (s : State) (die : Nat) : State :=
  ((upFrom (4 * die) 4).filter s.channelFails).foldl (fun s p => s.postError physicalFn 6 p 0 0 0) s

/-- The reset of a die (R331 step 3): its cores, queues and slices are as after power-on; a MIGRATE command that waits
for its queue is refused. -/
def State.resetDie (s : State) (die : Nat) : State :=
  let s := s.emptySlices die none
  let d := s.die die
  let x := s.fn physicalFn
  let s := if d.migration.any (fun m => m.target.isSome) && x.moved = some 0
    then s.setFn physicalFn { x with moved := some 2 } else s
  { s.setDie die (d.afterReset die s.now) with
    cores := s.cores.filter (fun c => coreDie c.1 ≠ die), suspended := s.suspended && !d.switching }

/-- The die's partitions lose their owner; the die is reset, tested and recalibrated, and failing pseudo-channels go to
spares (R331 steps 2 to 4). -/
def State.takeOut (s : State) (die : Nat) (e : BitVec 512) : State :=
  let s := (upFrom (4 * die) 4).foldl (fun s p => s.givePart p false 0 false) s
  let s := ((s.extendM3 die e).recalibrateDie die).resetDie die
  let s := s.retireChannels die
  s.setDie die { s.die die with leaving := false, lost := false, out := true }

/-- Whether a die that leaves has to wait: a flight has not drained from it, its control core has a migration in hand, or
its plinths, whose owner changes, have requests in flight (R239). -/
def State.dieHeld (s : State) (die : Nat) : Bool :=
  (upFrom (4 * die) 4).any s.plinthAsked || s.flights.any (fun x => x.2.stepList.any (fun st => st.2.1 = die)) ||
  (s.die die).migration.any (fun m => m.begun.isSome)

/-- DIEOUT: it completes once every flight has drained from the die. -/
def dieoutCommand (e : BitVec 512) : Command :=
  let die := cmdOp e 8 3
  { operands := [(8, 3)],
    run := fun s =>
      if !(s.die die).leaving && s.dieBusy die then .status 2
      else
        let s := (s.setDie die { s.die die with out := true, leaving := true }).cutDie die
        if s.dieHeld die then .wait s else .done (s.takeOut die e) }
def execDieout (fn : Nat) (e : BitVec 512) (s : State) : Out :=
  .next (s.perform' (.dieout fn e) fn e ((dieoutCommand e).answer s fn e))

/-- DIEIN: the die returns with its partitions unowned. A die in service stays as it is; one that is still to be taken
out is refused (log 56). -/
def dieinCommand (e : BitVec 512) : Command :=
  let die := cmdOp e 8 3
  { operands := [(8, 3)],
    run := fun s =>
      if !(s.die die).out then .done s
      else if (s.die die).lost then .status 2
      else
        let s := (upFrom (4 * die) 4).foldl (fun s p => s.givePart p false 0 false) s
        .done (s.setDie die { s.die die with out := false }) }
def execDiein (fn : Nat) (e : BitVec 512) (s : State) : Out :=
  .next (s.perform' (.diein fn e) fn e ((dieinCommand e).answer s fn e))

/-! ### ATTEST (R329; log 9) -/

/-- The bytes of a report before its signature. -/
def State.reportBody (s : State) (fn : Nat) (nonce : Nat) : List Byte :=
  let dies := upFrom 0 8
  bytesLE 16 Config.serial.toNat ++ bytesLE 32 nonce ++
  (if fn = physicalFn then
    dies.flatMap (fun d =>
      let x := s.die d
      bytesLE 8 (Config.firmwareVersion x.firmware).toNat ++ bytesLE 64 x.m0.toNat ++ bytesLE 64 x.m1.toNat ++
        bytesLE 64 x.m2.toNat ++ bytesLE 64 x.m3.toNat)
   else
    bytesLE 4 fn ++ (dies.filter (fun d => (s.owned fn).any (fun p => p / 4 = d))).flatMap (fun d =>
      bytesLE 64 (s.die d).m3.toNat))

/-- What ATTEST writes: the report and its signature, at most 1,462 bytes, then the module's public key as far as the
4 KiB buffer holds it (log 10). -/
def State.report4K (s : State) (fn nonce : Nat) : List Byte :=
  let body := s.reportBody fn nonce
  (body ++ (Config.falconSign (Config.shake256 body)).take 1462 ++ Config.publicKey).take 4096

/-- ATTEST: the report goes to host memory; where its DMA write fails, a part of it may stand (R323). -/
def attestCommand (e : BitVec 512) (fn : Nat) : Command :=
  { physical := false, operands := [(8, 256), (40, 64)],
    run := fun s =>
      let out := (upFrom (cmdOp e 40 64) 4096).zip (s.report4K fn (cmdOp e 8 256))
      let good := out.takeWhile (fun x => Config.hostAnswers s.now x.1)
      let s := { s with hostMem := s.hostMem.writeBytes good }
      if good.length = out.length then .done s else .failed s }
def execAttest (fn : Nat) (e : BitVec 512) (s : State) : Out :=
  .next (s.perform' (.attest fn e) fn e ((attestCommand e fn).answer s fn e))

end Sys2Proof.Machine
end

