-- ==== Sys2Proof/Machine/Service.lean ====
section
/-!
DEFINITION. What the host and the module's own hardware do outside the command rings: register windows (R322), the
CXL.mem window (R351, R321), links (R328), errors (R326, R103), bring-up and reset (R332), power and heat (R333), and
the host's, the pool's and the caches' own steps (R285, R95, R96).
-/
namespace Sys2Proof.Machine

/-! ### Register windows (R322) -/

/-- STAT of a function (R322). -/
def State.statReg (s : State) (fn : Nat) : Nat :=
  (if s.ready then 1 else 0) + (if (s.owned fn).isEmpty then 0 else 2) + (if s.suspended then 4 else 0) +
  (if (s.fn fn).errlost then 8 else 0)

/-- What a 64-bit read at a multiple of 8 of a function's window gives (R322); before READY only STAT is not zero
(R332). -/
def State.windowRead (s : State) (fn offset : Nat) : DWord :=
  let x := s.fn fn
  if offset = 0x38 then BitVec.ofNat 64 (s.statReg fn)
  else if !s.ready then 0
  else if offset < 0x20 then (s.lq fn (offset / 8)).reg
  else if offset = 0x20 then x.cmdq
  else if offset = 0x28 then x.cmdhead ++ x.cmdtail
  else if offset = 0x30 then x.errrec
  else 0

/-- LQ_WRITE (R322): only a well-formed value, and only while the queue is empty; otherwise it is ignored, with an
error record of KIND 2. -/
def State.lqWrite (s : State) (fn prio : Nat) (value : DWord) : State :=
  let q := s.lq fn prio
  let n := fld value 4 0
  if !s.ready || 4 ≤ prio || physicalFn < fn then s
  else if q.head = q.tail && fld value 6 5 = 0 && 4 ≤ n && n ≤ 16 then s.setLq fn prio { q with reg := value }
  else s.postError fn 2 prio (8 * prio) 1 0
def execLqWrite (fn prio : Nat) (value : DWord) (s : State) : Out := .next (s.lqWrite fn prio value)

/-- Whether a ring register value has no reserved bit and an n in its range (R322). -/
def ringOk (value : DWord) (top : Nat) : Bool :=
  fld value 11 4 = 0 && 4 ≤ fld value 3 0 && fld value 3 0 ≤ top

/-- ERRREC_WRITE (R322): ERRLOST is cleared. A write of a reserved bit, or of an n outside 4 to 8, is ignored, with an
error record of KIND 2. -/
def State.errrecWrite (s : State) (fn : Nat) (value : DWord) : State :=
  if !s.ready || physicalFn < fn then s
  else if ringOk value 8 then s.setFn fn { s.fn fn with errrec := value, errlost := false }
  else s.postError fn 2 0 0x30 1 0
def execErrrecWrite (fn : Nat) (value : DWord) (s : State) : Out := .next (s.errrecWrite fn value)

/-- REGISTER_WRITE (R322): CMDQ and CMDTAIL take a value; every other offset ignores the write. A CMDQ value with a
reserved bit, or an n outside 4 to 12, is ignored, with an error record of KIND 2. -/
def State.registerWrite (s : State) (fn offset : Nat) (value : DWord) : State :=
  if !s.ready || physicalFn < fn then s
  else if offset = 0x20 then
    if ringOk value 12 then s.setFn fn { s.fn fn with cmdq := value, moved := none }
    else s.postError fn 2 0 0x20 1 0
  else if offset = 0x28 then s.setFn fn { s.fn fn with cmdtail := value.setWidth 32 }
  else s
def execRegisterWrite (fn offset : Nat) (value : DWord) (s : State) : Out := .next (s.registerWrite fn offset value)

/-! ### The CXL.mem window (R351) -/

/-- What a window access meets. -/
inductive Window where
  | reached (p : Place) (s : State)
  /-- not reached: an error record of KIND 9 -/
  | not (s : State)
  /-- a copy-on-write without a frame, or a migrating page -/
  | wait (s : State)

/-- The place of `n` bytes that the window reaches: a T0 page that the context maps with the permission. The access
touches the page (R122), and the copy-on-write of a write is made first; the check then goes on to the step after it. -/
def State.windowPlace (s : State) (fn : Nat) (c : DWord) (va n : Nat) (write : Bool) : Window :=
  let k : Kind := if write then .store else .load
  let vi := s.ctxVi c
  if !s.ctxDefined c || vi ≠ fn then .not s
  else
    let s := s.touchPage c vi va
    match s.leaf c va with
    | none => .not s
    | some a =>
      let reached (s : State) : Window :=
        let p := pagePlace 0 k (s.pte a) va n
        if s.gateOpen vi p then .reached p s else .not s
      if pteTier (s.pte a) ≠ 0 then .not s
      else
        match s.checkPage c vi 0 k va with
        | .page .. => reached s
        | .trap _ => .not s
        | .replay 0x12 => .not s
        | .replay 0x13 => (match s.resolveCow c vi a with
          | some s => (match s.checkPage c vi 0 k va with
            | .page .. => reached s
            | _ => .wait s)
          | none => .wait s)
        | .replay _ => .wait s

/-- The bytes that a read through the window returns, or none for zero data marked as poisoned. -/
def State.windowBytes (s : State) (fn : Nat) (c : DWord) (va n : Nat) : Option (List Byte) :=
  match s.windowPlace fn c va n false with
  | .reached p s => if s.poisoned (s.physOf p) then none else some (s.placeBytes p)
  | _ => none

/-- HOST_WINDOW_ACCESS (R351, R285): a read or a write within one 64-byte line of CXL.mem, performed whole at the slices
(R271). A write that covers a poisoned line in part is dropped (R103). -/
def State.windowAccess (s : State) (fn : Nat) (c va : DWord) (n : Nat) (write : Option (List Byte)) : State :=
  if !s.ready || physicalFn < fn || n = 0 || 64 < va.toNat % 64 + n then s
  else
    match s.windowPlace fn c va.toNat n write.isSome with
    | .wait s => s
    | .not s => s.postError fn 9 0 va.toNat (if write.isSome then 1 else 0) 0
    | .reached p s' =>
      match write with
      | none => s'
      | some bs => if s'.spoils p then s' else ((s'.cure p).putPlace p (bs.take n)).getD s
def execHostWindowAccess (fn : Nat) (c va : DWord) (x : HostAccess) (s : State) : Out :=
  .next (s.windowAccess fn c va x.bytes x.data)

/-! ### Links (R328) and memory errors (R326) -/

/-- The dies of a link: three in each row, then four between the rows (R14). -/
def linkDies (l : Nat) : Nat × Nat :=
  if l < 3 then (l, l + 1) else if l < 6 then (l + 1, l + 2) else (l - 6, l - 2)

def State.link (s : State) (l : Nat) : Link := Sparse.get s.links {} l

/-- The dies that links in service join to a die, in so many hops. -/
def State.joined (s : State) (hops : Nat) (ds : List Nat) : List Nat :=
  match hops with
  | 0 => ds
  | n + 1 => s.joined n (sortUp (ds ++ (upFrom 0 10).flatMap (fun l =>
      let d := linkDies l
      if !(s.link l).up then []
      else if ds.contains d.1 then [d.2]
      else if ds.contains d.2 then [d.1]
      else [])))

/-- The dies in reach (R328): those joined to a host port's die (R14); where the two ports are cut off from each other,
the larger group, or that of die 0 (log 89). -/
def State.reachedDies (s : State) : List Nat :=
  let a := s.joined 8 [0]
  let b := s.joined 8 [7]
  if a.length < b.length then b else a

/-- A die that can no longer be reached is taken out (R331), as soon as nothing on it stands against that. -/
def State.finishLoss (s : State) (die : Nat) : State :=
  if !(s.die die).lost then s
  else
    let s := s.cutDie die
    if s.dieBusy die || s.dieHeld die then s else s.takeOut die 0

/-- A die without a path goes out of service (R328, R331). -/
def State.loseDie (s : State) (die : Nat) : State :=
  if s.reachedDies.contains die || (s.die die).out then s
  else (s.setDie die { s.die die with out := true, lost := true }).finishLoss die

/-- FLIT_CRC_ERROR (R328): the sixteenth retry of one flit that fails in a row costs the link a spare lane; without a
spare the link is taken down. -/
def State.flitError (s : State) (l : Nat) (again : Bool) : State :=
  let x := s.link l
  let n := if again then x.failures + 1 else 0
  if 10 ≤ l || !x.up then s
  else if n < 16 then { s with links := Sparse.put s.links {} l { x with failures := n } }
  else
    let y : Link := { failures := 0, spares := x.spares - 1, up := 1 < x.spares }
    let s := { s with links := Sparse.put s.links {} l y }
    if y.up then s
    else
      let d := linkDies l
      (upFrom 0 8).foldl State.loseDie (s.postError physicalFn 6 (2 ^ 15 + d.1 * 2 ^ 8 + d.2 * 2 ^ 11) 0 0 0)
def execFlitCrcError (link : Nat) (again : Bool) (s : State) : Out := .next (s.flitError link again)

/-- A line is poisoned (R103). -/
def State.poisonLine (s : State) (line : Nat) : State :=
  if s.poison.contains line then s else { s with poison := line :: s.poison }

/-- UNCORRECTABLE_ERROR_OUTSIDE_TEAM (R326, R103): the line, of a partition's T0 or of T1, is poisoned, and a record of
KIND 5 is posted. -/
def State.memoryError (s : State) (fn part : Nat) (address : DWord) : State :=
  let a := address.toNat
  (s.poisonLine (lineOf (if isT1 a then a else part % 32 * 2 ^ 35 + a % 2 ^ 35))).postError fn 5 (part % 32) a 0 0
def execUncorrectableErrorOutsideTeam (fn part : Nat) (address : DWord) (s : State) : Out :=
  .next (s.memoryError fn part address)

/-- An uncorrectable error in what no agent is reading (R103): what holds it is marked, and the next access to it
reports. -/
def State.strike (s : State) (x : SoftError) : State :=
  match x with
  | .memory line => if line * 128 < t2Base then s.poisonLine line else s
  | .copy core line =>
    let c := s.core core
    s.setCore core { c with l1 := c.l1.map (fun l => if l.line = line then { l with bad := true } else l) }
  | .scratch tk line => s.mapTeam tk (fun t => { t with badScratch := insertUp t.badScratch line })
  | .matrix plinth line =>
    { s with vcache := s.vcache.map (fun e => if e.plinth = plinth && e.line = line then { e with bad := true } else e) }
  | .register tk n i =>
    if n < 768 || (1152 ≤ n && n < 1280) then s.mapTeam tk (fun t => t.mapThread i (fun x => { x with bad := insertUp x.bad n }))
    else if n < 1024 || (2048 ≤ n && n < 2064) then s.mapTeam tk (fun t => t.mapGroup i (fun x => { x with bad := insertUp x.bad n }))
    else s
  | .tile tk a => s.mapTeam tk (fun t => { t with badTiles := insertUp t.badTiles a })

/-! ### Reset, bring-up, power and heat (R332, R333) -/

/-- The module with everything of its own at reset values; host memory, the pools and the model's counters stay. -/
def State.cleared (s : State) : State :=
  let x : State := { State.reset with
    pool := s.pool, hostMem := s.hostMem, now := s.now, nextId := s.nextId, freeIx := s.freeIx, sched := s.sched }
  (upFrom 0 8).foldl (fun x d => x.setDie d { resetAt := s.now }) x

/-- MODULE_RESET (R333): the stopped state ends, and bring-up is to come. -/
def execModuleReset (s : State) : Out := .next s.cleared

/-- POWER_ON (R332): bring-up; every die is measured, and READY is 1. -/
def State.powerOn (s : State) : State :=
  if s.ready || s.stopped then s
  else
    let x := (upFrom 0 8).foldl (fun x d => x.setDie d ((x.die d).afterReset d s.now)) s.cleared
    { x with ready := true }
def execPowerOn (s : State) : Out := .next s.powerOn

/-- THERMAL_THROTTLE (R333): cycles last longer, and nothing else changes; the change is reported. -/
def State.throttle (s : State) (on : Bool) : State :=
  if s.throttled = on || !s.ready then s else { s with throttled := on }.postError physicalFn 7 0 0 0 0
def execThermalThrottle (on : Bool) (s : State) : Out := .next (s.throttle on)

/-- OVERTEMPERATURE_STOP (R333): every team stops, memory is lost, READY reads 0 until the next reset. -/
def State.overheat (s : State) (die : Nat) : State := if 8 ≤ die then s else { s.cleared with stopped := true }
def execOvertemperatureStop (die : Nat) (s : State) : Out := .next (s.overheat die)

/-! ### The caches' own steps (R95, R96) -/

/-- An L1 evicts the victim of a set; its lines are never dirty (R91). -/
def State.evictL1 (s : State) (core : Nat) (set : List Nat) : State :=
  match victimOf (((s.core core).l1.filter (fun l => set.contains l.line)).map (fun l => (l.line, l.hint, l.used))) with
  | some l => s.dropL1 core l
  | none => s

/-- The L2 evicts the victim of a set; a dirty line is written back (R96). -/
def State.evictL2 (s : State) (set : List Nat) : State :=
  match victimOf ((s.l2.filter (fun l => set.contains l.line)).map (fun l => (l.line, l.hint, l.used))) with
  | some l => s.dropL2 l
  | none => s

end Sys2Proof.Machine
end

