-- ==== Sys2Proof/Machine/Dispatch.lean ====
section
/-!
DEFINITION. The dispatch: one arm for each row of the opcode table.
-/
namespace Sys2Proof.Machine

def exec (i : Instr) (s : State) : Host.Outcome State Fault Refusal :=
  match i with
  | .nop w => Sys2Proof.Machine.execNop w s
  | .mov w => Sys2Proof.Machine.execMov w s
  | .movi w => Sys2Proof.Machine.execMovi w s
  | .movw w lit => Sys2Proof.Machine.execMovw w lit s
  | .movs w => Sys2Proof.Machine.execMovs w s
  | .movx w => Sys2Proof.Machine.execMovx w s
  | .movxs w => Sys2Proof.Machine.execMovxs w s
  | .ubcast w => Sys2Proof.Machine.execUbcast w s
  | .lanex w => Sys2Proof.Machine.execLanex w s
  | .sel w => Sys2Proof.Machine.execSel w s
  | .bysel w => Sys2Proof.Machine.execBysel w s
  | .iadd w => Sys2Proof.Machine.execIadd w s
  | .isub w => Sys2Proof.Machine.execIsub w s
  | .imul w => Sys2Proof.Machine.execImul w s
  | .imulh w => Sys2Proof.Machine.execImulh w s
  | .imad w => Sys2Proof.Machine.execImad w s
  | .idiv w => Sys2Proof.Machine.execIdiv w s
  | .irem w => Sys2Proof.Machine.execIrem w s
  | .imin w => Sys2Proof.Machine.execImin w s
  | .imax w => Sys2Proof.Machine.execImax w s
  | .iabs w => Sys2Proof.Machine.execIabs w s
  | .ineg w => Sys2Proof.Machine.execIneg w s
  | .lea w => Sys2Proof.Machine.execLea w s
  | .iaddc w => Sys2Proof.Machine.execIaddc w s
  | .and w => Sys2Proof.Machine.execAnd w s
  | .or w => Sys2Proof.Machine.execOr w s
  | .xor w => Sys2Proof.Machine.execXor w s
  | .andn w => Sys2Proof.Machine.execAndn w s
  | .bitf3 w => Sys2Proof.Machine.execBitf3 w s
  | .shl w => Sys2Proof.Machine.execShl w s
  | .shr w => Sys2Proof.Machine.execShr w s
  | .rot w => Sys2Proof.Machine.execRot w s
  | .bfx w => Sys2Proof.Machine.execBfx w s
  | .bfi w => Sys2Proof.Machine.execBfi w s
  | .popc w => Sys2Proof.Machine.execPopc w s
  | .clz w => Sys2Proof.Machine.execClz w s
  | .brev w => Sys2Proof.Machine.execBrev w s
  | .icmp w => Sys2Proof.Machine.execIcmp w s
  | .plop w => Sys2Proof.Machine.execPlop w s
  | .pmov w => Sys2Proof.Machine.execPmov w s
  | .pvote w => Sys2Proof.Machine.execPvote w s
  | .elect w => Sys2Proof.Machine.execElect w s
  | .bra w => Sys2Proof.Machine.execBra w s
  | .brx w => Sys2Proof.Machine.execBrx w s
  | .jmp w => Sys2Proof.Machine.execJmp w s
  | .call w => Sys2Proof.Machine.execCall w s
  | .ret w => Sys2Proof.Machine.execRet w s
  | .exit w => Sys2Proof.Machine.execExit w s
  | .regrp w => Sys2Proof.Machine.execRegrp w s
  | .fadd w => Sys2Proof.Machine.execFadd w s
  | .fsub w => Sys2Proof.Machine.execFsub w s
  | .fmul w => Sys2Proof.Machine.execFmul w s
  | .ffma w => Sys2Proof.Machine.execFfma w s
  | .fmin w => Sys2Proof.Machine.execFmin w s
  | .fmax w => Sys2Proof.Machine.execFmax w s
  | .fabs w => Sys2Proof.Machine.execFabs w s
  | .fneg w => Sys2Proof.Machine.execFneg w s
  | .fcmp w => Sys2Proof.Machine.execFcmp w s
  | .fclass w => Sys2Proof.Machine.execFclass w s
  | .frnd w => Sys2Proof.Machine.execFrnd w s
  | .frcp w => Sys2Proof.Machine.execFrcp w s
  | .frsq w => Sys2Proof.Machine.execFrsq w s
  | .fsqrt w => Sys2Proof.Machine.execFsqrt w s
  | .fexp2 w => Sys2Proof.Machine.execFexp2 w s
  | .flog2 w => Sys2Proof.Machine.execFlog2 w s
  | .fsin w => Sys2Proof.Machine.execFsin w s
  | .fcos w => Sys2Proof.Machine.execFcos w s
  | .fdiv w => Sys2Proof.Machine.execFdiv w s
  | .cvt w => Sys2Proof.Machine.execCvt w s
  | .rqnt w => Sys2Proof.Machine.execRqnt w s
  | .redg w => Sys2Proof.Machine.execRedg w s
  | .scang w => Sys2Proof.Machine.execScang w s
  | .admitWord w => Sys2Proof.Machine.execAdmit w s
  | .btag w => Sys2Proof.Machine.execBtag w s
  | .bsmax w => Sys2Proof.Machine.execBsmax w s
  | .mma w => Sys2Proof.Machine.execMma w s
  | .mmaz w => Sys2Proof.Machine.execMmaz w s
  | .mlda w => Sys2Proof.Machine.execMlda w s
  | .msta w => Sys2Proof.Machine.execMsta w s
  | .mzero w => Sys2Proof.Machine.execMzero w s
  | .mrow w => Sys2Proof.Machine.execMrow w s
  | .mapply w => Sys2Proof.Machine.execMapply w s
  | .mscale w => Sys2Proof.Machine.execMscale w s
  | .xmv w => Sys2Proof.Machine.execXmv w s
  | .mlds w => Sys2Proof.Machine.execMlds w s
  | .msts w => Sys2Proof.Machine.execMsts w s
  | .ld w => Sys2Proof.Machine.execLd w s
  | .ldv w => Sys2Proof.Machine.execLdv w s
  | .st w => Sys2Proof.Machine.execSt w s
  | .stb w => Sys2Proof.Machine.execStb w s
  | .ldl6 w => Sys2Proof.Machine.execLdl6 w s
  | .stl6 w => Sys2Proof.Machine.execStl6 w s
  | .atom w => Sys2Proof.Machine.execAtom w s
  | .red w => Sys2Proof.Machine.execRed w s
  | .cas w => Sys2Proof.Machine.execCas w s
  | .ldva w => Sys2Proof.Machine.execLdva w s
  | .vset w => Sys2Proof.Machine.execVset w s
  | .vpub w => Sys2Proof.Machine.execVpub w s
  | .vinv w => Sys2Proof.Machine.execVinv w s
  | .vstat w => Sys2Proof.Machine.execVstat w s
  | .pref w => Sys2Proof.Machine.execPref w s
  | .cflush w => Sys2Proof.Machine.execCflush w s
  | .cinv w => Sys2Proof.Machine.execCinv w s
  | .wmask w => Sys2Proof.Machine.execWmask w s
  | .monw w => Sys2Proof.Machine.execMonw w s
  | .waitm w => Sys2Proof.Machine.execWaitm w s
  | .bar w => Sys2Proof.Machine.execBar w s
  | .bara w => Sys2Proof.Machine.execBara w s
  | .barw w => Sys2Proof.Machine.execBarw w s
  | .bari w => Sys2Proof.Machine.execBari w s
  | .fence w => Sys2Proof.Machine.execFence w s
  | .waitc w => Sys2Proof.Machine.execWaitc w s
  | .sleep w => Sys2Proof.Machine.execSleep w s
  | .cpy w => Sys2Proof.Machine.execCpy w s
  | .cpyc w => Sys2Proof.Machine.execCpyc w s
  | .cbdef w => Sys2Proof.Machine.execCbdef w s
  | .cbacq w => Sys2Proof.Machine.execCbacq w s
  | .cbrel w => Sys2Proof.Machine.execCbrel w s
  | .qlen w => Sys2Proof.Machine.execQlen w s
  | .xprog w => Sys2Proof.Machine.execXprog w s
  | .xcal w => Sys2Proof.Machine.execXcal w s
  | .xstat w => Sys2Proof.Machine.execXstat w s
  | .flink w => Sys2Proof.Machine.execFlink w s
  | .fcut w => Sys2Proof.Machine.execFcut w s
  | .fswap w => Sys2Proof.Machine.execFswap w s
  | .fstat w => Sys2Proof.Machine.execFstat w s
  | .callx w => Sys2Proof.Machine.execCallx w s
  | .trap w => Sys2Proof.Machine.execTrap w s
  | .yield w lit1 lit2 => Sys2Proof.Machine.execYield w lit1 lit2 s
  | .tret w => Sys2Proof.Machine.execTret w s
  | .clauseFetch team bundle => Sys2Proof.Machine.execClauseFetch team bundle s
  | .clauseStart core alcove threads => Sys2Proof.Machine.execClauseStart core alcove threads s
  | .countedWordCompletion id threads => Sys2Proof.Machine.execCountedWordCompletion id threads s
  | .convergenceTrap team group => Sys2Proof.Machine.execConvergenceTrap team group s
  | .engineOperationRetirement team group cls => Sys2Proof.Machine.execEngineOperationRetirement team group cls s
  | .copyUnitTransfer op lane unit => Sys2Proof.Machine.execCopyUnitTransfer op lane unit s
  | .cpycSlotReserve op lane => Sys2Proof.Machine.execCpycSlotReserve op lane s
  | .cpycSlotFilled op lane => Sys2Proof.Machine.execCpycSlotFilled op lane s
  | .viewProjection id lane deviations => Sys2Proof.Machine.execViewProjection id lane deviations s
  | .recalibration die plinth array within => Sys2Proof.Machine.execRecalibration die plinth array within s
  | .arrayProgrammingComplete op plinth => Sys2Proof.Machine.execArrayProgrammingComplete op plinth s
  | .arrayRetirement die plinth array => Sys2Proof.Machine.execArrayRetirement die plinth array s
  | .vpubMarkingArrival id plinth => Sys2Proof.Machine.execVpubMarkingArrival id plinth s
  | .viewCacheEntryDiscard plinth line gen => Sys2Proof.Machine.execViewCacheEntryDiscard plinth line gen s
  | .chainStoreApply die flight => Sys2Proof.Machine.execChainStoreApply die flight s
  | .tailAcknowledgement flight store => Sys2Proof.Machine.execTailAcknowledgement flight store s
  | .dirtyLineQuery id thread => Sys2Proof.Machine.execDirtyLineQuery id thread s
  | .joinCopy flight => Sys2Proof.Machine.execJoinCopy flight s
  | .joinCompletion flight => Sys2Proof.Machine.execJoinCompletion flight s
  | .drainCompletion flight => Sys2Proof.Machine.execDrainCompletion flight s
  | .storeCommit store => Sys2Proof.Machine.execStoreCommit store s
  | .monitorWake team bundle => Sys2Proof.Machine.execMonitorWake team bundle s
  | .waitmBoundExpiry team bundle => Sys2Proof.Machine.execWaitmBoundExpiry team bundle s
  | .barwBoundExpiry team bundle => Sys2Proof.Machine.execBarwBoundExpiry team bundle s
  | .sleepExpiry team bundle => Sys2Proof.Machine.execSleepExpiry team bundle s
  | .copyOnWrite team bundle => Sys2Proof.Machine.execCopyOnWrite team bundle s
  | .migration die => Sys2Proof.Machine.execMigration die s
  | .faultReplay team bundle => Sys2Proof.Machine.execFaultReplay team bundle s
  | .unresolvedFault team bundle => Sys2Proof.Machine.execUnresolvedFault team bundle s
  | .pinRelease frame => Sys2Proof.Machine.execPinRelease frame s
  | .formatEmulation id => Sys2Proof.Machine.execFormatEmulation id s
  | .groupCallService die => Sys2Proof.Machine.execGroupCallService die s
  | .trapHalt team => Sys2Proof.Machine.execTrapHalt team s
  | .asyncFaultReport team => Sys2Proof.Machine.execAsyncFaultReport team s
  | .bridgeGateReject id thread => Sys2Proof.Machine.execBridgeGateReject id thread s
  | .trapRecordWrite team => Sys2Proof.Machine.execTrapRecordWrite team s
  | .launchQueueTailUpdate fn prio tail => Sys2Proof.Machine.execLaunchQueueTailUpdate fn prio tail s
  | .launchPacketRead fn prio => Sys2Proof.Machine.execLaunchPacketRead fn prio s
  | .waitCounterMet launch => Sys2Proof.Machine.execWaitCounterMet launch s
  | .teamPlacement launch => Sys2Proof.Machine.execTeamPlacement launch s
  | .teamEnd team => Sys2Proof.Machine.execTeamEnd team s
  | .yieldRequest team => Sys2Proof.Machine.execYieldRequest team s
  | .yieldWithdrawal team => Sys2Proof.Machine.execYieldWithdrawal team s
  | .deadlineExpiry team => Sys2Proof.Machine.execDeadlineExpiry team s
  | .teamSave team => Sys2Proof.Machine.execTeamSave team s
  | .teamRestore saved => Sys2Proof.Machine.execTeamRestore saved s
  | .hostWindowAccess fn ctx va access => Sys2Proof.Machine.execHostWindowAccess fn ctx va access s
  | .mapnew fn e => Sys2Proof.Machine.execMapnew fn e s
  | .map fn e => Sys2Proof.Machine.execMap fn e s
  | .share fn e => Sys2Proof.Machine.execShare fn e s
  | .reserve fn e => Sys2Proof.Machine.execReserve fn e s
  | .unmap fn e => Sys2Proof.Machine.execUnmap fn e s
  | .protect fn e => Sys2Proof.Machine.execProtect fn e s
  | .mapchain fn e => Sys2Proof.Machine.execMapchain fn e s
  | .migrate fn e => Sys2Proof.Machine.execMigrate fn e s
  | .resume fn e => Sys2Proof.Machine.execResume fn e s
  | .resumeskip fn e => Sys2Proof.Machine.execResumeskip fn e s
  | .abort fn e => Sys2Proof.Machine.execAbort fn e s
  | .savefull fn e => Sys2Proof.Machine.execSavefull fn e s
  | .setctx fn e => Sys2Proof.Machine.execSetctx fn e s
  | .setpart fn e => Sys2Proof.Machine.execSetpart fn e s
  | .setflight fn e => Sys2Proof.Machine.execSetflight fn e s
  | .setvi fn e => Sys2Proof.Machine.execSetvi fn e s
  | .qreset fn e => Sys2Proof.Machine.execQreset fn e s
  | .fwstage fn e => Sys2Proof.Machine.execFwstage fn e s
  | .fwactivate fn e => Sys2Proof.Machine.execFwactivate fn e s
  | .firmwareSwitchComplete die => Sys2Proof.Machine.execFirmwareSwitchComplete die s
  | .dieout fn e => Sys2Proof.Machine.execDieout fn e s
  | .diein fn e => Sys2Proof.Machine.execDiein fn e s
  | .attest fn e => Sys2Proof.Machine.execAttest fn e s
  | .lqWrite fn prio value => Sys2Proof.Machine.execLqWrite fn prio value s
  | .errrecWrite fn value => Sys2Proof.Machine.execErrrecWrite fn value s
  | .registerWrite fn offset value => Sys2Proof.Machine.execRegisterWrite fn offset value s
  | .flitCrcError link again => Sys2Proof.Machine.execFlitCrcError link again s
  | .powerOn => Sys2Proof.Machine.execPowerOn s
  | .thermalThrottle on => Sys2Proof.Machine.execThermalThrottle on s
  | .overtemperatureStop die => Sys2Proof.Machine.execOvertemperatureStop die s
  | .uncorrectableErrorOutsideTeam fn part address => Sys2Proof.Machine.execUncorrectableErrorOutsideTeam fn part address s
  | .unassignedOpcodeWord w => Sys2Proof.Machine.execUnassignedOpcodeWord w s
  | .unassignedOpcCommand fn e => Sys2Proof.Machine.execUnassignedOpcCommand fn e s
  | .moduleReset => Sys2Proof.Machine.execModuleReset s

end Sys2Proof.Machine
end

