-- ==== Sys2Proof/Machine/Turns.lean ====
section
/-!
DEFINITION. What a turn of the schedule does (log 1): which bundle may issue (R295, R298, R307), which rows are events
of their own, and the next command (R323); and how an instruction is placed to be the next one issued.
-/
namespace Sys2Proof.Machine

/-! ### The schedule -/

/-- What moves next. -/
def State.nextTurn (s : State) : Turn :=
  match s.sched with
  | x :: _ => x
  | [] => Config.turn s.now

/-- The turn is taken from the schedule, and the step has its number. -/
def State.tick (s : State) : State := { s with sched := s.sched.tail, now := s.now + 1 }

/-- The clock of a step: the cycles that end with it decide about the requested teams (R297). -/
def State.advanceClock (s : State) : State := s.tick.endCycles s

/-! ### Issue -/

/-- Whether another bundle's clause is the one that the alcove of a bundle issues (R295). -/
def State.alcoveGoing (s : State) (tk bi : Nat) (t : Team) (b : Bundle) : Bool :=
  s.teams.any (fun kt => kt.2.bundles.zipIdx.any (fun x =>
    !(kt.1 = tk && x.2 = bi) && x.1.going && x.1.clause.isSome && x.1.wait = .ready && kt.2.issues x.1 &&
    kt.2.bundleCore x.1 = t.bundleCore b && kt.2.alcoveOf x.1 = t.alcoveOf b))

/-- The pipes that the word at which a bundle stands names (R107). -/
def State.pipesOf (s : State) (b : Bundle) : List Nat :=
  match b.instr.bind s.specOf with
  | none => []
  | some w => (portsOf (w.srcs ++ w.dst.toList)).filter (· < 16)

/-- Whether a pipe that a bundle's word names has served, in this cycle, an alcove that comes after its own (R108). -/
def State.pipeTurnOver (s : State) (t : Team) (b : Bundle) : Bool := (s.pipesOf b).any (fun q => s.pipeServed t q (b.lead t))

/-- Whether a bundle may issue its next word now (R295, R108): words that cannot issue yet are tried again. -/
def State.mayIssue (s : State) (tk bi : Nat) (t : Team) (b : Bundle) : Bool :=
  !s.pipeTurnOver t b &&
  b.clause.isSome && !b.members.isEmpty &&
  (match b.wait with
   | .ready => true
   | .stalled => true
   | .barw .. => true
   | _ => false) &&
  t.issues b && (b.going || !s.alcoveGoing tk bi t b)

/-- Tiles that a word reads: those it names, but for a word that only overwrites its tile (R220, R222). -/
def WordSpec.readsTiles (w : WordSpec) : List Nat :=
  if [0x71, 0x72, 0x74, 0x78, 0x79].contains w.op then [] else (w.fields.filter (fun f => f.code = 6)).map (·.value)

/-- Whether a register holds an uncorrectable error (R103), by the number of `fieldReads`: a vector register or a predicate
of a thread, a uniform register or a view register of its group. -/
def Team.spoilt (t : Team) (th n : Nat) : Bool :=
  if n < 768 || (1152 ≤ n && n < 1280) then (t.thread th).bad.contains n
  else (t.group (t.groupOf th)).bad.contains n

/-- Lanes of a word that meet an uncorrectable error in a register or a tile that it reads (R103): its guard's predicate in
every lane, the rest in the active ones. -/
def Ctx.spoiltLanes (c : Ctx) (w : WordSpec) : List Nat :=
  c.b.members.filter (fun th => (w.guard.g && c.t.spoilt th (1152 + w.guard.p)) ||
    (c.act.contains th && (w.readsTiles.any c.t.badTiles.contains || (w.reads c th).any (fun x => c.t.spoilt x.1 x.2))))

/-- The errors in registers and tiles that a word meets, reported to each group that meets one (R103; log 60). -/
def State.reportRegs (s : State) (c : Ctx) (w : WordSpec) : State :=
  let bad := c.spoiltLanes w
  (sortUp (bad.map c.t.groupOf)).foldl (fun s g => s.report c.tk g
    (asyncInfo 0x30 (c.t.mask (bad.filter (fun th => c.t.groupOf th = g))) 0 0 c.b.pc c.b.widx)) s

/-- The errors in scratch that a word of a tile, a record or a barrier object meets as it issues, with the address of the
line (R103; log 100). -/
def State.reportScratch (s : State) (c : Ctx) (w : WordSpec) : State :=
  (w.scratch c).foldl (fun s x => match c.t.badAt x.2 with
    | some a => s.report c.tk (c.t.groupOf x.1) (asyncInfo 0x30 (c.t.mask [x.1]) a 0 c.b.pc c.b.widx)
    | none => s) s

/-- A word that is about to issue, for the first time, reports the errors that it meets; it reads what it meets as it
stands (R103). -/
def State.reportSpoilt (s : State) (i : Instr) : State :=
  match s.specOf i with
  | none => s
  | some w =>
    match s.ctx w.guard with
    | none => s
    | some c =>
      if c.b.again || (c.check w).isSome || c.stalls w then s
      else
        match w.access c with
        | .pass => (s.reportRegs c w).reportScratch c w
        | _ => s

/-- The pipes of a word that has been issued have served its alcove in a cycle (R108). -/
def Team.usePipes (t : Team) (bi : Nat) (b : Bundle) (pipes : List Nat) (cycle : Nat) : Team :=
  let issued := ((t.bundle bi).map (fun x =>
    decide (x.idx ≠ b.idx) || x.clause.isNone || (b.frozen.isEmpty && !x.frozen.isEmpty))).getD false
  if issued then
    { t with pipeUsed := pipes.foldl (fun m q => Sparse.put m (0, 0) q (cycle, t.alcoveRank (b.lead t))) t.pipeUsed }
  else t

/-- After an issue: the clause goes on in its alcove unless its bundle waits. While a halt spreads, a bundle that had
stopped at its word does not go on with its clause (R307). -/
def State.afterIssue (s : State) (tk bi : Nat) (b : Bundle) : State :=
  { s.mapTeam tk (fun t => (t.usePipes bi b (s.pipesOf b) (s.cycle t.core)).mapBundle bi (fun x =>
      if x.pc = b.pc && x.clause = b.clause then { x with going := x.wait = .ready && (b.going || !t.stops) } else x))
    with cur := none }

/-- A turn of an alcove: the bundle's word is executed, where the bundle may issue. -/
def State.issueTurn (s : State) (tk bi : Nat) : Out :=
  match s.team tk with
  | none => .next s
  | some t =>
    match t.bundle bi with
    | none => .next s
    | some b =>
      match b.instr with
      | none => .next s
      | some i =>
        if s.mayIssue tk bi t b then
          match exec i (({ s with cur := some (tk, bi) } : State).reportSpoilt i) with
          | .next s' => .next (s'.afterIssue tk bi b)
          | r => r
        else .next s

/-! ### Events and commands -/

/-- Rows that are neither a word of a clause nor a command: the hardware's, the scheduler's and the host's own
steps. -/
def isEvent (i : Instr) : Bool := (encodeWords i).isEmpty && i.entry.isNone

/-- A turn of an event. -/
def State.eventTurn (s : State) (i : Instr) : Out := if isEvent i then exec i s else .next s

/-- A turn of the command ring of a function (R323). -/
def State.commandTurn (s : State) (fn : Nat) : Out :=
  match s.nextCommand fn with
  | none => .next s
  | some e => exec (decodeCommand fn e) s

/-! ### Placing an instruction -/

/-- A kernel that declares as much as one may (R21, R23). -/
def wideDecl : Decl :=
  { width := 16, vregs := 768, sregs := 256, preds := 128, acc := 192, views := 16, scratchKB := 512, pair := false,
    cooperative := true, teamX := 16, teamY := 1, teamZ := 1, entry := 0, handler := none }

/-- A header of a clause of one word's class: no flag is waited for, none is set (R163). -/
def plainHeader (cls count : Nat) : DWord :=
  BitVec.ofNat 64 (0xC1A5 * 2 ^ 48 + cls * 2 ^ 40 + (count - 1) % 16 * 2 ^ 32 + 0xFF000)

/-- A team of one group that stands inside a clause of some words. -/
def placedTeam (ws : List DWord) : Team :=
  let op := fld (ws.headD 0) 63 56
  { decl := wideDecl, vi := 0, ctx := 0, launch := 0, prio := 0, core := 0, pos := 0, scratchKB := 512,
    threads := List.replicate 16 {}, groups := [{}],
    bundles := [{ members := upFrom 0 16, pc := 0, going := true,
                  clause := some { header := plainHeader (opClass op) ws.length, words := ws } }] }

/-- The words of the instruction at the head of some bytes. -/
def headWords (bs : List Byte) : List DWord :=
  match takeWord bs with
  | none => []
  | some (w, rest) =>
    w :: (upFrom 0 (literalCount (opcodeOf w))).map (fun i =>
      match takeWord (rest.drop (8 * i)) with
      | some (l, _) => l
      | none => 0)

/-- A state whose next step issues the instruction of some bits. -/
def State.placeWord (s : State) (nbits w : Nat) : State :=
  { s.setTeam 0 (placedTeam (headWords (natBytes 24 (w % 2 ^ nbits)))) with sched := [.issue 0 0] }

end Sys2Proof.Machine
end

