-- ==== Sys2Proof/Machine/Step.lean ====
section
/-!
DEFINITION. The step: the schedule says what moves next (log 1), an alcove issues a word of a started clause (R295,
R298, R307), an event happens, the device takes a command, or the host, a pool or a cache acts.
-/
namespace Sys2Proof.Machine

def step (s : State) : Out :=
  match s.nextTurn with
  | .issue tk bi => s.advanceClock.issueTurn tk bi
  | .event i => s.advanceClock.eventTurn i
  | .command fn => s.advanceClock.commandTurn fn
  | .hostWrite a b => .next { s.advanceClock with hostMem := s.advanceClock.hostMem.write a b }
  | .hostWindow fn w => .next (s.advanceClock.setFn fn { s.advanceClock.fn fn with window := w })
  | .softError x => .next (s.advanceClock.strike x)
  | .dieLost die => .next (s.advanceClock.finishLoss die)
  | .poolWrite a b => .next { s.advanceClock with pool := s.advanceClock.pool.write a b }
  | .l1Evict core set => .next (s.advanceClock.evictL1 core set)
  | .l2Evict set => .next (s.advanceClock.evictL2 set)

/-- A state whose next step fetches and runs the instruction of some bits: a team that stands at it inside a clause
of its class (log 14). -/
def State.withFetchWord (s : State) (nbits w : Nat) : State := s.placeWord nbits w

end Sys2Proof.Machine
end

