-- ==== Sys2Proof/Machine/Exact.lean ====
section
/-!
DEFINITION. The vocabulary of the claims about rounding: exact values as rational numbers, and what a correctly rounded
result is (R6, R44, R50, R62).
-/
namespace Sys2Proof.Machine

/-- The rational number of a sign, a magnitude and an exponent. -/
def ratOf (neg : Bool) (m : Nat) (e : Int) : ℚ := (if neg then -(m : ℚ) else m) * 2 ^ e

/-- The order of values that are no NaN: the infinities lie beyond every finite element. -/
def FVal.rat : FVal → ℚ
  | .fin neg m e => ratOf neg m e
  | .inf neg => if neg then -2 ^ 1000 else 2 ^ 1000
  | .nan _ => 0

/-- What a rounding mode asks of a representable value `v` for an exact `x`, beside another representable `y` (R6). -/
def RM.asks (rm : RM) (x v y : ℝ) : Prop :=
  match rm with
  | .rne => |v - x| ≤ |y - x|
  | .rtz => |v| ≤ |x| ∧ (|y| ≤ |x| → |y| ≤ |v|)
  | .rup => x ≤ v ∧ (x ≤ y → v ≤ y)
  | .rdn => v ≤ x ∧ (y ≤ x → y ≤ v)

/-- An exact value of a sign overflows a format (R50): rounded to the format's precision with no bound on the exponent, to an
even mantissa where two are equally near, it is beyond the largest finite magnitude. -/
def Fmt.Overflows (F : Fmt) (rm : RM) (neg : Bool) (x : ℝ) : Prop :=
  ∃ (n : Nat) (k : Int), 2 ^ F.fbits ≤ n ∧ n < 2 ^ (F.fbits + 1) ∧
    (∀ s n' k', n' < 2 ^ (F.fbits + 1) → rm.asks x (ratOf neg n k) (ratOf s n' k')) ∧
    (rm = .rne → ∀ s n' k', n' < 2 ^ (F.fbits + 1) →
      |(ratOf neg n k : ℝ) - x| = |(ratOf s n' k' : ℝ) - x| → ratOf s n' k' = ratOf neg n k ∨ n % 2 = 0) ∧
    ∀ y s n' k', F.decode y = .fin s n' k' → |(ratOf s n' k' : ℝ)| < |(ratOf neg n k : ℝ)|

/-- A nonzero exact value, of a sign, correctly rounded into a format whose overflow gives `beyond`: without an overflow the
result is the representable value that the mode asks for, an even element where two are equally near, NX says whether it
differs from the exact one, and UF comes with an inexact result of a tiny magnitude (one that rounds up to the least
normal magnitude is tiny or not by the exact value). OF says that the value overflows, and comes with NX. -/
structure RoundsIn (F : Fmt) (rm : RM) (neg : Bool) (x : ℝ) (r : Rounded) (beyond : Nat) : Prop where
  value : r.conds &&& Conds.oF = 0 → ∃ n k, F.decode r.bits = .fin neg n k ∧ r.bits < 2 ^ (1 + F.ebits + F.fbits) ∧
    (r.conds &&& Conds.nx = 0 ↔ (ratOf neg n k : ℝ) = x) ∧
    (r.conds &&& Conds.uf ≠ 0 → r.conds &&& Conds.nx ≠ 0 ∧ (n : ℝ) * 2 ^ k ≤ 2 ^ (1 - F.bias)) ∧
    (r.conds &&& Conds.nx ≠ 0 → (n : ℝ) * 2 ^ k < 2 ^ (1 - F.bias) → r.conds &&& Conds.uf ≠ 0) ∧
    (r.conds &&& (Conds.nv ||| Conds.dz) = 0) ∧
    (∀ y s n' k', F.decode y = .fin s n' k' → rm.asks x (ratOf neg n k) (ratOf s n' k')) ∧
    (rm = .rne → ∀ y s n' k', F.decode y = .fin s n' k' →
      |(ratOf neg n k : ℝ) - x| = |(ratOf s n' k' : ℝ) - x| → ratOf s n' k' = ratOf neg n k ∨ r.bits % 2 = 0)
  overflows : r.conds &&& Conds.oF ≠ 0 ↔ F.Overflows rm neg x
  overflow : r.conds &&& Conds.oF ≠ 0 → r.conds = Conds.oF ||| Conds.nx ∧ r.bits = beyond

/-- Whether a mode takes an overflow away from zero, to an infinity (R50). -/
def RM.away (rm : RM) (neg : Bool) : Bool := rm = .rne || (rm = .rup && !neg) || (rm = .rdn && neg)

/-- The same with the overflow of an operation in an IEEE format: an infinity or the largest finite value (R50). -/
def Rounds (F : Fmt) (rm : RM) (neg : Bool) (x : ℝ) (r : Rounded) : Prop :=
  RoundsIn F rm neg x r (F.signBit neg + if rm.away neg then F.infCode else F.infCode - 1)

/-- An exact value rounded to an integer, an even one where two are equally near (R51, R204). -/
structure RM.Integer (rm : RM) (x : ℝ) (i : Int) : Prop where
  asks : ∀ j : Int, rm.asks x i j
  even : rm = .rne → ∀ j : Int, |(i : ℝ) - x| = |(j : ℝ) - x| → j = i ∨ i % 2 = 0
  sign : (0 ≤ x → 0 ≤ i) ∧ (x ≤ 0 → i ≤ 0)

end Sys2Proof.Machine
end

