-- ==== Sys2Proof/Machine/Specs.lean ====
section
/-!
DEFINITION. The vocabulary of the claims: when a word issues (R179), what it then does, the effect of a word that writes one result per active lane, and what two states share.
-/
namespace Sys2Proof.Machine

/-- The current bundle stands at a word: its description and its context. -/
structure State.Stands (s : State) (i : Instr) (w : WordSpec) (c : Ctx) : Prop where
  spec : s.specOf i = some w
  ctx : s.ctx w.guard = some c

/-- A word issues (R179): no check of its steps 2 to 8 fails, no port and no rule of its entry makes it wait (R107,
R141, R145), and its accesses pass step 9. -/
structure State.Issues (s : State) (i : Instr) (w : WordSpec) (c : Ctx) : Prop extends s.Stands i w c where
  check : c.check w = none
  ready : c.stalls w = false
  access : w.access c = .pass

/-- Whether a word issues, as it can be computed. -/
def State.issuesNow (s : State) (i : Instr) : Bool :=
  match s.specOf i with
  | none => false
  | some w =>
    match s.ctx w.guard with
    | none => false
    | some c => (c.check w).isNone && !c.stalls w && (match w.access c with
      | .pass => true
      | _ => false)

/-- Wherever a word issues, its execution answers a next state: this one. -/
def Does (i : Instr) (f : Ctx → State) : Prop :=
  ∀ (s : State) (w : WordSpec) (c : Ctx), s.Issues i w c → exec i s = .next (f c)

/-- Wherever a word issues in a context with a property, its execution answers a next state: this one. -/
def DoesWhere (i : Instr) (p : Ctx → Prop) (f : Ctx → State) : Prop :=
  ∀ (s : State) (w : WordSpec) (c : Ctx), s.Issues i w c → p c → exec i s = .next (f c)

/-! ### Values -/

/-- A source as an unsigned integer (R180). -/
def Ctx.u (c : Ctx) (th : Nat) (n : BitVec 11) : Int := ((c.val th n.toNat).toNat : Int)

/-- A source as a signed integer (R180). -/
def Ctx.i (c : Ctx) (th : Nat) (n : BitVec 11) : Int := (c.val th n.toNat).toInt

/-- A source as a word. -/
def Ctx.x (c : Ctx) (th : Nat) (n : BitVec 11) : Word := c.val th n.toNat

/-- Whether a source carries a tag. -/
def Ctx.tg (c : Ctx) (th : Nat) (n : BitVec 11) : Bool := c.tag th n.toNat

/-- A pair. -/
def Ctx.pr (c : Ctx) (th : Nat) (n : BitVec 11) : DWord := c.pair th n.toNat

/-- A result modulo 2^32, its tag clear (R180). -/
def intRes (x : Int) : Res := ⟨BitVec.ofInt 32 x, false, 0⟩

/-- A word as a result, its tag clear. -/
def wordRes (x : Word) : Res := ⟨x, false, 0⟩

/-- A truth value as a result (R193). -/
def boolRes (b : Bool) : Res := ⟨if b then 1 else 0, false, 0⟩

/-! ### Effects -/

/-- One result per active lane is written to D, the queue ports among the sources are popped, and the bundle moves past
the word and its literals. -/
def Ctx.put (c : Ctx) (d : BitVec 11) (srcs : List (BitVec 11)) (res : Nat → Res) (len : Nat := 1) : State :=
  c.s.setTeam c.tk (c.finish (c.pop (c.write c.t d.toNat res) (srcs.map BitVec.toNat)) len)

/-- The same for a pair. -/
def Ctx.putPair (c : Ctx) (d : BitVec 11) (srcs : List (BitVec 11)) (res : Nat → DWord) (len : Nat := 1) : State :=
  c.s.setTeam c.tk (c.finish
    (c.pop (c.writePair c.t d.toNat res (fun _ => false)) (srcs.map BitVec.toNat)) len)

/-- The same for a FLT word: the conditions of each lane's result are ORed into its %fstat after the write (R201). -/
def Ctx.putFlt (c : Ctx) (d : BitVec 11) (srcs : List (BitVec 11)) (res : Nat → Res) : State :=
  c.s.setTeam c.tk (c.finish
    (c.pop (c.orConds (c.write c.t d.toNat res) res) (srcs.map BitVec.toNat)) 1)

/-- Nothing but the move past the word. -/
def Ctx.pass (c : Ctx) (len : Nat := 1) : State := c.s.setTeam c.tk (c.finish c.t len)

/-- A change of the team's registers and memories, and the move past the word. -/
def Ctx.teamPut (c : Ctx) (t : Team) (srcs : List (BitVec 11)) : State :=
  c.s.setTeam c.tk (c.finish (c.pop t (srcs.map BitVec.toNat)) 1)

/-- The active threads go to their targets, the others to the next clause (R166). -/
def Ctx.go (c : Ctx) (t : Team) (regroup : Bool) (dest : Nat → DWord) : State :=
  c.s.setTeam c.tk (c.transfer t (fun th =>
    if c.act.contains th then (dest th, regroup) else (c.b.next, false)))

/-- A word in flight that writes no more than its flag: the flag rises, the bundle moves past the word (R140). -/
def Ctx.counted (c : Ctx) (f : Bool) (srcs : List (BitVec 11)) : Team :=
  c.finish (c.pop (c.t.raiseFlag c.groups (c.flag f)) (srcs.map BitVec.toNat)) 1

/-- The move past a word counted on its flag, in a state: the flag rises, the ports are popped (R140). A word that was
parked has counted since its first issue, when its operands were frozen (R143). -/
def Ctx.moveCounted (c : Ctx) (s : State) (f : Bool) (srcs : List (BitVec 11)) : State :=
  s.mapTeam c.tk (fun t => c.finish
    (c.pop (if c.b.frozen.isEmpty then t.raiseFlag c.groups (c.flag f) else t) (srcs.map BitVec.toNat)) 1)

/-- The same where the word has operations of a class for some groups: each group counts one, one for which the parked
word counted already does not again, and one that it counted for and that has none now counts one less (R144). -/
def Ctx.moveChained (c : Ctx) (s : State) (f : Bool) (gs : List Nat) (srcs : List (BitVec 11)) : State :=
  s.mapTeam c.tk (fun t => c.finish (c.pop
    (c.raiseFor (if c.b.frozen.isEmpty then t.raiseFlag c.groups (c.flag f) else t) gs 3) (srcs.map BitVec.toNat)) 1)

/-- The move past a word whose operations of a class are counted for some groups (R144). -/
def Ctx.moveOps (c : Ctx) (s : State) (cls : Nat) (srcs : List (BitVec 11)) : State :=
  s.mapTeam c.tk (fun t => c.finish
    (c.pop (c.groups.foldl (fun t g => t.raiseCounter g cls) t) (srcs.map BitVec.toNat)) 1)

/-- The move past a word, in a state. -/
def Ctx.moveOn (c : Ctx) (s : State) (srcs : List (BitVec 11) := []) : State :=
  s.mapTeam c.tk (fun t => c.finish (c.pop t (srcs.map BitVec.toNat)) 1)

/-! ### Commands (R323) -/

/-- A command can be performed: it stands next on its function's ring, and no check before its own rule refuses it. -/
structure State.Commands (s : State) (i : Instr) (c : Command) (fn : Nat) (e : BitVec 512) : Prop where
  next : s.nextCommand fn = some e
  reads : decodeCommand fn e = i
  runs : s.stopped = false
  function : c.physical = true → fn = physicalFn
  form : c.stray e = false ∧ c.malformed = false
  contexts : ∀ x, x ∈ c.ctxs → locatorOk x = true ∧ s.ctxDefined x = true ∧ (fn ≠ physicalFn → s.ctxVi x = fn)

/-- Wherever a command can be performed in a state with a property, it is done, with this effect, and its STATUS and
CMDHEAD say so. -/
def Performs (i : Instr) (c : Command) (fn : Nat) (e : BitVec 512) (p : State → Prop) (f : State → State) : Prop :=
  ∀ s : State, s.Commands i c fn e → p s → exec i s = .next ((f s).completeCommand fn 1)

/-! ### What two states share -/

/-- Everything outside one team is as before. -/
def State.SameOutside (s t : State) (tk : Nat) : Prop :=
  { t with teams := s.teams } = s ∧ ∀ k, k ≠ tk → t.team k = s.team k

/-- A byte is as before; or a clean T1 line has left the slices to make room (R96), and the pool's own byte is seen. -/
def State.Keeps (s u : State) (a : Nat) : Prop :=
  u.byte a = s.byte a ∨
  (isT1 a = true ∧ (∃ l ∈ s.l2, l.line = lineOf a ∧ l.dirty = false) ∧ u.byte a = s.pool.read (a - t1Base))

/-- A vector register of a thread with its tag. -/
def Team.vreg (t : Team) (th n : Nat) : Word × Bool :=
  (Sparse.get (t.thread th).v 0 n, Sparse.get (t.thread th).vt false n)

/-- A uniform register of a group. -/
def Team.ureg (t : Team) (g n : Nat) : Word := Sparse.get (t.group g).s 0 n

/-- Everything of a team that no register word writes is as before: declarations, memories, tiles and buffers, the
threads' life and monitors, and of every group the views, flags, counters and trap registers. -/
structure Team.SameRest (t u : Team) : Prop where
  rest : { u with threads := t.threads, groups := t.groups, bundles := t.bundles, pipes := t.pipes,
                  notices := t.notices, replies := t.replies, ranks := t.ranks, nextRank := t.nextRank } = t
  threads : u.threads.length = t.threads.length
  groups : u.groups.length = t.groups.length
  live : ∀ th, (u.thread th).live = (t.thread th).live
  monitor : ∀ th, (u.thread th).monitor = (t.thread th).monitor
  views : ∀ g, (u.group g).views = (t.group g).views
  flags : ∀ g, (u.group g).flags = (t.group g).flags
  counters : ∀ g, (u.group g).counters = (t.group g).counters
  trapcause : ∀ g, (u.group g).trapcause = (t.group g).trapcause
  trapidx : ∀ g, (u.group g).trapidx = (t.group g).trapidx
  trapaddr : ∀ g, (u.group g).trapaddr = (t.group g).trapaddr
  skidReg : ∀ g, (u.group g).skidReg = (t.group g).skidReg

/-- Every register is as before, except those that some operand numbers name. -/
structure Team.SameRegs (t u : Team) (written : Nat → Bool) : Prop where
  vreg : ∀ th n, n < 768 → written n = false → u.vreg th n = t.vreg th n
  ureg : ∀ g n, n < 256 → written (768 + n) = false → u.ureg g n = t.ureg g n
  pred : ∀ th k, k < 128 → written (1152 + k) = false → (u.thread th).pred k = (t.thread th).pred k
  rm : ∀ th, written 1105 = false → (u.thread th).rm = (t.thread th).rm
  fstat : ∀ th, written 1106 = false → (u.thread th).fstat = (t.thread th).fstat

end Sys2Proof.Machine
end

