-- ==== Sys2Proof/Safety.lean ====
section
/-!
DEFINITION. What counts as a safe run: the memories keep their one form, and the machine goes on. What counts as a fair
run: what the manual promises of progress (R34 to R36, R39).
-/
namespace Sys2Proof.Machine

/-- The module's memory, the pools' and the host's are in their canonical form: addresses strictly rising, no entry with what an unlisted
byte reads as. -/
def State.Canonical (s : State) : Prop := s.mem.wf = true ∧ s.pool.wf = true ∧ s.hostMem.wf = true

/-- The machine goes on: its next step is a next state. -/
def State.GoesOn (s : State) : Prop := ∃ t, step s = .next t

/-! ### Progress

A single step names no promise: which agent moves is left open (log 1). The promises of R34 to R36 and R39 are about
whole runs, so a run carries the turns that it takes. -/

/-- A state at which a turn is next. -/
def State.facing (s : State) (x : Turn) : State := { s with sched := [x] }

/-- A run: state after state, each by the turn that comes next. -/
def IsRun (r : Nat → State) (turns : Nat → Turn) : Prop := ∀ n, step ((r n).facing (turns n)) = .next (r (n + 1))

/-- Whether a turn acts in a state: it does more than move the clock. -/
def State.Acts (s : State) (x : Turn) : Prop := step (s.facing x) ≠ .next (s.facing x).advanceClock

/-- The work that an event is part of. Events that differ only in what their agent chooses are one work; the host's,
the service's and other agents' actions, and errors, are no work that the manual promises. -/
def eventWork : Instr → Option Instr
  | .clauseStart core alcove _ => some (.clauseStart core alcove [])
  | .countedWordCompletion id _ => some (.countedWordCompletion id [])
  | .viewProjection id lane _ => some (.viewProjection id lane [])
  | .recalibration die plinth array _ => some (.recalibration die plinth array false)
  | .launchQueueTailUpdate .. | .hostWindowAccess .. | .lqWrite .. | .errrecWrite .. | .registerWrite .. => none
  | .flitCrcError .. | .powerOn | .thermalThrottle .. | .overtemperatureStop .. => none
  | .uncorrectableErrorOutsideTeam .. | .moduleReset => none
  | i => if isEvent i then some i else none

/-- The work that a turn is part of: an alcove's issue of a bundle, an event's, or the next command of a ring. -/
def turnWork : Turn → Option Turn
  | .issue tk bi => some (.issue tk bi)
  | .event i => (eventWork i).map .event
  | .command fn => some (.command fn)
  | .hostWrite .. | .poolWrite .. | .hostWindow .. | .softError .. | .dieLost .. | .l1Evict .. | .l2Evict .. => none

/-- A fair run: work that can be done again and again is done again and again, and the clocks of every core go on. So
every ready bundle of a team that is not halted issues in the end, in a cooperative launch whichever its team (R34,
R39); a team that fits again and again is placed (R35); and an operation of an engine, a store, a queued request and a
held fault come to their end (R36). -/
structure FairRun (r : Nat → State) (turns : Nat → Turn) : Prop where
  run : IsRun r turns
  fair : ∀ w, (∀ n, ∃ m x, n ≤ m ∧ turnWork x = some w ∧ (r m).Acts x) →
    ∀ n, ∃ m, n ≤ m ∧ turnWork (turns m) = some w ∧ (r m).Acts (turns m)
  clocks : ∀ core k, ∃ n, k ≤ (upFrom 0 n).foldl (fun t i => t + Config.clocks (r i).now core) 0

end Sys2Proof.Machine
end

