-- ==== Sys2Proof/Certificates/Slice0/Obligations.lean ====
section
/-!
DEFINITION. The statements for the provers: what every word, event and command of the opcode table does, what the machine
keeps, and that decoding reads back what encoding writes. `Does`, `DoesWhere` and `Performs` say that the execution answers a
next state, and which.
-/

open Sys2Proof Sys2Proof.Machine

/-! ### General words -/

/-- NOP, MOV, MOVI, MOVW and MOVS: what D takes in each active lane, and its tag (General instructions, Moves). MOVX
reads, and MOVXS writes, the vector register whose number is the base plus the signed index (R75, R182). UBCAST and
LANEX read another lane of the group as it stood before the word: a lane without a live thread gives 0 for UBCAST, and
the own value for LANEX (R183, R184). SEL takes the chosen source with its tag and the selector's tag; BYSEL forms each
result byte by its 5-bit field (R185). -/
def Obligations.Moves : Prop :=
  (∀ (w : RWord) (iw : IWord) (lit : DWord),
     Does (.nop w) (fun c => c.pass) ∧
     Does (.mov w) (fun c => c.put w.d [w.a] (fun th => ⟨c.x th w.a, c.tg th w.a, 0⟩)) ∧
     Does (.movi iw) (fun c => c.put iw.d [] (fun _ => intRes iw.imm.toInt)) ∧
     (w.m = 0 → Does (.movw w lit) (fun c => c.put w.d [] (fun _ => intRes (lit.toNat % 2 ^ 32)) 2)) ∧
     (w.m = 1 → Does (.movw w lit) (fun c => c.putPair w.d [] (fun _ => lit) 2)) ∧
     Does (.movs w) (fun c => c.putPair w.d [] (fun th => c.pr th w.a))) ∧
  (∀ w : RWord,
     Does (.movx w) (fun c => c.put w.d [w.b] (fun th =>
       ⟨(c.reg th (w.a.toNat + c.i th w.b).toNat).1, (c.reg th (w.a.toNat + c.i th w.b).toNat).2, 0⟩)) ∧
     Does (.movxs w) (fun c => c.teamPut (c.act.foldl (fun t th => t.mapThread th (fun x =>
       x.setV (w.d.toNat + c.i th w.b).toNat (c.x th w.a) (c.tg th w.a))) c.t) [w.a, w.b])) ∧
  (∀ w : RWord,
     Does (.ubcast w) (fun c => c.put w.d [w.a, w.b] (fun th =>
       let src := c.t.groupOf th * c.t.decl.width + (c.x (c.act.headD 0) w.b).toNat % c.t.decl.width
       if (c.t.thread src).live then ⟨c.x src w.a, c.tg src w.a, 0⟩ else intRes 0)) ∧
     Does (.lanex w) (fun c => c.put w.d [w.a, w.b] (fun th =>
       let l : Nat := c.t.laneOf th
       let b : Nat := (c.x th w.b).toNat
       let source : Int :=
         if w.m = 0 then (b % c.t.decl.width : Nat)
         else if w.m = 1 then (l ^^^ (b % c.t.decl.width) : Nat)
         else if w.m = 2 then l - b else l + b
       let inRange : Bool := w.m = 0 || w.m = 1 || (w.m = 2 && 0 ≤ source) || (w.m = 3 && source < c.t.decl.width)
       let src := c.t.groupOf th * c.t.decl.width + source.toNat
       if inRange && (c.t.thread src).live then ⟨c.x src w.a, c.tg src w.a, 0⟩ else ⟨c.x th w.a, c.tg th w.a, 0⟩))) ∧
  (∀ w : RWord,
     Does (.sel w) (fun c => c.put w.d [w.a, w.b, w.c] (fun th =>
       let n := if c.x th w.c ≠ 0 then w.a else w.b
       ⟨c.x th n, c.tg th n || c.tg th w.c, 0⟩)) ∧
     ∃ f : Word → Word → Word → Word,
       (∀ a b s i, i < 4 →
         let x := (s.toNat / 2 ^ (5 * i)) % 8
         let y := (a.toNat + b.toNat * 2 ^ 32) / 2 ^ (8 * x) % 256
         let mode := (s.toNat / 2 ^ (5 * i + 3)) % 4
         (f a b s).toNat / 2 ^ (8 * i) % 256 =
           if mode = 0 then y else if mode = 1 then 255 * (y / 128) else if mode = 2 then 0 else 255) ∧
       Does (.bysel w) (fun c => c.put w.d [w.a, w.b, w.c] (fun th =>
         wordRes (f (c.x th w.a) (c.x th w.b) (c.x th w.c)))))

/-- The integer results, each taken modulo 2^32 (General instructions, Integer arithmetic). LEA's 64-bit sum, and
IADDC's sum or difference with the carry or borrow in its predicate: the predicate takes its new value after the old
one is read, and D is written after it (R188, R189). -/
def Obligations.Integers : Prop :=
  (∀ w : RWord,
     Does (.iadd w) (fun c => c.put w.d [w.a, w.b] (fun th => intRes (c.u th w.a + c.u th w.b))) ∧
     Does (.isub w) (fun c => c.put w.d [w.a, w.b] (fun th => intRes (c.u th w.a - c.u th w.b))) ∧
     Does (.imul w) (fun c => c.put w.d [w.a, w.b] (fun th => intRes (c.u th w.a * c.u th w.b))) ∧
     Does (.imulh w) (fun c => c.put w.d [w.a, w.b] (fun th => intRes
       (if w.m = 1 then c.u th w.a * c.u th w.b / 2 ^ 32 else c.i th w.a * c.i th w.b / 2 ^ 32))) ∧
     Does (.imad w) (fun c => c.put w.d [w.a, w.b, w.c] (fun th =>
       intRes (c.u th w.a * c.u th w.b + c.u th w.c))) ∧
     Does (.imin w) (fun c => c.put w.d [w.a, w.b] (fun th => intRes
       (if w.m = 1 then min (c.u th w.a) (c.u th w.b) else min (c.i th w.a) (c.i th w.b)))) ∧
     Does (.imax w) (fun c => c.put w.d [w.a, w.b] (fun th => intRes
       (if w.m = 1 then max (c.u th w.a) (c.u th w.b) else max (c.i th w.a) (c.i th w.b)))) ∧
     Does (.iabs w) (fun c => c.put w.d [w.a] (fun th => intRes ((c.i th w.a).natAbs : Int))) ∧
     Does (.ineg w) (fun c => c.put w.d [w.a] (fun th => intRes (-(c.i th w.a))))) ∧
  (∀ w : RWord,
     Does (.lea w) (fun c => c.putPair w.d [w.a, w.b] (fun th =>
       BitVec.ofInt 64 ((c.pr th w.a).toNat +
         (if w.m = 1 then c.u th w.b else c.i th w.b) * 2 ^ fld w.c 2 0))) ∧
     Does (.iaddc w) (fun c =>
       let k := fld w.c 6 0
       let cin (th : Nat) : Int := if w.m.getLsbD 1 then 0 else if (c.t.thread th).pred k then 1 else 0
       let t (th : Nat) : Int := if w.m.getLsbD 0 then c.u th w.a - c.u th w.b - cin th
         else c.u th w.a + c.u th w.b + cin th
       let carry (th : Nat) : Bool := if w.m.getLsbD 0 then t th < 0 else 2 ^ 32 ≤ t th
       let u := c.act.foldl (fun u th => u.mapThread th (fun x => x.setP k (carry th))) c.t
       c.teamPut (c.write u w.d.toNat (fun th => intRes (t th))) [w.a, w.b]))

/-- IDIV and IREM, signed and unsigned, for every pair of operands: the result for each case, and no trap for untagged
operands, whatever their values (R187), but that of reserved bits in %fctl or %fstat (R83). -/
def Obligations.Division : Prop :=
  ∀ w : RWord,
    Does (.idiv w) (fun c => c.put w.d [w.a, w.b] (fun th =>
      if c.u th w.b = 0 then wordRes 0xFFFFFFFF
      else if w.m = 1 then intRes (c.u th w.a / c.u th w.b)
      else if c.i th w.a = -2 ^ 31 ∧ c.i th w.b = -1 then wordRes 0x80000000
      else intRes (Int.tdiv (c.i th w.a) (c.i th w.b)))) ∧
    Does (.irem w) (fun c => c.put w.d [w.a, w.b] (fun th =>
      if c.u th w.b = 0 then wordRes (c.x th w.a)
      else if w.m = 1 then intRes (c.u th w.a % c.u th w.b)
      else if c.i th w.a = -2 ^ 31 ∧ c.i th w.b = -1 then intRes 0
      else intRes (c.i th w.a - c.i th w.b * Int.tdiv (c.i th w.a) (c.i th w.b)))) ∧
    ∀ (i : Instr) (s : State) (sp : WordSpec) (c : Ctx), i = .idiv w ∨ i = .irem w → s.Stands i sp c →
      (∀ th, th ∈ c.act → c.tg th w.a = false ∧ c.tg th w.b = false) →
      sp.policy c = none ∧ sp.access c = .pass ∧ (w.d ≠ 1105 → w.d ≠ 1106 → sp.own c = none) ∧
      ∀ x, sp.own c = some x → x.cause = 0x03

/-- Opcodes and forms of these words (R190, R192). AND, OR, XOR and ANDN bit by bit, and BITF3's table lookup, whose
inputs are a, b and the old D (R190, R191). Shifts by counts of every size, and rotations by the count modulo 32
(R190). POPC, CLZ and BREV (R190). BFX and BFI: position and length are bytes of the sources (R192). -/
def Obligations.BitWords : Prop :=
  (∀ w : RWord,
     [Instr.and w, .or w, .xor w, .andn w, .shl w, .shr w, .rot w, .bfx w, .bfi w, .popc w, .clz w, .brev w].map
       Instr.opcode = [0x20, 0x21, 0x22, 0x23, 0x25, 0x26, 0x27, 0x28, 0x29, 0x2A, 0x2B, 0x2C] ∧
     (∀ i, i ∈ [Instr.and w, .or w, .xor w, .andn w, .shl w] → (formOk i = true ↔ w.m = 0 ∧ w.c = 0)) ∧
     (∀ i, i ∈ [Instr.shr w, .rot w] → (formOk i = true ↔ (w.m = 0 ∨ w.m = 1) ∧ w.c = 0)) ∧
     (∀ i, i ∈ [Instr.popc w, .clz w, .brev w] → (formOk i = true ↔ w.m = 0 ∧ w.b = 0 ∧ w.c = 0)) ∧
     (formOk (.bfx w) = true ↔ w.m = 0 ∨ w.m = 1) ∧ (formOk (.bfi w) = true ↔ w.m = 0)) ∧
  (∀ w : RWord,
     Does (.and w) (fun c => c.put w.d [w.a, w.b] (fun th => wordRes (c.x th w.a &&& c.x th w.b))) ∧
     Does (.or w) (fun c => c.put w.d [w.a, w.b] (fun th => wordRes (c.x th w.a ||| c.x th w.b))) ∧
     Does (.xor w) (fun c => c.put w.d [w.a, w.b] (fun th => wordRes (c.x th w.a ^^^ c.x th w.b))) ∧
     Does (.andn w) (fun c => c.put w.d [w.a, w.b] (fun th => wordRes (c.x th w.a &&& ~~~(c.x th w.b)))) ∧
     ∃ f : Word → Word → Word → Word → Word,
       (∀ t a b d i, i < 32 → (f t a b d).getLsbD i =
         t.getLsbD ((a.getLsbD i).toNat + 2 * (b.getLsbD i).toNat + 4 * (d.getLsbD i).toNat)) ∧
       Does (.bitf3 w) (fun c => c.put w.d [w.a, w.b, w.c] (fun th =>
         wordRes (f (c.x th w.c) (c.x th w.a) (c.x th w.b) (c.x th w.d))))) ∧
  (∀ w : RWord,
     Does (.shl w) (fun c => c.put w.d [w.a, w.b] (fun th =>
       if 32 ≤ c.u th w.b then intRes 0 else intRes (c.u th w.a * 2 ^ (c.x th w.b).toNat))) ∧
     Does (.shr w) (fun c => c.put w.d [w.a, w.b] (fun th =>
       if w.m = 1 then
         (if 32 ≤ c.u th w.b then intRes (if c.i th w.a < 0 then -1 else 0)
          else intRes (c.i th w.a / 2 ^ (c.x th w.b).toNat))
       else if 32 ≤ c.u th w.b then intRes 0 else intRes (c.u th w.a / 2 ^ (c.x th w.b).toNat))) ∧
     ∃ f : Word → Word → Word,
       (∀ a b i, i < 32 → (f a b).getLsbD i =
         a.getLsbD ((if w.m = 1 then i + b.toNat % 32 else i + 32 - b.toNat % 32) % 32)) ∧
       Does (.rot w) (fun c => c.put w.d [w.a, w.b] (fun th => wordRes (f (c.x th w.a) (c.x th w.b))))) ∧
  (∀ w : RWord,
     Does (.popc w) (fun c => c.put w.d [w.a] (fun th =>
       intRes (((List.range 32).filter (c.x th w.a).getLsbD).length : Int))) ∧
     Does (.clz w) (fun c => c.put w.d [w.a] (fun th =>
       intRes (if c.x th w.a = 0 then 32 else 31 - (Nat.log2 (c.x th w.a).toNat : Int)))) ∧
     ∃ f : Word → Word,
       (∀ a i, i < 32 → (f a).getLsbD i = a.getLsbD (31 - i)) ∧
       Does (.brev w) (fun c => c.put w.d [w.a] (fun th => wordRes (f (c.x th w.a))))) ∧
  (∀ w : RWord,
     Does (.bfx w) (fun c => c.put w.d [w.a, w.b, w.c] (fun th =>
       let pos := (c.x th w.b).toNat % 256
       let len := min ((c.x th w.c).toNat % 256) 32
       if len = 0 then intRes 0
       else if w.m = 1 then intRes (Int.bmod (c.i th w.a / 2 ^ pos) (2 ^ len))
       else intRes (c.u th w.a / 2 ^ pos % 2 ^ len))) ∧
     Does (.bfi w) (fun c => c.put w.d [w.a, w.b, w.c] (fun th =>
       let pos := (c.x th w.c).toNat % 256
       let len := (c.x th w.c).toNat / 256 % 256
       let mask : Word := BitVec.ofInt 32 ((2 ^ len - 1) * 2 ^ pos)
       wordRes ((c.x th w.b &&& ~~~mask) ||| (BitVec.ofInt 32 (c.u th w.a * 2 ^ pos) &&& mask)))))

/-- ICMP's ten conditions: each active lane takes 1 or 0 (R193). PLOP's table lookup, PMOV's 32 predicates, the three
votes of PVOTE, and ELECT (R194 to R197). -/
def Obligations.ComparesAndPredicates : Prop :=
  (∀ w : RWord, ∀ holds : Int → Int → Int → Int → Bool,
     ((fld w.c 3 0 = 0 ∧ holds = fun a b _ _ => decide (a = b)) ∨ (fld w.c 3 0 = 1 ∧ holds = fun a b _ _ => decide (a ≠ b)) ∨
      (fld w.c 3 0 = 2 ∧ holds = fun _ _ a b => decide (a < b)) ∨ (fld w.c 3 0 = 3 ∧ holds = fun _ _ a b => decide (a ≤ b)) ∨
      (fld w.c 3 0 = 4 ∧ holds = fun _ _ a b => decide (a > b)) ∨ (fld w.c 3 0 = 5 ∧ holds = fun _ _ a b => decide (a ≥ b)) ∨
      (fld w.c 3 0 = 6 ∧ holds = fun a b _ _ => decide (a < b)) ∨ (fld w.c 3 0 = 7 ∧ holds = fun a b _ _ => decide (a ≤ b)) ∨
      (fld w.c 3 0 = 8 ∧ holds = fun a b _ _ => decide (a > b)) ∨ (fld w.c 3 0 = 9 ∧ holds = fun a b _ _ => decide (a ≥ b))) →
     Does (.icmp w) (fun c => c.put w.d [w.a, w.b] (fun th =>
       boolRes (holds (c.u th w.a) (c.u th w.b) (c.i th w.a) (c.i th w.b))))) ∧
  (∀ w : RWord,
     Does (.plop w) (fun c => c.put w.d [] (fun th => boolRes ((fld w.c 7 0).testBit
       (4 * (if c.x th w.d ≠ 0 then 1 else 0) + 2 * (if c.x th w.a ≠ 0 then 1 else 0) +
         (if c.x th w.b ≠ 0 then 1 else 0))))) ∧
     (∃ f : Ctx → Nat → Word,
       (∀ c th i, i < 32 → (f c th).getLsbD i =
         (decide (w.a.toNat - 1152 + i < c.t.decl.preds) && (c.t.thread th).pred (w.a.toNat - 1152 + i))) ∧
       (w.m = 0 → Does (.pmov w) (fun c => c.put w.d [] (fun th => wordRes (f c th))))) ∧
     (∃ f : Thread → Nat → Word → Thread,
       (∀ x n v k, (f x n v).pred k =
         if w.d.toNat - 1152 ≤ k ∧ k < w.d.toNat - 1152 + 32 ∧ k < n then v.getLsbD (k - (w.d.toNat - 1152))
         else x.pred k) ∧
       (∀ x n v, { f x n v with p := x.p } = x) ∧
       (w.m = 1 → Does (.pmov w) (fun c => c.teamPut (c.act.foldl (fun t th => t.mapThread th (fun x =>
         f x c.t.decl.preds (c.x th w.a))) c.t) [w.a]))) ∧
     Does (.pvote w) (fun c => c.put w.d [] (fun _ =>
       if w.m = 0 then boolRes (c.act.all (fun l => c.x l w.a ≠ 0))
       else if w.m = 1 then boolRes (c.act.any (fun l => c.x l w.a ≠ 0))
       else
         let r := ((c.act.filter (fun l => c.x l w.a ≠ 0)).map (fun l => (2 : Int) ^ c.t.laneOf l)).sum
         if 1152 ≤ w.d.toNat ∧ w.d.toNat < 1280 then boolRes (r ≠ 0) else intRes r)) ∧
     Does (.elect w) (fun c => c.put w.d [] (fun th => boolRes (c.act.head? = some th))))

/-- Where the active threads of a control transfer go: BRX and REGRP to a regroup point, the inactive ones to the next
clause (R198). The bundle splits over the targets: for each there is one bundle of the threads that go there, in their
order, at its header, and nothing else of the team changes but the words counted in the skid of a halt (R26, R148,
R166). EXIT: the active threads are live no more, the others stand at the next clause; barriers that are now complete
complete. The EXIT that leaves a handler no thread returns from it: the halt is over, the handler's bundles vanish, the
faulting bundle stands again at the recorded word with its threads that still live, every other bundle resumes, and the
skid counts are zero (R200, R251, R314). A transfer through a register takes a pair in A as log 19 reads it. -/
def Obligations.ControlTransfers : Prop :=
  (∀ (w : RWord) (iw : IWord),
     Does (.bra iw) (fun c => c.go c.t false (fun _ => BitVec.ofInt 64 (c.b.pc.toNat + 8 * iw.imm.toInt))) ∧
     Does (.brx w) (fun c => c.go (c.pop c.t [w.b.toNat]) true (fun th =>
       BitVec.ofInt 64 ((c.pr th w.a).toNat + 8 * c.i th w.b))) ∧
     Does (.jmp w) (fun c => c.go c.t false (fun th => c.pr th w.a)) ∧
     Does (.call iw) (fun c => c.go (c.writePair c.t iw.d.toNat (fun _ => c.b.next) (fun _ => false)) false
       (fun _ => BitVec.ofInt 64 (c.b.pc.toNat + 8 * iw.imm.toInt))) ∧
     Does (.ret w) (fun c => c.go c.t false (fun th => c.pr th w.a)) ∧
     Does (.regrp w) (fun c => c.go c.t true (fun _ => c.b.next)) ∧
     ∀ (c : Ctx) (t : Team) (target : Nat → DWord × Bool), t.bundle c.bi = some c.b → c.b.members ≠ [] →
       let u := c.transfer t target
       let made (i : Nat) : Prop := i = c.bi ∨ t.bundles.length ≤ i
       { u with bundles := t.bundles } = t.countSkid c.present ∧
       (∀ i, i < t.bundles.length → i ≠ c.bi → u.bundle i = t.bundle i) ∧
       (∀ i b, made i → u.bundle i = some b → ∃ th ∈ c.b.members, b = { c.b with
         members := c.b.members.filter (fun x => target x = target th), pc := (target th).1, regroup := (target th).2
         clause := none, idx := 0, wait := .ready, held := none, parked := false, since := none, frozen := [], popped := []
         poppedRanks := [], slots := [], resume := none }) ∧
       ∀ th, th ∈ c.b.members → ∃! i, made i ∧ ∃ b, u.bundle i = some b ∧ th ∈ b.members) ∧
  (∀ w : RWord,
     Does (.exit w) (fun c => ((c.s.setTeam c.tk c.exitTeam).restartDeadline c.tk c.t).finishBarriers c.tk) ∧
     ∀ c : Ctx, c.t.bundle c.bi = some c.b →
       let rest := c.b.members.filter (fun th => !c.act.contains th)
       let others : Prop := ∃ i b, i ≠ c.bi ∧ c.t.bundle i = some b ∧ b.handler = true ∧ b.members ≠ []
       (∀ th, th < c.t.threads.length → (c.exitTeam.thread th).live = ((c.t.thread th).live && !c.act.contains th)) ∧
       (c.b.handler = false ∨ rest ≠ [] ∨ others → c.exitTeam.halt = c.t.halt ∧
         ∃ b, c.exitTeam.bundle c.bi = some b ∧ b.members = rest ∧
           b.pc = c.b.pc + BitVec.ofNat 64 (8 * (c.b.count + 1)) ∧ b.clause = none) ∧
       ∀ h b, c.b.handler = true → rest = [] → ¬ others → c.t.halt = some h → h.outer = none → h.stop = some b →
         c.exitTeam.halt = none ∧
         c.exitTeam.bundles = (c.t.bundles.filter (fun b => !b.handler)).map Bundle.release ++
           [{ b with members := b.members.filter (fun i => (c.exitTeam.thread i).live), wait := .ready }] ∧
         c.exitTeam.groups = c.t.groups.map (fun g => { g with skid := 0 }))

/-! ### Floating-point words -/

/-- FADD to FDIV, FMIN, FMAX, FABS, FNEG and FRND: each element on its own, in the active lane's own mode, the
conditions of both elements ORed into %fstat, the tags propagated (R66, R201, R202, R204). FRCP, FRSQ, FSQRT, FEXP2,
FLOG2, FSIN and FCOS: what each writes. FCMP's eight conditions with the NaNs that set NV, and FCLASS's mask of the
class (R206, R207). CVT, RQNT and BSMAX: a narrowing CVT merges into the old D, whose tag it then takes too (R208 to
R212). ADMIT clears the tag and BTAG reads or sets it; neither changes a value (R214, R215). -/
def Obligations.FloatWords : Prop :=
  (∀ w : RWord,
     let two (f : Fmt → RM → Nat → Nat → Rounded) (c : Ctx) : State := c.putFlt w.d [w.a, w.b] (fun th =>
       (perElem w.m.toNat (fun F k => f F (RM.ofBits (c.t.thread th).rm)
         (elem (elemWidth w.m.toNat) k (c.valF w.m.toNat th w.a.toNat).toNat)
         (elem (elemWidth w.m.toNat) k (c.valF w.m.toNat th w.b.toNat).toNat))).res (c.tg th w.a || c.tg th w.b))
     let one (f : Fmt → RM → Nat → Rounded) (c : Ctx) : State := c.putFlt w.d [w.a] (fun th =>
       (perElem w.m.toNat (fun F k => f F (RM.ofBits (c.t.thread th).rm)
         (elem (elemWidth w.m.toNat) k (c.valF w.m.toNat th w.a.toNat).toNat))).res (c.tg th w.a))
     Does (.fadd w) (two (fun F rm a b => F.fadd rm a b)) ∧
     Does (.fsub w) (two (fun F rm a b => F.fsub rm a b)) ∧
     Does (.fmul w) (two (fun F rm a b => F.fmul rm a b)) ∧
     Does (.fdiv w) (two (fun F rm a b => F.fdiv rm a b)) ∧
     Does (.fmin w) (two (fun F _ a b => F.fminmax false a b)) ∧
     Does (.fmax w) (two (fun F _ a b => F.fminmax true a b)) ∧
     Does (.fabs w) (one (fun F _ a => ⟨a % 2 ^ (F.ebits + F.fbits), 0⟩)) ∧
     Does (.fneg w) (one (fun F _ a => ⟨a ^^^ 2 ^ (F.ebits + F.fbits), 0⟩)) ∧
     Does (.frnd w) (one (fun F rm a => F.frnd (if fld w.c 2 0 = 0 then .rne else if fld w.c 2 0 = 1 then .rtz
       else if fld w.c 2 0 = 2 then .rup else if fld w.c 2 0 = 3 then .rdn else rm) a)) ∧
     Does (.ffma w) (fun c => c.putFlt w.d [w.a, w.b, w.c] (fun th =>
       (perElem w.m.toNat (fun F k => F.ffma (RM.ofBits (c.t.thread th).rm)
         (elem (elemWidth w.m.toNat) k (c.valF w.m.toNat th w.a.toNat).toNat)
         (elem (elemWidth w.m.toNat) k (c.valF w.m.toNat th w.b.toNat).toNat)
         (elem (elemWidth w.m.toNat) k (c.valF w.m.toNat th w.c.toNat).toNat))).res
         (c.tg th w.a || c.tg th w.b || c.tg th w.c)))) ∧
  (∀ w : RWord,
     let fn (f : RM → Word → Rounded) (c : Ctx) : State := c.putFlt w.d [w.a] (fun th =>
       (f (RM.ofBits (c.t.thread th).rm) (c.x th w.a)).res (c.tg th w.a))
     Does (.frcp w) (fn frcp) ∧
     Does (.frsq w) (fn (fun _ => frsq)) ∧
     Does (.fsqrt w) (fn (fun rm a => Fmt.fp32.fsqrt rm a.toNat)) ∧
     Does (.fexp2 w) (fn (fun _ => fexp2)) ∧
     Does (.flog2 w) (fn (fun _ => flog2)) ∧
     Does (.fsin w) (fn (fun _ => fsin)) ∧
     Does (.fcos w) (fn (fun _ => fcos))) ∧
  (∀ w : RWord,
     let v := FVal.rat
     (∃ f : Word → Word → Bool × Conds,
       (∀ a b,
         let x := Fmt.fp32.decode a.toNat
         let y := Fmt.fp32.decode b.toNat
         let un := x.isNan || y.isNan
         let sig : Conds := if x.isSignalling || y.isSignalling then Conds.nv else 0
         let any : Conds := if un then Conds.nv else 0
         f a b = if fld w.c 3 0 = 0 then (!un && decide (v x = v y), sig)
           else if fld w.c 3 0 = 1 then (un || decide (v x ≠ v y), sig)
           else if fld w.c 3 0 = 2 then (!un && decide (v x < v y), any)
           else if fld w.c 3 0 = 3 then (!un && decide (v x ≤ v y), any)
           else if fld w.c 3 0 = 4 then (!un && decide (v y < v x), any)
           else if fld w.c 3 0 = 5 then (!un && decide (v y ≤ v x), any)
           else if fld w.c 3 0 = 6 then (un, sig) else (!un, sig)) ∧
       Does (.fcmp w) (fun c => c.putFlt w.d [w.a, w.b] (fun th =>
         ⟨if (f (c.x th w.a) (c.x th w.b)).1 then 1 else 0, false, (f (c.x th w.a) (c.x th w.b)).2⟩))) ∧
     Does (.fclass w) (fun c => c.putFlt w.d [w.a] (fun th =>
       let k := match Fmt.fp32.decode (c.x th w.a).toNat with
         | .nan true => 8
         | .nan false => 9
         | .inf true => 0
         | .inf false => 7
         | .fin true m _ => if m = 0 then 3 else if m < 2 ^ 23 then 2 else 1
         | .fin false m _ => if m = 0 then 4 else if m < 2 ^ 23 then 5 else 6
       let isPred : Bool := 1152 ≤ w.d.toNat && w.d.toNat < 1280
       ⟨if (fld w.c 9 0).testBit k then BitVec.ofNat 32 (2 ^ k) else 0, c.tg th w.a && !isPred, 0⟩))) ∧
  (∀ w : RWord,
     let narrows : Bool := cvtWidth (fld w.c 7 4) < cvtWidth (fld w.c 3 0)
     Does (.cvt w) (fun c => c.putFlt w.d ([w.a, w.b] ++ if narrows then [w.d] else []) (fun th =>
       (cvt (fld w.c 3 0) (fld w.c 7 4) w.m.toNat
         (if fld w.c 10 9 = 0 then .rne else if fld w.c 10 9 = 1 then .rtz else RM.ofBits (c.t.thread th).rm)
         (w.c.getLsbD 8) (max (-128) (min 127 (c.i th w.b))) (c.x th w.a).toNat (c.x th w.d).toNat).res
         (c.tg th w.a || (narrows && c.tg th w.d)))) ∧
     Does (.rqnt w) (fun c => c.putFlt w.d [w.a, w.b] (fun th =>
       (rqnt w.m.toNat (c.i th w.b) (c.x th w.a).toNat).res (c.tg th w.a))) ∧
     Does (.bsmax w) (fun c => c.putFlt w.d [w.a, w.b] (fun th =>
       intRes (bsmax w.m.toNat (c.x th w.a).toNat (c.i th w.b))))) ∧
  (∀ w : RWord,
     (w.m = 0 → Does (.admitWord w) (fun c => c.putFlt w.d [w.a] (fun th => wordRes (c.x th w.a)))) ∧
     (w.m = 1 → Does (.admitWord w) (fun c => c.putPair w.d [] (fun th => c.pr th w.a))) ∧
     (w.m = 0 → Does (.btag w) (fun c => c.putFlt w.d [w.a] (fun th => boolRes (c.tg th w.a)))) ∧
     (w.m = 1 → Does (.btag w) (fun c => c.putFlt w.d [w.a] (fun th => ⟨c.x th w.a, true, 0⟩))))

/-- The one rounding of every IEEE format is correct in each of the four modes (R6, R44, R50). -/
def Obligations.RoundingIsCorrect : Prop :=
  ∀ (F : Fmt) (rm : RM) (neg : Bool) (m : Nat) (e : Int), F ∈ [Fmt.fp32, Fmt.fp16, Fmt.bf16, Fmt.e5m2] → m ≠ 0 →
    Rounds F rm neg (ratOf neg m e) (F.round rm false neg m e)

/-- The exact sum, difference, product, fused sum, quotient, root and reciprocal of finite elements are rounded once
and correctly where they are nonzero; a zero sum takes the common sign of two zeros, else +0, or -0 under RDN (R62,
R202). -/
def Obligations.ArithmeticIsCorrectlyRounded : Prop :=
  ∀ (F : Fmt) (rm : RM) (a b c : Nat) (s t u : Bool) (m n l : Nat) (e f g : Int),
    F ∈ [Fmt.fp32, Fmt.fp16, Fmt.bf16] →
    F.decode a = .fin s m e → F.decode b = .fin t n f → F.decode c = .fin u l g →
    let x := ratOf s m e
    let y := ratOf t n f
    let z := ratOf u l g
    (x + y ≠ 0 → Rounds F rm (x + y < 0) (x + y : ℚ) (F.fadd rm a b)) ∧
    (x + y = 0 → F.fadd rm a b = ⟨F.signBit (if m = 0 ∧ n = 0 ∧ s = t then s else rm == .rdn), 0⟩) ∧
    (x - y ≠ 0 → Rounds F rm (x - y < 0) (x - y : ℚ) (F.fsub rm a b)) ∧
    (x - y = 0 → F.fsub rm a b = ⟨F.signBit (if m = 0 ∧ n = 0 ∧ s = !t then s else rm == .rdn), 0⟩) ∧
    (x * y ≠ 0 → Rounds F rm (s != t) (x * y : ℚ) (F.fmul rm a b)) ∧
    (x * y = 0 → F.fmul rm a b = ⟨F.signBit (s != t), 0⟩) ∧
    (x * y + z ≠ 0 → Rounds F rm (x * y + z < 0) (x * y + z : ℚ) (F.ffma rm a b c)) ∧
    (x * y + z = 0 →
      F.ffma rm a b c = ⟨F.signBit (if m * n = 0 ∧ l = 0 ∧ (s != t) = u then u else rm == .rdn), 0⟩) ∧
    (x ≠ 0 → y ≠ 0 → Rounds F rm (s != t) (x / y : ℚ) (F.fdiv rm a b)) ∧
    (0 < x → Rounds F rm false (Real.sqrt x) (F.fsqrt rm a)) ∧
    (F = Fmt.fp32 → x ≠ 0 → a < 2 ^ 32 → Rounds F rm s (1 / x : ℚ) (frcp rm (BitVec.ofNat 32 a)))

/-- The special cases of the arithmetic on the element formats of M: a NaN operand, infinities with infinities and with
finite operands, products and sums that are invalid, and divisions by zero (R202). FMIN and FMAX treat a NaN as a
missing operand, order -0 below +0, and return an operand bit for bit (R203). What CVT, RQNT and FRND compute. CVT:
which elements are read and written, a source element's value, and what each target takes: a float is rounded once into
the target, an overflow, an infinity and a NaN as R50 says; an integer is rounded, and saturated or wrapped; an L6 code
is the last whose threshold the scaled magnitude reaches. RQNT: an L6 code moves by four codes a unit, an FP8 element
is rounded to the nearest and saturates, special values are kept. FRND: the nearest integral value in the mode, with
the sign (R46, R47, R48, R50, R51, R63, R204, R209, R210, R211). RQNT of a signalling E5M2 NaN without a condition is
the model's choice (log 91; R43 would set one, R211 lists none). -/
def Obligations.FloatSpecialCases : Prop :=
  (∀ (F : Fmt) (rm : RM) (a b c : Nat), F ∈ [Fmt.fp32, Fmt.fp16, Fmt.bf16] →
     let x := F.decode a
     let y := F.decode b
     let z := F.decode c
     let invalid : Rounded := ⟨F.nanCode, Conds.nv⟩
     let infinity (s : Bool) : Rounded := ⟨F.signBit s + F.infCode, 0⟩
     let zero (s : Bool) : Rounded := ⟨F.signBit s, 0⟩
     (x.isNan = true ∨ y.isNan = true →
       ∀ r ∈ [F.fadd rm a b, F.fsub rm a b, F.fmul rm a b, F.fdiv rm a b],
         r = ⟨F.nanCode, if x.isSignalling || y.isSignalling then Conds.nv else 0⟩) ∧
     (x.isNan = true ∨ y.isNan = true ∨ z.isNan = true →
       F.ffma rm a b c = ⟨F.nanCode, if x.isSignalling || y.isSignalling || z.isSignalling ||
         (x.isZero && y.isInf) || (x.isInf && y.isZero) then Conds.nv else 0⟩) ∧
     (∀ s, x = .inf s → y = .inf s → F.fsub rm a b = invalid ∧ F.fdiv rm a b = invalid ∧ F.fadd rm a b = infinity s) ∧
     (∀ s, x = .inf s → y = .inf (!s) →
       F.fadd rm a b = invalid ∧ F.fdiv rm a b = invalid ∧ F.fsub rm a b = infinity s) ∧
     (∀ s t, x = .inf s → y = .inf t → F.fmul rm a b = infinity (s != t)) ∧
     (∀ s t m e, x = .inf s → y = .fin t m e →
       F.fadd rm a b = infinity s ∧ F.fadd rm b a = infinity s ∧
       F.fsub rm a b = infinity s ∧ F.fsub rm b a = infinity (!s) ∧
       F.fdiv rm a b = infinity (s != t) ∧ F.fdiv rm b a = zero (s != t) ∧
       (m ≠ 0 → F.fmul rm a b = infinity (s != t) ∧ F.fmul rm b a = infinity (s != t))) ∧
     (∀ s t e, x = .fin s 0 e → y = .inf t →
       F.fmul rm a b = invalid ∧ F.fmul rm b a = invalid ∧ F.ffma rm a b c = invalid ∧ F.ffma rm b a c = invalid) ∧
     (∀ s t, x = .inf s → (y = .inf t ∨ ∃ m e, m ≠ 0 ∧ y = .fin t m e) →
       (z = .inf (!(s != t)) → F.ffma rm a b c = invalid ∧ F.ffma rm b a c = invalid) ∧
       (z = .inf (s != t) ∨ (∃ u l g, z = .fin u l g) →
         F.ffma rm a b c = infinity (s != t) ∧ F.ffma rm b a c = infinity (s != t))) ∧
     (∀ s t u m n e f, x = .fin s m e → y = .fin t n f → z = .inf u → F.ffma rm a b c = infinity u) ∧
     (∀ s t e f, x = .fin s 0 e → y = .fin t 0 f → F.fdiv rm a b = invalid) ∧
     (∀ s t n e f, n ≠ 0 → x = .fin s 0 e → y = .fin t n f → F.fdiv rm a b = zero (s != t)) ∧
     (∀ s t m e f, m ≠ 0 → x = .fin s m e → y = .fin t 0 f →
       F.fdiv rm a b = ⟨F.signBit (s != t) + F.infCode, Conds.dz⟩)) ∧
  (∀ (F : Fmt) (a b : Nat), F ∈ [Fmt.fp32, Fmt.fp16, Fmt.bf16] →
     let x := F.decode a
     let y := F.decode b
     let nv : Conds := if x.isSignalling || y.isSignalling then Conds.nv else 0
     let v := FVal.rat
     (x.isNan = true → y.isNan = true → F.fminmax false a b = ⟨F.nanCode, nv⟩ ∧ F.fminmax true a b = ⟨F.nanCode, nv⟩) ∧
     (x.isNan = true → y.isNan = false → F.fminmax false a b = ⟨b, nv⟩ ∧ F.fminmax true a b = ⟨b, nv⟩) ∧
     (x.isNan = false → y.isNan = true → F.fminmax false a b = ⟨a, nv⟩ ∧ F.fminmax true a b = ⟨a, nv⟩) ∧
     (x.isNan = false → y.isNan = false →
       (v x < v y → F.fminmax false a b = ⟨a, 0⟩ ∧ F.fminmax true a b = ⟨b, 0⟩) ∧
       (v y < v x → F.fminmax false a b = ⟨b, 0⟩ ∧ F.fminmax true a b = ⟨a, 0⟩) ∧
       (x.isZero = true → y.isZero = true → x.neg? = true → y.neg? = false →
         F.fminmax false a b = ⟨a, 0⟩ ∧ F.fminmax true a b = ⟨b, 0⟩) ∧
       (x.isZero = true → y.isZero = true → x.neg? = false → y.neg? = true →
         F.fminmax false a b = ⟨b, 0⟩ ∧ F.fminmax true a b = ⟨a, 0⟩))) ∧
  ((∀ (S T H : Nat) (rm : RM) (sat : Bool) (E : Int) (a old : Nat), S ≤ 8 → T ≤ 8 → a < 2 ^ 32 → old < 2 ^ 32 →
     let width (code : Nat) : Nat := if code = 0 ∨ code = 8 then 32 else if code = 1 ∨ code = 2 then 16 else 8
     let ws := width S
     let wd := width T
     let n := 32 / max ws wd
     let first := if wd < ws then H * n else 0
     H < max ws wd / min ws wd →
     let from_ (i : Nat) : FVal := cvtDecode S (a / 2 ^ (ws * (if ws < wd then H * n + i else i)) % 2 ^ ws)
     let one (i : Nat) : Rounded := cvtEncode S T rm sat E ((from_ i).scale (if 3 ≤ S ∧ S ≤ 7 then E else 0))
     let r := cvt S T H rm sat E a old
     (∀ k, k < 32 / wd → r.bits / 2 ^ (wd * k) % 2 ^ wd =
       if first ≤ k ∧ k < first + n then (one (k - first)).bits
       else if wd < ws then old / 2 ^ (wd * k) % 2 ^ wd else 0) ∧
     r.bits < 2 ^ 32 ∧
     r.conds = ((List.range n).map (fun i => (one i).conds)).foldl (fun c x => c ||| x) 0) ∧
   (∀ x, x < 2 ^ 32 →
     (∀ p ∈ [(0, Fmt.fp32), (1, Fmt.fp16), (2, Fmt.bf16), (3, Fmt.e4m3), (4, Fmt.e5m2)], cvtDecode p.1 x = p.2.decode x) ∧
     (cvtDecode 6 x).rat = (BitVec.ofNat 8 x).toInt ∧ (cvtDecode 7 x).rat = (x % 256 : Nat) ∧
     (cvtDecode 8 x).rat = (BitVec.ofNat 32 x).toInt ∧
     (∀ c ∈ [6, 7, 8], ∃ s m e, cvtDecode c x = .fin s m e) ∧
     (x < 256 → if 64 ≤ x ∨ x = 32 then cvtDecode 5 x = .nan false
       else ∃ m e, cvtDecode 5 x = .fin (decide (32 ≤ x)) m e ∧ (ratOf false m e : ℚ) =
         if x % 32 = 0 then 0 else
           (([0x1000000, 0x1306FE0, 0x16A09E6, 0x1AE89FA].getD (x % 4) 0 : Nat) : ℚ) / 2 ^ 24 *
             (2 : ℚ) ^ (((x % 32 / 4 : Nat) : Int) - 4))) ∧
   (∀ (S T : Nat) (rm : RM) (sat : Bool) (E : Int) (F : Fmt),
     (T, F) ∈ [(0, Fmt.fp32), (1, Fmt.fp16), (2, Fmt.bf16), (3, Fmt.e4m3), (4, Fmt.e5m2)] →
     let enc := cvtEncode S T rm sat E
     let largest := [0x7F7FFFFF, 0x7BFF, 0x7F7F, 0x7E, 0x7B].getD T 0
     let infinite (s : Bool) : Nat := if sat then F.signBit s + largest
       else if T = 3 then 0x7F else F.signBit s + [0x7F800000, 0x7C00, 0x7F80, 0, 0x7C].getD T 0
     (∀ s, enc (.nan s) = ⟨[0x7FC00000, 0x7E00, 0x7FC0, 0x7F, 0x7E].getD T 0, if s then Conds.nv else 0⟩) ∧
     (∀ s, enc (.inf s) = ⟨infinite s, if sat ∨ T = 3 then Conds.nv else 0⟩) ∧
     (∀ s e, enc (.fin s 0 e) = ⟨F.signBit s, 0⟩) ∧
     (∀ s m e, m ≠ 0 → RoundsIn F rm s (ratOf s m e * 2 ^ (if 3 ≤ T then -E else 0)) (enc (.fin s m e))
       (if rm.away s then infinite s else F.signBit s + largest))) ∧
   (∀ (S T : Nat) (rm : RM) (sat : Bool) (E : Int), T = 6 ∨ T = 7 ∨ T = 8 →
     let enc := cvtEncode S T rm sat E
     let w := if T = 8 then 32 else 8
     let lo : Int := if T = 7 then 0 else -2 ^ (w - 1)
     let hi : Int := if T = 7 then 255 else 2 ^ (w - 1) - 1
     let code (i : Int) : Nat := (i % 2 ^ w).toNat
     (∀ s, enc (.nan s) = ⟨0, Conds.nv⟩) ∧
     (∀ s, enc (.inf s) = ⟨code (if s then lo else hi), Conds.nv⟩) ∧
     ∀ s m e, ∃ i : Int, rm.Integer (ratOf s m e * 2 ^ (if T = 8 then 0 else -E)) i ∧
       let nx : Conds := if (i : ℚ) = ratOf s m e * 2 ^ (if T = 8 then 0 else -E) then 0 else Conds.nx
       enc (.fin s m e) = if (lo ≤ i ∧ i ≤ hi) ∨ ((S = 6 ∨ S = 7 ∨ S = 8) ∧ sat = false) then ⟨code i, nx⟩
         else ⟨code (if i < lo then lo else hi), nx ||| Conds.nv⟩) ∧
   (∀ (S : Nat) (rm : RM) (sat : Bool) (E : Int),
     let enc := cvtEncode S 5 rm sat E
     let step (f : Nat) : ℚ := (([0x11837F0, 0x14D3CE4, 0x18C49F0, 0x1D744FC].getD f 0 : Nat) : ℚ) / 2 ^ 24
     let bound (k : Nat) : ℚ := (2 : ℚ) ^ ((((k - 1) / 4 : Nat) : Int) - 4) * step ((k - 1) % 4)
     (∀ s, enc (.nan s) = ⟨0x20, if s then Conds.nv else 0⟩) ∧
     (∀ s, enc (.inf s) = ⟨(if s then 32 else 0) + 31, Conds.oF ||| Conds.nx⟩) ∧
     ∀ (s : Bool) (m : Nat) (e : Int),
       let a : ℚ := (m : ℚ) * 2 ^ (e - E)
       (a < 0x1306FE0 / 2 ^ 29 → enc (.fin s m e) = ⟨0, if m = 0 then 0 else Conds.uf ||| Conds.nx⟩) ∧
       (0x1306FE0 / 2 ^ 29 ≤ a → ∃ k, 1 ≤ k ∧ k ≤ 31 ∧ (∀ j, 2 ≤ j → j ≤ k → bound j ≤ a) ∧
         (∀ j, k < j → j ≤ 31 → a < bound j) ∧
         enc (.fin s m e) = ⟨(if s then 32 else 0) + k, (if (cvtDecode 5 k).rat = a then 0 else Conds.nx) |||
           if k = 31 ∧ (cvtDecode 5 31).rat < a then Conds.oF else 0⟩)) ∧
   (∀ (fmt : Nat) (d : Int) (a : Nat), fmt < 3 → a < 2 ^ 32 →
     (∀ k, k < 4 → (rqnt fmt d a).bits / 2 ^ (8 * k) % 256 = (rqntElem fmt d (a / 2 ^ (8 * k) % 256)).bits) ∧
     (rqnt fmt d a).bits < 2 ^ 32 ∧
     (rqnt fmt d a).conds =
       ((List.range 4).map (fun k => (rqntElem fmt d (a / 2 ^ (8 * k) % 256)).conds)).foldl (fun c x => c ||| x) 0) ∧
   (∀ (d : Int) (x : Nat), x < 256 →
     let c := if 64 ≤ x then 0x20 else x
     let m : Int := (c % 32 : Nat)
     let sign := c / 32 * 32
     rqntElem 2 d x =
       if m = 0 then ⟨c, 0⟩
       else if 31 < m - 4 * d then ⟨sign + 31, Conds.oF ||| Conds.nx⟩
       else if 1 ≤ m - 4 * d then ⟨sign + (m - 4 * d).toNat, 0⟩
       else if -3 ≤ m - 4 * d then ⟨sign + 1, Conds.nx⟩
       else ⟨0, Conds.uf ||| Conds.nx⟩) ∧
   (∀ (fmt : Nat) (d : Int) (x : Nat) (F : Fmt), (fmt, F) ∈ [(0, Fmt.e4m3), (1, Fmt.e5m2)] → x < 256 →
     ((∀ s m e, F.decode x = .fin s m e → m = 0) → rqntElem fmt d x = ⟨x, 0⟩) ∧
     ∀ s m e, m ≠ 0 → F.decode x = .fin s m e →
       let r := rqntElem fmt d x
       RoundsIn F .rne s (ratOf s m e * 2 ^ (-d)) r (F.signBit s + if fmt = 0 then 0x7E else 0x7B) ∧
       (r.conds &&& Conds.oF = 0 → (r.conds &&& Conds.uf ≠ 0 ↔
         r.conds &&& Conds.nx ≠ 0 ∧ ∃ n k, n < 2 ^ F.fbits ∧ F.decode r.bits = .fin s n k))) ∧
   ∀ (F : Fmt) (rm : RM) (a : Nat), F ∈ [Fmt.fp32, Fmt.fp16, Fmt.bf16] →
     (∀ s, F.decode a = .nan s → F.frnd rm a = ⟨F.nanCode, if s then Conds.nv else 0⟩) ∧
     (∀ s e, F.decode a = .inf s ∨ F.decode a = .fin s 0 e → F.frnd rm a = ⟨a, 0⟩) ∧
     ∀ s m e, m ≠ 0 → F.decode a = .fin s m e → ∃ n k, ∃ i : Int,
       rm.Integer (ratOf s m e) i ∧ F.decode (F.frnd rm a).bits = .fin s n k ∧ ratOf s n k = i ∧
       (F.frnd rm a).bits < 2 ^ (1 + F.ebits + F.fbits) ∧
       (F.frnd rm a).conds = if (i : ℚ) = ratOf s m e then 0 else Conds.nx)

/-- The functions of one FP32 source at the special inputs of their table (R205). Between those inputs FRSQ, FEXP2,
FLOG2, FSIN and FCOS take a free value inside the bound of R62 (log 6), of which nothing is said here. -/
def Obligations.FunctionValues : Prop :=
  (∀ rm, frcp rm 0 = ⟨0x7F800000, Conds.dz⟩ ∧ frcp rm 0x80000000 = ⟨0xFF800000, Conds.dz⟩ ∧
    frcp rm 0x7F800000 = ⟨0, 0⟩ ∧ frcp rm 0xFF800000 = ⟨0x80000000, 0⟩ ∧
    Fmt.fp32.fsqrt rm 0 = ⟨0, 0⟩ ∧ Fmt.fp32.fsqrt rm 0x80000000 = ⟨0x80000000, 0⟩ ∧
    Fmt.fp32.fsqrt rm 0x7F800000 = ⟨0x7F800000, 0⟩) ∧
  frsq 0 = ⟨0x7F800000, Conds.dz⟩ ∧ frsq 0x80000000 = ⟨0xFF800000, Conds.dz⟩ ∧ frsq 0x7F800000 = ⟨0, 0⟩ ∧
  fexp2 0xFF800000 = ⟨0, 0⟩ ∧ fexp2 0x7F800000 = ⟨0x7F800000, 0⟩ ∧
  flog2 0 = ⟨0xFF800000, Conds.dz⟩ ∧ flog2 0x80000000 = ⟨0xFF800000, Conds.dz⟩ ∧
  flog2 0x7F800000 = ⟨0x7F800000, 0⟩ ∧
  fsin 0 = ⟨0, 0⟩ ∧ fsin 0x80000000 = ⟨0x80000000, 0⟩ ∧ fcos 0 = ⟨0x3F800000, 0⟩ ∧
  fcos 0x80000000 = ⟨0x3F800000, 0⟩ ∧
  (∀ (a : Word) (s : Bool) (m : Nat) (e : Int), Fmt.fp32.decode a.toNat = .fin s m e →
    (∀ i : Int, -149 ≤ i → i ≤ 127 → ratOf s m e = i → ∃ n k, fexp2 a = ⟨(fexp2 a).bits, 0⟩ ∧
      Fmt.fp32.decode (fexp2 a).bits = .fin false n k ∧ ratOf false n k = 2 ^ i) ∧
    (128 ≤ ratOf s m e → fexp2 a = ⟨0x7F800000, Conds.oF ||| Conds.nx⟩) ∧
    (∀ i : Int, ratOf s m e = 2 ^ i → ∃ neg n k, flog2 a = ⟨(flog2 a).bits, 0⟩ ∧
      Fmt.fp32.decode (flog2 a).bits = .fin neg n k ∧ ratOf neg n k = i)) ∧
  (∀ a ∈ [(0x7F800000 : Word), 0xFF800000], fsin a = ⟨0x7FC00000, Conds.nv⟩ ∧ fcos a = ⟨0x7FC00000, Conds.nv⟩) ∧
  (∀ a : Word, (∃ m e, Fmt.fp32.decode a.toNat = .fin true m e ∧ m ≠ 0) ∨ a = 0xFF800000 →
    (∀ rm, Fmt.fp32.fsqrt rm a.toNat = ⟨0x7FC00000, Conds.nv⟩) ∧ frsq a = ⟨0x7FC00000, Conds.nv⟩ ∧
    flog2 a = ⟨0x7FC00000, Conds.nv⟩) ∧
  (∀ (a : Word) (s : Bool), Fmt.fp32.decode a.toNat = .nan s →
    ∀ r ∈ [frsq a, fexp2 a, flog2 a, fsin a, fcos a] ++
      [RM.rne, .rtz, .rup, .rdn].flatMap (fun rm => [frcp rm a, Fmt.fp32.fsqrt rm a.toNat]),
      r = ⟨0x7FC00000, if s then Conds.nv else 0⟩)

/-- BSMAX: the least scale exponent under which the magnitude fits the format, -128 for a NaN or a zero, 127 for an
infinity or where none fits, and never less than the clamped running maximum; the tag of D is clear, no condition is
raised; a tagged A passes, a tagged B is the trap 0x09 (R212). -/
def Obligations.ScaleSearch : Prop :=
  (∀ w : RWord,
    (Instr.bsmax w).opcode = 0x66 ∧ (formOk (.bsmax w) = true ↔ w.m ≠ 3 ∧ w.c = 0) ∧
    Does (.bsmax w) (fun c => c.putFlt w.d [w.a, w.b] (fun th =>
      intRes (bsmax w.m.toNat (c.x th w.a).toNat (c.i th w.b)))) ∧
    ∀ (s : State) (sp : WordSpec) (c : Ctx), s.Stands (.bsmax w) sp c →
      sp.policy c = none ∧ sp.access c = .pass ∧
      ((∀ th, th ∈ c.act → c.tags th w.b.toNat 1 = false) → (w.d ≠ 1105 → w.d ≠ 1106 → sp.own c = none) ∧
        ∀ x, sp.own c = some x → x.cause = 0x03) ∧
      ((∃ th, th ∈ c.act ∧ c.tags th w.b.toNat 1 = true) → ∃ x, sp.own c = some x ∧ x.cause = 0x09)) ∧
  ∀ (fmt : Nat) (a : Word) (b : Int), fmt < 3 →
    let running : Int := max (-128) (min 127 b)
    let limit : ℚ := if fmt = 0 then 448 else if fmt = 1 then 57344 else 0x1AE89FA / 2 ^ 21
    (∀ s, Fmt.fp32.decode a.toNat = .nan s → bsmax fmt a.toNat b = max (-128) running) ∧
    (∀ s, Fmt.fp32.decode a.toNat = .inf s → bsmax fmt a.toNat b = max 127 running) ∧
    ∀ s m e, Fmt.fp32.decode a.toNat = .fin s m e →
      (m = 0 → bsmax fmt a.toNat b = max (-128) running) ∧
      (m ≠ 0 →
        let fits (E : Int) : Prop := (m : ℚ) * 2 ^ e * 2 ^ (-E) ≤ limit
        ∃ need : Int, bsmax fmt a.toNat b = max need running ∧ -128 ≤ need ∧ need ≤ 127 ∧
          (fits need ∨ (need = 127 ∧ ∀ E : Int, -128 ≤ E → E ≤ 127 → ¬ fits E)) ∧
          ∀ E : Int, -128 ≤ E → E < need → ¬ fits E)

/-- REDG and SCANG: the fixed tree over home lanes, in which an empty node joins without a rounding (R61, R213). -/
def Obligations.GroupReductions : Prop :=
  ∀ w : RWord,
    ∃ node : Ctx → Nat → Nat → Option Rounded,
      (∀ c lane, node c 0 lane =
        (c.act.find? (fun th => c.t.laneOf th = lane)).map (fun th => ⟨(c.x th w.a).toNat, 0⟩)) ∧
      (∀ c n lane, node c (n + 1) lane =
        match node c n lane, node c n (lane + 2 ^ n) with
        | some x, some y =>
          let r := if w.m = 0 then Fmt.fp32.fadd .rne x.bits y.bits
            else Fmt.fp32.fminmax (w.m = 1) x.bits y.bits
          some ⟨r.bits, x.conds ||| y.conds ||| r.conds⟩
        | some x, none => some x
        | none, y => y) ∧
      Does (.redg w) (fun c => c.putFlt w.d [w.a] (fun _ =>
        ((node c (if c.t.decl.width = 16 then 4 else if c.t.decl.width = 32 then 5 else 6) 0).getD ⟨0, 0⟩).res
          (c.act.any (fun l => c.tg l w.a)))) ∧
      ∃ scan : Ctx → Nat → Nat → Nat → Option Rounded → Option Rounded,
        (∀ c count base acc, scan c count 0 base acc = acc) ∧
        (∀ c count k base acc, scan c count (k + 1) base acc =
          if count.testBit k then scan c count k (base + 2 ^ k)
            (match acc, node c k base with
             | some x, some y =>
               let r := if w.m = 0 then Fmt.fp32.fadd .rne x.bits y.bits
                 else Fmt.fp32.fminmax (w.m = 1) x.bits y.bits
               some ⟨r.bits, x.conds ||| y.conds ||| r.conds⟩
             | some x, none => some x
             | none, y => y)
          else scan c count k base acc) ∧
        Does (.scang w) (fun c => c.putFlt w.d [w.a] (fun th =>
          ((scan c (c.t.laneOf th + 1) 7 0 none).getD ⟨0, 0⟩).res
            (c.act.any (fun l => c.t.laneOf l ≤ c.t.laneOf th && c.tg l w.a))))

/-! ### Matrix words -/

/-- Matrix, memory and synchronisation words of a bundle without an active lane do nothing but move on (R6, R216). That
CBREL and CALLX without an active lane do nothing is the model's reading (log 32; R258 and R264 speak of every group
present). -/
def Obligations.WordsWithoutLanes : Prop :=
  ∀ (m : MWord) (w : RWord) (iw : IWord) (i : Instr),
    i ∈ [.mma w, .mmaz w, .mlda w, .msta w, .mzero w, .mrow w, .mapply w, .mscale w, .xmv w, .mlds w, .msts w,
      .ld m, .ldl6 m, .ldv m, .st m, .stb m, .stl6 m, .atom w, .red w, .cas w, .ldva w, .vpub w, .vinv w, .pref w,
      .cflush w, .cinv w, .wmask w, .monw w, .waitm w, .bara w, .barw w, .bari w, .fence w, .waitc w, .sleep iw,
      .cpy w, .cpyc w, .cbdef w, .cbacq w, .cbrel w, .xprog w, .xcal w, .fstat w, .callx w, .trap iw] →
    DoesWhere i (fun c => c.act = []) (fun c => c.pass)

/-- MMA and MMAZ of a native format: every element of the tile from the fragments, the old element for MMA and +0 for
MMAZ, in one step, and the tag of the fragments, with that of the old tile for MMA. MMAZ takes its place after the
writes that the tile was still owed, which no longer reach it (R66, R219, R220). Every later word of a tile but MMAZ
waits, its bundle stalled, while the tile is owed a write: MMA, MSTA, MROW, the A tile of MAPPLY, MSCALE and MSTS as
readers, and in this model the words that replace the tile (log 11) (R220). MMA and MMAZ of an emulated format leave
the tile to the control core, which owes it one step: the operands are those read at the issue, and later words of the
tile wait (R57, R219, R220). -/
def Obligations.MatrixMultiply : Prop :=
  (∀ w : RWord,
     let does (i : Instr) (acc : Bool) : Prop := ∀ (s : State) (sp : WordSpec) (c : Ctx) (th : Nat) (rest : List Nat),
       s.Issues i sp c → c.act = th :: rest → fwNative (c.x th w.c) = true →
         let n := 256 / c.t.decl.width
         let elem (i j : Nat) : Word := mmaElem (c.x th w.c) (if acc then c.t.tileElem w.d.toNat i j else 0)
           (c.fragment w.a.toNat) (c.fragment w.b.toNat) i j
         let tag : Bool := c.imageTag w.a.toNat n || c.imageTag w.b.toNat n || (acc && c.t.tileTag w.d.toNat)
         let t : Team := if acc then c.t
           else { c.t with emulated := c.t.emulated.filter (fun e => e.tile ≠ w.d.toNat) }
         let words := if acc then s.words
           else s.words.map (fun x => if x.team = c.tk && x.tile = some w.d.toNat then { x with tile := none } else x)
         exec i s = .next { c.teamPut (t.setTile w.d.toNat elem tag) [w.c] with nextId := s.nextId + 1, words := words }
     does (.mma w) true ∧ does (.mmaz w) false) ∧
  (∀ (w : RWord) (i : Instr) (a : BitVec 11),
     (i, a) ∈ [(.mma w, w.d), (.msta w, w.a), (.mrow w, w.a), (.mapply w, w.a), (.mapply w, w.d), (.mscale w, w.d),
       (.msts w, w.a), (.mlda w, w.d), (.mzero w, w.d), (.mlds w, w.d)] ∨ (w.m = 1 ∧ (i, a) = (.xmv w, w.d)) →
     ∀ (s : State) (sp : WordSpec) (c : Ctx), s.Stands i sp c → c.act ≠ [] → c.check sp = none →
       (∃ e ∈ c.t.emulated, e.tile = a.toNat) ∨ (∃ x ∈ s.words, x.team = c.tk ∧ x.tile = some a.toNat) →
       exec i s = .next (s.setTeam c.tk (c.t.mapBundle c.bi (fun b => { b with wait := .stalled })))) ∧
  (∀ w : RWord,
     let does (i : Instr) (acc : Bool) : Prop := ∀ (s : State) (sp : WordSpec) (c : Ctx) (th : Nat) (rest : List Nat),
       s.Issues i sp c → c.act = th :: rest → fwNative (c.x th w.c) = false →
         let n := 256 / c.t.decl.width
         let owed : Emulated := ⟨s.nextId, w.d.toNat, acc, c.x th w.c, c.fragment w.a.toNat, c.fragment w.b.toNat,
           c.imageTag w.a.toNat n || c.imageTag w.b.toNat n⟩
         exec i s = .next { c.teamPut { c.t with emulated := c.t.emulated ++ [owed] } [w.c] with
                            nextId := s.nextId + 1 }
     does (.mma w) true ∧ does (.mmaz w) false)

/-- The elements of MMA and MMAZ: an INT32 sum over all K modulo 2^32 or saturated, and an FP32 sum whose finite terms
are added exactly and rounded once, by RNE. NaN, infinite and invalid terms give the default NaN or an infinity. A
product is exact; a zero product of two integers is +0, as integers have no -0, and with one integer the signs decide,
which is the model's choice (log 76); two L6 codes, and two L4 codes, have their defined product (R49, R53, R58, R59).
-/
def Obligations.MatrixElements : Prop :=
  (∀ (fa fb x y : Nat) (s t : Bool) (m n : Nat) (e f : Int), ¬(fa = 4 ∧ fb = 4) → ¬(fa = 9 ∧ fb = 9) →
    matValue fa x = .fin s m e → matValue fb y = .fin t n f →
    ∃ u l g, matProduct fa fb x y = some (.fin u l g) ∧ ratOf u l g = ratOf s m e * ratOf t n f ∧
      (l = 0 → u = if (fa = 5 ∨ fa = 6 ∨ fa = 10) ∧ (fb = 5 ∨ fb = 6 ∨ fb = 10) then false else s != t)) ∧
  (∀ (x y : Nat), x < 64 → y < 64 →
    if x = 32 ∨ y = 32 then matProduct 4 4 x y = some (.nan false)
    else if x = 0 ∨ y = 0 then matProduct 4 4 x y = some (.fin false 0 0)
    else ∃ m e, matProduct 4 4 x y = some (.fin (decide (32 ≤ x) != decide (32 ≤ y)) m e) ∧
      ratOf false m e = (([0x1000000, 0x1306FE0, 0x16A09E6, 0x1AE89FA].getD ((x % 32 + y % 32) % 4) 0 : Nat) : ℚ) / 2 ^ 24 *
        (2 : ℚ) ^ ((((x % 32 + y % 32) / 4 : Nat) : Int) - 8)) ∧
  (∀ (x y : Nat), x < 16 → y < 16 →
    if x = 8 ∨ y = 8 then matProduct 9 9 x y = some (.nan false)
    else if x = 0 ∨ y = 0 then matProduct 9 9 x y = some (.fin false 0 0)
    else ∃ m e, matProduct 9 9 x y = some (.fin (decide (8 ≤ x) != decide (8 ≤ y)) m e) ∧
      ratOf false m e = (([0x1000000, 0x1306FE0, 0x16A09E6, 0x1AE89FA].getD ((x % 8 + y % 8) % 4) 0 : Nat) : ℚ) / 2 ^ 24 *
        (2 : ℚ) ^ ((((x % 8 + y % 8) / 4 : Nat) : Int) - 4)) ∧
  (∀ (fa fb x y : Nat), ¬(fa = 4 ∧ fb = 4) → ¬(fa = 9 ∧ fb = 9) →
    let a := matValue fa x
    let b := matValue fb y
    let zero (v : FVal) : Prop := ∃ s e, v = .fin s 0 e
    ((∃ q, a = .nan q ∨ b = .nan q) → ∃ q, matProduct fa fb x y = some (.nan q)) ∧
    (∀ s, (a = .inf s ∧ zero b) ∨ (zero a ∧ b = .inf s) → matProduct fa fb x y = none) ∧
    ∀ s t m e, m ≠ 0 → (a = .inf s ∧ (b = .inf t ∨ b = .fin t m e)) ∨ (a = .fin s m e ∧ b = .inf t) →
      matProduct fa fb x y = some (.inf (s != t))) ∧
  ∀ (x old : Word) (fa fb : List Byte) (i j : Nat),
    let ea (k : Nat) : Nat := fragElem fa (fwA x) i k
    let eb (k : Nat) : Nat := fragElem fb (fwB x) j k
    let ks := List.range (if fwA x = 0 ∨ fwA x = 1 then 16 else if fwA x = 11 then 8 else 32)
    (fwAcc x = 1 →
      let v := old.toInt + (ks.map (fun k => (matValue (fwA x) (ea k)).dy.n * (matValue (fwB x) (eb k)).dy.n)).sum
      mmaElem x old fa fb i j =
        BitVec.ofInt 32 (if fwSat x = 1 then max (-(2 ^ 31)) (min (2 ^ 31 - 1) v) else v)) ∧
    (fwAcc x = 0 →
      let start := Fmt.fp32.decode old.toNat
      let product (k : Nat) : Option FVal := matProduct (fwA x) (fwB x) (ea k) (eb k)
      let invalid : Prop := ∃ q, start = .nan q ∨ ∃ k ∈ ks, product k = none ∨ product k = some (.nan q)
      let infinite (s : Bool) : Prop := start = .inf s ∨ ∃ k ∈ ks, product k = some (.inf s)
      (invalid ∨ (infinite true ∧ infinite false) → mmaElem x old fa fb i j = 0x7FC00000) ∧
      (¬invalid → infinite false → ¬infinite true → mmaElem x old fa fb i j = 0x7F800000) ∧
      (¬invalid → infinite true → ¬infinite false → mmaElem x old fa fb i j = 0xFF800000)) ∧
    ∀ (s : Bool) (m : Nat) (e : Int) (ps : Nat → Bool) (pm : Nat → Nat) (pe : Nat → Int),
      fwAcc x = 0 → Fmt.fp32.decode old.toNat = .fin s m e →
      (∀ k ∈ ks, matProduct (fwA x) (fwB x) (ea k) (eb k) = some (.fin (ps k) (pm k) (pe k))) →
      let scale : Int := (fld x 17 10 : Int) - 128 + ((fld x 25 18 : Int) - 128)
      let v := ratOf s m e + 2 ^ scale * (ks.map (fun k => ratOf (ps k) (pm k) (pe k))).sum
      (v = 0 → mmaElem x old fa fb i j =
        if old = 0x80000000 ∧ ∀ k ∈ ks, ps k = true ∧ pm k = 0 then 0x80000000 else 0) ∧
      (v ≠ 0 → ∃ r, Rounds Fmt.fp32 .rne (v < 0) v r ∧ mmaElem x old fa fb i j =
        if fwSat x = 2 ∧ r.conds &&& Conds.oF ≠ 0 then (if v < 0 then 0xFF7FFFFF else 0x7F7FFFFF)
        else BitVec.ofNat 32 r.bits)

/-- Replacing a tile changes every element of that tile and its tag, and no other (R79, R220). MLDA, MZERO, MAPPLY and
MSCALE: what every element of the tile becomes (R222, R224). MSTA and MROW raise their flag and leave their register
writes in flight: in each active lane, that lane's part of the tile image, or the maximum or sum over the first ncol
columns of its rows (R142, R216, R222, R224). MLDS and MSTS copy the 4,096 bytes of scratch at the lowest active lane's
address in the group's program order: word 32 i + j of them is element (i, j). MLDS reads the group's own latest
accepted stores where they are not yet performed; MSTS is an accepted store of the group (R94, R222, R271). XMV leaves
one projection per active lane in flight, of the record at the lane's scratch address through the view register as it
stands; that of several plinths that hold the view the first serves it is the model's choice (log 97); the register
form counts on its flag, the tile form owes its tile (R99, R216, R225, R226). -/
def Obligations.TileWords : Prop :=
  (∀ (t : Team) (a b i j : Nat) (f : Nat → Nat → Word) (tag : Bool), i < 32 → j < 32 →
     (t.setTile a f tag).tileElem b i j = (if b = a then f i j else t.tileElem b i j) ∧
     (t.setTile a f tag).tileTag b = (if b = a then tag else t.tileTag b) ∧
     { t.setTile a f tag with tiles := t.tiles, tileTags := t.tileTags } = t) ∧
  (∀ w : RWord,
     let n (c : Ctx) : Nat := 1024 / c.t.decl.width
     let rows (c : Ctx) : Nat := if c.t.decl.width = 16 then 2 else 1
     let mul (a r : Word) : Word := BitVec.ofNat 32 (Fmt.fp32.fmul .rne a.toNat r.toNat).bits
     DoesWhere (.mlda w) (fun c => c.act ≠ []) (fun c => c.teamPut (c.t.setTile w.d.toNat
       (fun i j => c.imageWord w.a.toNat (32 * i + j)) (c.imageTag w.a.toNat (n c))) []) ∧
     DoesWhere (.mzero w) (fun c => c.act ≠ []) (fun c =>
       c.teamPut (c.t.setTile w.d.toNat (fun _ _ => 0) false) []) ∧
     DoesWhere (.mapply w) (fun c => c.act ≠ []) (fun c => c.teamPut (c.t.setTile w.d.toNat
       (fun i j =>
         let a := c.t.tileElem w.a.toNat i j
         let r := c.imageWord w.b.toNat i
         let x := if w.m = 0 ∨ w.m = 1 then Fmt.fp32.fsub .rne a.toNat r.toNat else Fmt.fp32.fadd .rne a.toNat r.toNat
         if w.c.toNat ≤ j then 0 else if w.m = 0 then BitVec.ofNat 32 (fexp2 (BitVec.ofNat 32 x.bits)).bits
         else BitVec.ofNat 32 x.bits)
       (c.t.tileTag w.a.toNat || c.imageTag w.b.toNat (rows c))) []) ∧
     (w.m ≠ 1 → DoesWhere (.mscale w) (fun c => c.act ≠ []) (fun c => c.teamPut (c.t.setTile w.d.toNat
       (fun i j => mul (c.t.tileElem w.d.toNat i j) (c.imageWord w.b.toNat i))
       (c.t.tileTag w.d.toNat || c.imageTag w.b.toNat (rows c))) [])) ∧
     (w.m = 1 → DoesWhere (.mscale w) (fun c => c.act ≠ []) (fun c => c.teamPut (c.t.setTile w.d.toNat
       (fun i j => mul (c.t.tileElem w.d.toNat i j) (c.x (c.act.headD 0) w.b))
       (c.t.tileTag w.d.toNat || c.tg (c.act.headD 0) w.b)) [w.b]))) ∧
  (∀ w : RWord,
     let later (n : Ctx → Nat) (f : Ctx → Nat → Word) (c : Ctx) : State :=
       let writes := c.act.flatMap (fun th => (upFrom 0 (n c)).map (fun r =>
         ({ thread := th, reg := w.d.toNat + r, value := f c (r * c.t.decl.width + c.t.laneOf th),
            tag := c.t.tileTag w.a.toNat } : RegWrite)))
       (c.s.setTeam c.tk (c.counted w.f [])).addWord { c.newWord w.f with writes := writes, awaited := true }
     DoesWhere (.msta w) (fun c => c.act ≠ [])
       (later (fun c => 1024 / c.t.decl.width) (fun c i => c.t.tileElem w.a.toNat (i / 32) (i % 32))) ∧
     DoesWhere (.mrow w) (fun c => c.act ≠ [])
       (later (fun c => if c.t.decl.width = 16 then 2 else 1) (fun c i =>
         let op (x y : Nat) : Nat :=
           if w.m = 1 then (Fmt.fp32.fadd .rne x y).bits else (Fmt.fp32.fminmax true x y).bits
         BitVec.ofNat 32 ((treeNode op (fun j => if j < w.c.toNat then some (c.t.tileElem w.a.toNat (i % 32) j).toNat
           else none) 5 0).getD 0)))) ∧
  (∀ w : RWord,
     (DoesWhere (.mlds w) (fun c => c.act ≠ []) (fun c =>
       let a := (c.x (c.act.headD 0) w.a).toNat
       let s := c.s.settleScratch c.tk (c.t.threadsOf c.group)
       s.mapTeam c.tk (fun t =>
         c.finish (c.pop (t.setTile w.d.toNat
           (fun i j => BitVec.ofNat 32 (ofBytesLE (s.groupScratch c.tk t c.group (upFrom (a + 4 * (32 * i + j)) 4))))
           false) [w.a.toNat]) 1))) ∧
     (∀ (s : State) (k : Nat) (t : Team) (g a : Nat),
       let mine := s.stores.filter (fun st =>
         st.team = k && st.place.scratch && t.groupOf st.thread = g && st.place.bytes.contains a)
       ∃ x, s.groupScratch k t g [a] = [x] ∧ (mine = [] → x = t.scratch.read a) ∧
         ∀ (st : Store) (n : Nat), mine.getLast? = some st → st.place.bytes.Nodup → st.data.length = st.place.bytes.length →
           st.place.bytes[n]? = some a → st.data[n]? = some x) ∧
     DoesWhere (.msts w) (fun c => c.act ≠ []) (fun c =>
       let a := (c.x (c.act.headD 0) w.b).toNat
       let s := c.s.settleScratch c.tk (c.t.threadsOf c.group)
       let s := s.mapTeam c.tk (fun t => c.finish (c.pop (t.raiseFlag c.groups (c.flag w.f)) [w.b.toNat]) 1)
       let st : Store :=
         { id := s.nextId + 1, word := s.nextId, team := c.tk, thread := c.act.headD 0, clause := c.b.pc,
           widx := c.b.widx, va := BitVec.ofNat 64 a, place := { scratch := true, bytes := upFrom a 4096 },
           tile := some c.group,
           data := (upFrom 0 1024).flatMap (fun k => bytesLE 4 (c.t.tileElem w.a.toNat (k / 32) (k % 32)).toNat) }
       { s.addWord { c.newWord w.f with id := s.nextId, awaited := true } with stores := s.stores ++ [st], nextId := s.nextId + 2 })) ∧
  (∀ w : RWord,
     DoesWhere (.xmv w) (fun c => c.act ≠ []) (fun c =>
       let tile : Bool := w.m = 1
       let s := c.s.settleScratch c.tk (c.t.threadsOf c.group)
       let t := (s.team c.tk).getD c.t
       let projs := c.act.map (fun th =>
         let v := c.view th w.b.toNat
         let n := min (vOutlen v.image - w.c.toNat) (if tile || vOutfmt v.image = 0 then 32 else 16)
         let mine := (upFrom (corePart (c.coreOf th) * 8) 8).filter (s.placed v.image t.vi)
         let digital := mine.headD (corePart (c.coreOf th) * 8)
         ({ thread := th, view := v, viewReg := w.b.toNat,
            plinth := (mine.find? (fun p => boundedMode v.image && s.resident p v)).getD digital,
            digital := some digital, places := [],
            record := s.groupScratch c.tk t c.group (upFrom (c.x th w.a).toNat (recordBytes v.image)),
            cstart := w.c.toNat, count := n, reg := if tile then none else some w.d.toNat,
            tile := if tile then some w.d.toNat else none } : Proj))
       let t := if tile then t else t.raiseFlag c.groups (c.flag w.f)
       (s.setTeam c.tk (c.finish (c.pop t [w.a.toNat]) 1)).addWord
         { c.newWord w.f with id := s.nextId, projs := projs, awaited := true,
                              flag := if tile then none else c.flag w.f, tile := if tile then some w.d.toNat else none }))

/-! ### Memory words -/

/-- LD and LDL6: the flag rises and one word in flight holds, for every part of every active lane, where it reads and
the registers it fills; an acquire or a relaxed atomic load takes its value now, and an acquire then drops the copies
its scope asks for (R142, R228, R230, R273). ST, STB and STL6: the flag rises and every part of every active lane is
accepted as a store; a release store lets the lanes' earlier accesses complete first; a group that reaches a chained
page counts it on c3 (R144, R229, R230, R274). What the acquire part and the release part of a scope do. An acquire
wider than .team drops every L1 copy of the team's cores, at .sys the clean T1 lines of the die's slices too, and
changes no memory. A release commits the accepted stores of its threads: one that nothing keeps back is performed; at
.sys no T1 line stays dirty (R253, R273 to R275, R285). The address of a global access is the pair plus OFFSET times
the access size, modulo 2^64; a scratch address is the source plus it. The register form of six-bit elements takes
twelve bytes (R93, R227, R230). The bytes that a store holds are those of its data, least significant first; the bytes
of sixteen six-bit elements are the elements six bits apart, and loading them gives the register form back (R229,
R230). -/
def Obligations.LoadsAndStores : Prop :=
  (∀ m : MWord,
     let does (i : Instr) (l6 : Bool) : Prop := DoesWhere i (fun c => c.act ≠ []) (fun c =>
       let r := c.mReach m l6 .load
       let word : CWord := { c.newWord m.f with
         size := if l6 then 12 else 2 ^ m.size.toNat, signed := m.sx, l6 := l6, hint := m.hint.toNat,
         lanes := r.parts.map (fun x =>
           { thread := x.1, off := x.2.1, place := x.2.2, va := c.mVa m l6 x.1,
             regs := c.regsOf m.d.toNat (if l6 || m.size = 4 then 4 else if m.size = 3 then 2 else 1) x.1 : Lane }) }
       let s := (c.moveCounted r.s m.f [m.a]).addWord word
       let now : Bool := m.m = 1 || (m.m = 2 && m.space = 0 && 2 ≤ m.xf.toNat)
       let s := if now then word.lanes.foldl (fun s l => s.takeNow word.id l (m.m = 2)) s else s
       if m.m = 1 then c.groups.foldl (fun s g => s.acquire c.t g m.xf.toNat) s else s)
     does (.ld m) false ∧ does (.ldl6 m) true) ∧
  (∀ m : MWord,
     let does (i : Instr) (l6 : Bool) : Prop := DoesWhere i (fun c => c.act ≠ []) (fun c =>
       let r := c.mReach m l6 .store
       let gs := c.chainedGroups r
       let ops := c.chainedOps gs (c.s.nextId + 1)
       let sts := c.storeParts m l6 r ops (c.s.nextId + 1 + ops.length)
       let s := if m.m = 1 then r.s.release c.tk c.act m.xf.toNat else r.s
       let s := (c.moveChained s m.f gs [m.d, m.a]).addWord (c.newWord m.f)
       { s with ops := s.ops ++ ops, stores := s.stores ++ sts, nextId := s.nextId + ops.length + sts.length })
     does (.st m) false ∧ does (.stb m) false ∧ does (.stl6 m) true ∧
     ∀ (c : Ctx) (t : Team) (gs : List Nat) (i : Nat), c.b.counted = [] →
       c.raiseFor t gs i = gs.foldl (fun t g => t.raiseCounter g i) t) ∧
  ((∀ (s : State) (t : Team) (g scope : Nat),
     let u := s.acquire t g scope
     (∀ k, u.core k = { s.core k with l1 := if 2 ≤ scope ∧ k ∈ t.coreList then [] else (s.core k).l1 }) ∧
     u.l2 = (if scope = 5 then s.l2.filter (fun l =>
       l.dirty || !isT1 (l.line * 128) || l.slice / 32 ≠ coreDie (t.coreOf g)) else s.l2) ∧
     u.mem = s.mem ∧ u.pool = s.pool ∧ u.teams = s.teams ∧ u.stores = s.stores ∧ u.words = s.words ∧ u.ops = s.ops) ∧
   (∀ (s : State) (tk scope : Nat) (threads : List Nat) (t : Team) (st : Store), s.team tk = some t → s.words = [] →
     s.stores = [st] → st.team = tk → st.thread ∈ threads → st.tile = none → st.rmw = none → st.stranded = none →
     st.place.chain = none → s.gateOpen t.vi st.place = true → t.heldStore st = false →
     s.release tk threads scope = (if scope = 5 then (s.perform t st).flushT1 else s.perform t st)) ∧
   (∀ (s : State) (tk scope : Nat) (threads : List Nat), s.words = [] → (∀ st, st ∈ s.stores → st.team ≠ tk) →
     s.release tk threads scope = if scope = 5 then s.flushT1 else s) ∧
   ∀ (s : State) (tk : Nat) (threads : List Nat) (l : L2Line), l ∈ (s.release tk threads 5).l2 → l.dirty = true →
     isT1 (l.line * 128) = false) ∧
  (∀ (c : Ctx) (m : MWord) (l6 : Bool) (th : Nat),
     let unit : Int := if l6 then 12 else 2 ^ m.size.toNat
     ((c.mAddr m l6 th : Nat) : Int) = ((c.pr th m.a).toNat + m.offset.toInt * unit) % 2 ^ 64 ∧
     c.mSum m l6 th = (c.x th m.a).toNat + m.offset.toInt * unit ∧
     (∀ a n, (a, n) ∈ mParts m l6 (c.mAddr m l6 th) → c.mAddr m l6 th ≤ a ∧ a + n ≤ c.mAddr m l6 th + unit.toNat)) ∧
  (∀ (c : Ctx) (m : MWord) (th : Nat),
     (m.size.toNat ≤ 2 → c.storeData m false th = (c.x th m.d).toNat % 2 ^ (8 * 2 ^ m.size.toNat)) ∧
     (m.size = 3 → c.storeData m false th = (c.pr th m.d).toNat) ∧
     (m.size = 4 → ∀ i, i < 4 → c.storeData m false th / 2 ^ (32 * i) % 2 ^ 32 = (c.val th (m.d.toNat + i)).toNat) ∧
     (∀ k, k < 16 → c.storeData m true th / 2 ^ (6 * k) % 64 =
       l6Code ((c.val th (m.d.toNat + k / 4)).toNat / 2 ^ (8 * (k % 4)) % 256)) ∧
     (∀ x k r, k < 4 → r < 4 → ((unpackL6 x).getD r 0).toNat / 2 ^ (8 * k) % 256 = x / 2 ^ (6 * (4 * r + k)) % 64))

/-- ATOM, RED and CAS: every lane's step in home-lane order, after the release and before the acquire of its order; a
lane's step reads the old value and writes the new one at once. A lane on a chained page is accepted, and its step is
made at the head of its flight (R116, R231, R232, R273, R274). The new value of every atomic operation, at 32 and at 64
bits, and the FP32 ones (R232). -/
def Obligations.Atomics : Prop :=
  (∀ w : RWord,
     let k := w.atomCtl
     let does (i : Instr) (red cas : Bool) (new : Ctx → Nat → Nat → Option Nat) : Prop :=
       ∀ (s : State) (sp : WordSpec) (c : Ctx), s.Issues i sp c → c.act ≠ [] →
         let r := c.aReach w
         let gs := c.chainedGroups r
         let ops := c.chainedOps gs (s.nextId + 1)
         let lanes : List Lane := r.parts.map (fun x =>
           { thread := x.1, place := x.2.2, va := if k.scr then (c.x x.1 w.a).setWidth 64 else c.pr x.1 w.a,
             rmw := x.2.2.chain.isSome, regs := if red then [] else c.regsOf w.d.toNat (if k.w64 then 2 else 1) x.1 })
         let word : CWord := { c.newWord w.f with size := if k.w64 then 8 else 4, lanes := lanes }
         let accepted : List Store := (lanes.filter (fun l => l.rmw)).zipIdx.map (fun x =>
           { id := s.nextId + 1 + ops.length + x.2, word := s.nextId, op := opOf ops (c.t.groupOf x.1.thread),
             team := c.tk, thread := x.1.thread, clause := c.b.pc, widx := c.b.widx, va := x.1.va, place := x.1.place,
             data := [],
             rmw := some { aop := if cas then 15 else k.aop, operand := c.aVal k.w64 x.1.thread w.b,
                           compare := if cas then c.aVal k.w64 x.1.thread w.d else 0,
                           acquire := if k.ord % 2 = 1 then some k.scope else none } })
         let u := if 2 ≤ k.ord then r.s.release c.tk c.act k.scope else r.s
         let u := (c.moveChained u w.f gs [w.d, w.a, w.b]).addWord word
         let u : State := { u with ops := u.ops ++ ops, stores := u.stores ++ accepted,
                                   nextId := u.nextId + ops.length + accepted.length }
         ∃ v, (lanes.filter (fun l => !l.rmw)).foldl (fun (acc : Option State) l => acc.bind (fun u =>
             u.atomicLane word.id 0 l (new c l.thread))) (some u) = some v ∧
           exec i s = .next (if k.ord % 2 = 1 then c.groups.foldl (fun u g => u.acquire c.t g k.scope) v else v)
     does (.atom w) false false (fun c th old => some (atomNew k.aop (if k.w64 then 64 else 32) old (c.aVal k.w64 th w.b))) ∧
     does (.red w) true false (fun c th old => some (atomNew k.aop (if k.w64 then 64 else 32) old (c.aVal k.w64 th w.b))) ∧
     does (.cas w) false true (fun c th old => if old = c.aVal k.w64 th w.d then some (c.aVal k.w64 th w.b) else none)) ∧
  (∀ (n : Nat) (a b : BitVec n), n = 32 ∨ n = 64 →
     let new (k : Nat) : BitVec n := BitVec.ofNat n (atomNew k n a.toNat b.toNat)
     new 0 = a + b ∧ new 1 = a - b ∧
     (new 2).toInt = min a.toInt b.toInt ∧ (new 3).toInt = max a.toInt b.toInt ∧
     (new 4).toNat = min a.toNat b.toNat ∧ (new 5).toNat = max a.toNat b.toNat ∧
     new 6 = a &&& b ∧ new 7 = a ||| b ∧ new 8 = a ^^^ b ∧ new 9 = b ∧
     (new 10).toNat = (if b.toNat ≤ a.toNat then 0 else a.toNat + 1) ∧
     (new 11).toNat = (if a.toNat = 0 ∨ b.toNat < a.toNat then b.toNat else a.toNat - 1) ∧
     (n = 32 → new 12 = BitVec.ofNat n (Fmt.fp32.fadd .rne a.toNat b.toNat).bits ∧
       new 13 = BitVec.ofNat n (Fmt.fp32.fminmax false a.toNat b.toNat).bits ∧
       new 14 = BitVec.ofNat n (Fmt.fp32.fminmax true a.toNat b.toNat).bits))

/-- An atomic step at bytes of memory: the old value is what the slices hold, the new bytes stand there after it, every
other byte is kept, and the issuing team's cores keep no copy (R232, R272). -/
def Obligations.AtomicStep : Prop :=
  ∀ (s : State) (t : Team) (tk thread id op : Nat) (p : Place) (f : Nat → Option Nat),
    p.scratch = false → p.chain = none → p.bytes.Nodup →
    ∃ u, s.atomicAt t tk thread id op p f = some (ofBytesLE (p.bytes.map s.byte), u) ∧
      (∀ a, a ∉ p.bytes → s.Keeps u a) ∧
      (f (ofBytesLE (p.bytes.map s.byte)) = none → ∀ a, s.Keeps u a) ∧
      (∀ x, f (ofBytesLE (p.bytes.map s.byte)) = some x →
        p.bytes.map u.byte = bytesLE p.bytes.length x) ∧
      (∀ core, core ∈ t.coreList → ∀ a, a ∈ p.bytes → ∀ l, l ∈ (u.core core).l1 → l.line ≠ lineOf a)

/-- Caching, writing back, dropping and writing at the slices: a write-back changes no byte; a dropped line is written
back where it is dirty, and a clean T1 line gives way to the pool; a line that enters a full set of its slice takes the
place of one line of that set, and changes no other byte; a write changes exactly its bytes (R90, R95, R96, R97). An
accepted store to plain memory that meets no error leaves the queue and writes its bytes, every other byte is kept; a
partial store to a poisoned line, or to a line of which a core of its team holds a copy with an error (log 100; ADDR,
the physical line, is the model's choice, log 101), changes no byte and is reported, the stores of one word that cover
the line clear it. A store to scratch changes its team's scratch alone, with the same rule for a line with an error
(R103, R229, R268, R303). -/
def Obligations.StoresPerformed : Prop :=
  (∀ (s : State) (line home hint : Nat) (dirty : Bool) (ps : List (Nat × Byte)) (a : Nat),
     let cached : Bool := s.l2.any (fun l => l.line = line)
     (s.writeBack line).byte a = s.byte a ∧
     (s.dropL2 line).byte a =
       (if lineOf a = line ∧ isT1 a = true ∧ ¬ ∃ l ∈ s.l2, l.line = line ∧ l.dirty = true then s.pool.read (a - t1Base)
        else s.byte a) ∧
     (cached = true ∨ s.victimL2 (s.sliceOf home line) line = none → (s.cacheLine line home hint dirty).byte a = s.byte a) ∧
     (∀ v, cached = false → s.victimL2 (s.sliceOf home line) line = some v →
       (∃ l ∈ s.l2, l.line = v ∧ l.slice = s.sliceOf home line) ∧
       (s.cacheLine line home hint dirty).byte a = (s.dropL2 v).byte a) ∧
     (∃ l ∈ (s.cacheLine line home hint dirty).l2, l.line = line ∧ (dirty = true → l.dirty = true)) ∧
     ((∀ p, p ∈ ps → p.1 ≠ a) → s.Keeps (s.pokeBytes home hint ps) a) ∧
     (∀ b, (a, b) ∈ ps → (ps.map Prod.fst).Nodup → (s.pokeBytes home hint ps).byte a = b)) ∧
  (∀ (s : State) (t : Team) (st : Store), st.place.chain = none → st.place.bytes.Nodup → st.rmw = none →
     st.data.length = st.place.bytes.length →
     let as := st.place.bytes
     let first := lineOf (as.headD 0)
     let others (b : Nat) : Prop := ∃ x ∈ s.stores, x.word = st.word ∧ x.id ≠ st.id ∧
       x.place.scratch = st.place.scratch ∧ (st.place.scratch = false → x.place.chain = none) ∧ b ∈ x.place.bytes
     let reported (a : Nat) : State := ({ s with stores := s.stores.filter (fun x => x.id ≠ st.id) }).report st.team
       (t.groupOf st.thread) (asyncInfo 0x30 (t.mask [st.thread]) (lineOf a * 128) 0 st.clause st.widx)
     let written : Prop := (∀ a, a ∉ as → s.Keeps (s.perform t st) a) ∧ as.map (s.perform t st).byte = st.data
     (st.place.scratch = false →
       let copies (b : Nat) : Prop := ∃ k ∈ t.coreList, ∃ l ∈ (s.core k).l1, l.bad = true ∧ l.line = b
       (s.poisoned as = false → (∀ a, a ∈ as → ¬ copies (lineOf a)) → written) ∧
       (s.poisoned as = false → (∃ a ∈ as, copies (lineOf a) ∧ ∃ b, lineOf b = lineOf a ∧ b ∉ as) →
         (∃ b, lineOf b = first ∧ b ∉ as ∧ ¬ others b) → ∃ a, copies (lineOf a) ∧ s.perform t st = reported a) ∧
       (s.poisoned as = true → (∃ b, lineOf b = first ∧ b ∉ as ∧ ¬ others b) →
         s.perform t st = reported ((as.find? (fun a => s.poison.contains (lineOf a))).getD 0)) ∧
       (s.poisoned as = true → (∀ a, a ∈ as → lineOf a = first) →
         (∀ b, lineOf b = first → b ∈ as ∨ others b) → written ∧ first ∉ (s.perform t st).poison)) ∧
     (st.place.scratch = true → st.tile = none → s.team st.team = some t →
       ((∀ a, a ∈ as → lineOf a ∉ t.badScratch) ∨
         ((∀ a, a ∈ as → lineOf a = first) ∧ ∀ b, lineOf b = first → b ∈ as ∨ others b) →
         (s.perform t st).mem = s.mem ∧ (s.perform t st).pool = s.pool ∧
         ∃ u, (s.perform t st).team st.team = some u ∧ as.map u.scratch.read = st.data ∧
           (∀ a, a ∉ as → u.scratch.read a = t.scratch.read a) ∧
           ∀ l, l ∈ u.badScratch ↔ l ∈ t.badScratch ∧ ∀ a, a ∈ as → lineOf a ≠ l) ∧
       (∀ a, as.find? (fun a => t.badScratch.contains (lineOf a)) = some a →
         (∃ b, lineOf b = first ∧ b ∉ as ∧ ¬ others b) → s.perform t st = reported a)) ∧
     (∀ x, x ∈ (s.perform t st).stores → x.id ≠ st.id))

/-- LDV and LDVA: one projection per active lane, of the record at its address, sent to the plinth that serves the
view, pinned until it has been read; LDVA counts one operation per group on c1 and owes the rows in scratch (R99, R123,
R235 to R237). VINV sends one marking per group to the plinths of the placement; VSTAT reads GEN, or the valid,
resident and programming bits with CSTART (R241, R242). -/
def Obligations.ViewWords : Prop :=
  (∀ (m : MWord) (w : RWord),
     let projs (c : Ctx) (r : Reached) (n : Nat) (reg : Option Nat) (row : Option (BitVec 11)) : List Proj :=
       r.ok.map (fun x =>
         let v := c.view x.1 n
         { thread := x.1, view := v, viewReg := n, plinth := r.s.servingPlinth v.image c.t.vi (r.s.firstPlinth x.2),
           places := x.2, pins := (r.s.recordLines x.2).map (fun l => pinId c.t.vi (l * 128)), cstart := v.cstart,
           count := if row.isSome then vOutlen v.image - v.cstart
             else min (vOutlen v.image - v.cstart) (if vOutfmt v.image = 0 then 32 else 16),
           reg := reg, row := row.map (fun f => (c.x x.1 f).toNat) })
     DoesWhere (.ldv m) (fun c => c.act ≠ []) (fun c =>
       let r := c.viewReach m.a m.xf.toNat none
       let ps := projs c r m.xf.toNat (some m.d.toNat) none
       (c.moveCounted (r.s.pin (ps.flatMap (·.pins))) m.f []).addWord
         { c.newWord m.f with hint := m.hint.toNat, projs := ps }) ∧
     DoesWhere (.ldva w) (fun c => c.act ≠ []) (fun c =>
       let r := c.viewReach w.a w.b.toNat (some w.c)
       let ps := projs c r w.b.toNat none (some w.c)
       let ops : List Op := c.groups.zipIdx.map (fun x =>
         let mine := ps.filter (fun p => c.t.groupOf p.thread = x.1)
         { id := r.s.nextId + x.2, team := c.tk, group := x.1, cls := 1, clause := c.b.pc, widx := c.b.widx,
           hint := w.m.toNat,
           kind := .view mine (mine.map (fun p =>
             { thread := p.thread, reg := w.d.toNat,
               value := BitVec.ofNat 32 ((if vOutfmt p.view.image = 0 then 2 else 4) *
                 (vOutlen p.view.image - p.view.cstart)) : RegWrite })) })
       let s := (r.s.pin (ps.flatMap (·.pins))).mapTeam c.tk (fun t =>
         c.finish (c.pop (c.raiseFor t c.groups 1) [w.a.toNat, w.c.toNat]) 1)
       { s with ops := s.ops ++ ops, nextId := s.nextId + ops.length })) ∧
  (∀ w : RWord,
     DoesWhere (.vinv w) (fun c => c.act ≠ []) (fun c => (c.moveCounted c.s w.f []).addWord { c.newWord w.f with
       markings := c.groups.map (fun g =>
         let v := c.view (c.leader g) w.b.toNat
         ({ plinths := c.s.placement v.image c.t.vi, desc := BitVec.ofNat 64 (vDesc v.image), keep := none,
            arrays := w.m = 1, matva := BitVec.ofNat 64 (vMatva v.image), bytes := matrixSize v.image } : Marking)) }) ∧
     Does (.vstat w) (fun c => c.put w.d [] (fun th =>
       let v := c.view th w.b.toNat
       let plinths := upFrom (corePart (c.coreOf th) * 8) 8
       let programming := plinths.any (fun p => (arrayKeys p).any (fun k =>
         (c.s.array k).ast = 1 && (c.s.array k).desc.toNat = vDesc v.image))
       let resident := plinths.any (fun p => c.s.placed v.image c.t.vi p && v.valid && c.s.resident p v)
       if w.m = 1 then wordRes v.gen
       else intRes (v.cstart * 256 + (if programming then 4 else 0) + (if resident then 2 else 0) +
         (if v.valid then 1 else 0)))))

/-- VSET takes the groups with an active lane one after another, by the home lane of their lowest active lanes. Each
captures the 64 bytes that memory holds at that lane's address, its own uncommitted stores included, once the
descriptor and the pages of its matrix pass their checks, or holds an asynchronous fault where a gate is closed or a
line is poisoned. The view register takes these bytes with the descriptor's address in the place of bytes 56 to 63, GEN
as read, and CSTART with VALID; the word acquires at .ten (R233, R234, R303). -/
def Obligations.ViewCapture : Prop :=
  ∀ (w : RWord) (s : State) (sp : WordSpec) (c : Ctx), s.Issues (.vset w) sp c →
    let lanes := sortByKey c.t.laneOf (c.groups.map c.leader)
    ∃ (st : Nat → State) (res : Nat → Except TrapInfo (BitVec 512)), st 0 = s ∧
      (∀ k, k < lanes.length →
        let th := lanes.getD k 0
        let a := (c.pr th w.a).toNat
        let die := coreDie (c.coreOf th)
        let v := (st k).touchPage c.t.ctx c.t.vi a
        c.vsetLane (st k) w th = (st (k + 1), .ok (res k)) ∧
        ∃ pa x r p, a % 64 = 0 ∧ v.checkPage c.t.ctx c.t.vi die .load a = .page pa x r ∧
          (pteClass (v.pte pa) ≠ 1 → p.chain = none ∧ p.scratch = false ∧
            p.bytes = upFrom (frameBase (pteTier (v.pte pa)) (pteHome (v.pte pa)) (pteLoc (v.pte pa)) + a % 65536) 64) ∧
          (pteClass (v.pte pa) = 1 → p.chain = some (pteFlight (v.pte pa), pteLoc (v.pte pa)) ∧ p.scratch = false ∧
            p.write = false ∧ p.asker = die ∧ p.bytes = upFrom (a % 65536) 64) ∧
          match res k with
          | .error i => i.async = true ∧ i.origin = some (c.b.pc, c.b.widx) ∧ i.mask = c.t.mask [th] ∧
              (i.cause = 0x16 ∧ v.gateOpen c.t.vi p = false ∧ i.addr = BitVec.ofNat 64 a ∨
                i.cause = 0x30 ∧ v.gateOpen c.t.vi p = true ∧ ∃ y, v.spoiltAt c.t p = some y ∧ i.addr = BitVec.ofNat 64 y)
          | .ok img =>
            let u := v.settlePlace c.tk th v.nextId p
            v.gateOpen c.t.vi p = true ∧ v.spoiltAt c.t p = none ∧
            (∀ i, i < 64 →
              let b := p.bytes.getD i 0
              img.extractLsb' (8 * i) 8 = match u.forwarded c.tk th u.nextId p b with
                | some x => x
                | none => if p.chain = none then u.byte b else u.pointByte c.t p b) ∧
            viewOk img = true ∧ fld w.c 7 0 < vOutlen img ∧
            ∃ q, u.reachParts c.t.ctx c.t.vi die .load (pageParts (vMatva img)
              (vOutlen img * packedBytes (vMatfmt img) (vInlen img))) = .ok (q, st (k + 1))) ∧
      exec (.vset w) s = .next (c.moveOn ((c.groups.foldl (fun u g => u.acquire c.t g 3))
        ((List.range lanes.length).foldl (fun u k =>
          let g := c.t.groupOf (lanes.getD k 0)
          match res k with
          | .error i => u.report c.tk g i
          | .ok img =>
            let v : View := ⟨c.pr (c.leader g) w.a ++ img.setWidth 448, BitVec.ofNat 32 (vGen img),
              BitVec.ofNat 32 (fld w.c 7 0 * 256 + 1)⟩
            u.mapTeam c.tk (fun t => t.mapGroup g (fun x =>
              { x with views := Sparse.put x.views {} w.b.toNat v, bad := x.bad.filter (· ≠ w.b.toNat + 2048) })))
          (st lanes.length))))

/-- VPUB releases at .dev, adds one to GEN of every group's descriptor in one indivisible step, gives the active lanes
the new GEN, and sends its markings to the plinths of the placement (R240). -/
def Obligations.ViewPublication : Prop :=
  ∀ (w : RWord) (s : State) (sp : WordSpec) (c : Ctx), s.Issues (.vpub w) sp c → c.act ≠ [] →
    let r := c.genReach w.b.toNat
    let word : CWord := { c.newWord w.f with
      lanes := r.parts.map (fun x => { thread := x.1, place := x.2.2, regs := [],
                                       va := BitVec.ofNat 64 (vDesc (c.view x.1 w.b.toNat).image + 24) : Lane }) }
    let u := (c.moveCounted (r.s.release c.tk (c.t.threadsOfAll c.groups) 4) w.f []).addWord word
    ∃ v, word.lanes.foldl (fun (acc : Option State) l => acc.bind (fun u =>
        u.atomicLane word.id 0 l (fun old => some ((old + 1) % 2 ^ 32)))) (some u) = some v ∧
      let gens : List (Nat × Word) := match v.word word.id with
        | some x => x.lanes.filterMap (fun (l : Lane) => l.taken.map (fun old =>
            (c.t.groupOf l.thread, BitVec.ofNat 32 (old + 1))))
        | none => []
      let marks := gens.map (fun y =>
        let x := c.view (c.leader y.1) w.b.toNat
        ({ plinths := v.placement x.image c.t.vi, desc := BitVec.ofNat 64 (vDesc x.image), keep := some y.2,
           arrays := true, matva := BitVec.ofNat 64 (vMatva x.image), bytes := matrixSize x.image } : Marking))
      let v := match v.word word.id with
        | some x => v.setWord { x with markings := marks }
        | none => v
      exec (.vpub w) s = .next (v.mapTeam c.tk (fun t =>
        { c with act := c.act.filter (fun th => gens.any (fun y => y.1 = c.t.groupOf th)) }.write t w.d.toNat
          (fun th => wordRes (genOf gens (c.t.groupOf th)))))

/-- PREF brings lines in lane by lane; CFLUSH writes the lines back, or drops them with .inv, after the thread's own
stores to them; CINV drops the core's copies of a line, or of every line. What PREF of a plain page brings in, and what
CINV leaves of the L1s; that PREF maps a demand page is the model's reading (log 29) (R243 to R245). WMASK gives the
team the scratch size its lowest active lane asks for where every core of the team has room, else leaves it, and D
takes the size; before units are returned every scratch access of the team is performed; returned and added units read
zero on each core of the team, the odd core's at 2^20 and above, and the other bytes stay (R92, R94, R246). MONW arms
the lanes' monitors on their lines and reads the words at once. WAITM ends when every lane's monitor has seen a write
or is disarmed, or its bound has passed, with the statuses 0, 2 and 1; else it begins its wait: a lane without a
monitor has its 2 at once, the others count writes up to the bound, which stands from the issue on; a halt can put the
bound of a waiting lane's monitor off. Arming: the monitor stands on the line with no write recorded, and its core
tracks the line, 256 at most (R247, R248, R308). -/
def Obligations.CacheAndMonitorWords : Prop :=
  (∀ w : RWord,
     Does (.pref w) (fun c => c.moveOn (c.act.foldl (fun s th =>
       c.prefetch s th (c.pr th w.a).toNat (fld w.c 1 0) (w.c.getLsbD 2)) c.s)) ∧
     DoesWhere (.cflush w) (fun c => c.act ≠ []) (fun c =>
       let r := c.flushReach w
       let closed := r.parts.filter (fun x => !c.s.gateOpen c.t.vi x.2.2)
       let s := (c.moveCounted r.s w.f []).addWord { c.newWord w.f with
         lanes := closed.map (fun x => { thread := x.1, place := x.2.2, va := c.pr x.1 w.a, regs := [] : Lane }) }
       (r.parts.filter (fun x => c.s.gateOpen c.t.vi x.2.2)).foldl (fun s x =>
         let s := ((s.stores.filter (fun st => s.isOwn c.tk x.1 st && st.id < c.s.nextId && st.stranded.isNone &&
           st.place.overlaps x.2.2)).map (·.id)).foldl (if c.t.inHandler then State.pushStore else State.commit) s
         (s.linesOf x.2.2).foldl (fun s l => if w.m = 1 then (s.dropL2 l).dropAllL1 l else s.writeBack l) s) s) ∧
     (w.m = 1 → DoesWhere (.cinv w) (fun c => c.act ≠ []) (fun c =>
       c.moveOn (c.t.coreList.foldl State.clearL1 c.s))) ∧
     (w.m ≠ 1 → DoesWhere (.cinv w) (fun c => c.act ≠ []) (fun c =>
       c.moveOn (c.act.foldl (fun s th => c.cinvLine s th (c.pr th w.a).toNat) c.s))) ∧
     (∀ (s : State) (k j : Nat), (s.clearL1 k).core j = { s.core j with l1 := if j = k then [] else (s.core j).l1 }) ∧
     (∀ (c : Ctx) (s : State) (th a j : Nat),
       let k := c.coreOf th
       let kept (line : Nat) : Prop := (c.cinvLine s th a).core j =
         { s.core j with l1 := if j = k then (s.core j).l1.filter (fun l => l.line ≠ line) else (s.core j).l1 }
       (2 ^ 57 ≤ a ∨ s.leaf c.t.ctx a = none → c.cinvLine s th a = s) ∧
       ∀ e, a < 2 ^ 57 → s.leaf c.t.ctx a = some e →
         let x := s.pte e
         (pteV x = false ∨ s.pteReserved c.t.vi x = true ∨ pteTier x = 2 ∨ pteClass x = 1 → c.cinvLine s th a = s) ∧
         (pteV x = true → s.pteReserved c.t.vi x = false → pteTier x ≠ 2 → pteClass x ≠ 1 →
           kept (lineOf (frameBase (pteTier x) (pteHome x) (pteLoc x) + a % 65536)))) ∧
     ∀ (c : Ctx) (s : State) (th a hint : Nat) (l1 : Bool),
       let k := c.coreOf th
       let u := s.touchPage c.t.ctx c.t.vi a
       let v := c.prefetch s th a hint l1
       let found := u.reach c.t.ctx c.t.vi (coreDie k) .load (a / 128 * 128) 128
       (found = none → v = u) ∧
       ∀ p, found = some p → p.chain = none →
         let line := lineOf (p.bytes.headD 0)
         (u.gateOpen c.t.vi p = false ∨ u.poisoned p.bytes = true → v = u) ∧
         (u.gateOpen c.t.vi p = true → u.poisoned p.bytes = false →
           (∃ l ∈ v.l2, l.line = line) ∧
           (l1 = false → v.cores = u.cores) ∧
           (l1 = true → hint ≠ 3 → u.cacheWays k ≠ 0 → ∃ l ∈ (v.core k).l1, l.line = line))) ∧
  ((∀ w : RWord, DoesWhere (.wmask w) (fun c => c.act ≠ []) (fun c =>
     let want := (c.x (c.act.headD 0) w.a).toNat
     let fits := c.t.coreList.all (fun k => c.s.scratchUsed k - c.t.scratchKB + want ≤ 512)
     let got := if want ≤ c.t.scratchKB || fits then want else c.t.scratchKB
     let s := if want < c.t.scratchKB then c.s.performScratch c.tk (upFrom 0 c.t.threads.length) else c.s
     (s.setScratch c.tk c.t got).mapTeam c.tk (fun t =>
       c.finish (c.pop (c.write t w.d.toNat (fun _ => intRes got)) [w.a.toNat]) 1))) ∧
   (∀ (w : RWord) (s : State) (sp : WordSpec) (c : Ctx), s.Issues (.wmask w) sp c → c.act ≠ [] →
     (c.x (c.act.headD 0) w.a).toNat < c.t.scratchKB →
     ∀ st, st ∈ (c.s.performScratch c.tk (upFrom 0 c.t.threads.length)).stores → st.team = c.tk → st.place.scratch = false) ∧
   ∀ (s : State) (tk kb : Nat) (t : Team), s.team tk = some t →
     ∃ u, (s.setScratch tk t kb).team tk = some u ∧ u.scratchKB = kb ∧
       let changed (a : Nat) : Prop := 1024 * min kb t.scratchKB ≤ a ∧ a < 1024 * max kb t.scratchKB
       ∀ a, ((changed a ∨ t.decl.pair = true ∧ 2 ^ 20 ≤ a ∧ changed (a - 2 ^ 20)) → u.scratch.read a = 0) ∧
         (¬ changed a → ¬ (t.decl.pair = true ∧ 2 ^ 20 ≤ a ∧ changed (a - 2 ^ 20)) → u.scratch.read a = t.scratch.read a)) ∧
  (∀ w : RWord,
     DoesWhere (.monw w) (fun c => c.act ≠ []) (fun c =>
       let r := c.monReach w
       let word : CWord := { c.newWord w.f with
         size := 4,
         lanes := r.parts.map (fun x => { thread := x.1, place := x.2.2, va := c.pr x.1 w.a, regs := [w.d.toNat] : Lane }) }
       word.lanes.foldl (fun s l =>
         if s.gateOpen c.t.vi l.place then (s.arm c.tk c.t l.thread l.va l.place.monitorLine).takeNow word.id l true else s)
         ((c.moveCounted r.s w.f []).addWord word)) ∧
     let now (c : Ctx) : Nat := c.s.cycle (c.coreOf (c.act.headD 0))
     let last (c : Ctx) : Nat := c.b.since.getD (now c) + (c.x (c.act.headD 0) w.a).toNat
     let late (c : Ctx) : Prop :=
       if c.b.wait = .monitor then
         ∃ th ∈ c.act, ∃ m n, (c.t.thread th).monitor = some m ∧ m.until_ = some n ∧ n < c.s.cycle (c.coreOf th)
       else (c.x (c.act.headD 0) w.a).toNat = 0
     let status (c : Ctx) (th : Nat) : Option Nat := match (c.t.thread th).monitor with
       | none => some 2
       | some m => if m.written then some 0 else if c.boundPassed w.a then some 1 else none
     (∀ c : Ctx, c.boundPassed w.a = true ↔ late c) ∧
     DoesWhere (.waitm w) (fun c => ∀ th, th ∈ c.act → (status c th).isSome) (fun c =>
       c.s.setTeam c.tk (c.finish (c.pop
         (c.act.foldl (fun t th => t.mapThread th (fun x => { x with monitor := none }))
           (c.write c.t w.d.toNat (fun th => ⟨BitVec.ofNat 32 ((status c th).getD 1), false, 0⟩)))
         [w.a.toNat]) 1)) ∧
     DoesWhere (.waitm w) (fun c => (∃ th, th ∈ c.act ∧ status c th = none) ∧ c.b.wait = .monitor) (fun c => c.s) ∧
     DoesWhere (.waitm w) (fun c => (∃ th, th ∈ c.act ∧ status c th = none) ∧ c.b.wait ≠ .monitor) (fun c =>
       c.s.setTeam c.tk (c.waitAt (c.beginWaitm c.t w.d.toNat (last c)) .monitor [w.a.toNat])) ∧
     ∀ (c : Ctx) (d n th : Nat), th ∈ c.act → th < c.t.threads.length → d < 768 →
       ((c.t.thread th).monitor = none → (c.beginWaitm c.t d n).vreg th d = (2, false)) ∧
       ∀ m, (c.t.thread th).monitor = some m →
         (c.beginWaitm c.t d n).vreg th d = c.t.vreg th d ∧
         ((c.beginWaitm c.t d n).thread th).monitor = some { m with until_ := some n } ∧
   ∀ (s : State) (tk th line : Nat) (t : Team) (va : DWord), s.team tk = some t → th < t.threads.length →
     let core := t.coreOf (t.groupOf th)
     let u := s.arm tk t th va line
     (s.core core).tracked.length ≤ 256 →
       (∃ v, u.team tk = some v ∧
         (v.thread th).monitor = some { line := line, page := va.toNat / 65536, written := false }) ∧
       line ∈ (u.core core).tracked ∧ (u.core core).tracked.length ≤ 256 ∧ ∀ k, k ≠ core → u.core k = s.core k)

/-! ### Synchronisation and system words -/

/-- BAR leaves the bundle waiting at its barrier after a release at the barrier's scope; a barrier that every counted
group has reached completes at once. A group has arrived when all its live threads wait there. When a barrier
completes, the bundles that wait there move past the word, so that a new round begins, and no other bundle moves: those
of the team for a team barrier, and for a launch barrier those of every resident team of the launch, once each team is
there or counts no group, none is halted and none is saved; the teams' cores then drop their L1 copies, an acquire at
.ten (R251, R253, R275). FENCE releases, then acquires, as its order says; without a release the earlier loads take
their values first; WAITC passes where the counter of every group is at most its lowest active lane's value; SLEEP with
a count waits until that many clocks of the core have passed (R253 to R255). TRAP takes the software trap, with the low
byte of its immediate in CODE, wherever a lane is active and the word stands where it may: it is raised on the bundle,
and the bundle stops at the word (R265, R302). YIELD without a request moves on past its two literals; with one, the
bundle waits at the word (R266). -/
def Obligations.BarriersAndWaits : Prop :=
  (∀ w : RWord,
     Does (.bar w) (fun c =>
       let launch : Bool := w.m = 1
       let s := c.s.release c.tk (c.t.threadsOfAll c.present) (if launch then 3 else 1)
       (s.mapTeam c.tk (fun t => t.mapBundle c.bi (fun b => { b with wait := .barrier launch (fld w.c 3 0) }))).finishBarriers
         c.tk) ∧
     ∀ (t : Team) (launch : Bool) (id : Nat), t.halt = none →
       (t.allArrived launch id = true ↔ t.counted ≠ [] ∧ ∀ g, g ∈ t.counted → ∀ th, th ∈ t.liveOf g →
         ∃ b, b ∈ t.bundles ∧ b.wait = .barrier launch id ∧ th ∈ b.members) ∧
     (let leaves (l : Bool) (whole : Nat → Bool) (b : Bundle) : Bundle := match b.wait with
       | .barrier k id => if k = l ∧ id < 16 ∧ whole id = true then b.advance 1 else b
       | _ => b
     (∀ t : Team, t.finishBarriers = { t with bundles := t.bundles.map (leaves false (t.allArrived false)) }) ∧
     (∀ (s : State) (tk : Nat) (t : Team), s.team tk = some t →
       s.finishBarriers tk = (s.mapTeam tk Team.finishBarriers).finishLaunchBarriers t.launch) ∧
     (∀ (s : State) (n : Nat), (∃ v ∈ s.saved, v.team.launch = n) ∨ s.teamsOf n = [] → s.finishLaunchBarriers n = s) ∧
     ∀ (s : State) (n : Nat), (∀ v, v ∈ s.saved → v.team.launch ≠ n) → s.teamsOf n ≠ [] →
       (∀ k, k ∈ s.teamsOf n → (s.team k).isSome = true) →
       let there (id k : Nat) : Bool := (s.team k).any (fun t => t.allArrived true id)
       let whole (id : Nat) : Bool := (s.teamsOf n).any (there id) &&
         (s.teamsOf n).all (fun k => (s.team k).any (fun t => !t.isHalted && (t.counted.isEmpty || t.allArrived true id)))
       let u := s.finishLaunchBarriers n
       (∀ k t, s.team k = some t → u.team k = some (if k ∈ s.teamsOf n
         then { t with bundles := t.bundles.map (leaves true whole) } else t)) ∧
       let drops (j : Nat) : Bool := (List.range 16).any whole &&
         (s.teamsOf n).any (fun k => (s.team k).any (fun t => t.coreList.contains j))
       (∀ j, u.core j = { s.core j with l1 := if drops j then [] else (s.core j).l1 }) ∧
       u.mem = s.mem ∧ u.pool = s.pool ∧ u.stores = s.stores ∧ u.words = s.words)) ∧
  (∀ (w : RWord) (iw : IWord),
     DoesWhere (.fence w) (fun c => c.act ≠ []) (fun c =>
       let s := if 2 ≤ w.atomCtl.ord then c.s.release c.tk (c.t.threadsOfAll c.groups) w.atomCtl.scope
         else c.s.settleThreads c.tk (c.t.threadsOfAll c.groups)
       c.moveOn (if w.atomCtl.ord % 2 = 1 then c.groups.foldl (fun s g => s.acquire c.t g w.atomCtl.scope) s else s)) ∧
     (∀ (s : State) (sp : WordSpec) (c : Ctx), s.Issues (.waitc w) sp c →
       (∀ g, g ∈ c.groups → (c.t.group g).counter (fld w.c 1 0) ≤ (c.x (c.leader g) w.b).toNat) ∧
       exec (.waitc w) s = .next (c.moveOn c.s [w.b])) ∧
     DoesWhere (.sleep iw) (fun c => c.act ≠ [] ∧ iw.imm ≠ 0) (fun c => c.s.mapTeam c.tk (fun t =>
       t.mapBundle c.bi (fun b =>
         { b with wait := .sleep (c.s.cycle (c.coreOf (b.members.headD 0)) + iw.imm.toNat) }))) ∧
     DoesWhere (.sleep iw) (fun _ => iw.imm = 0) (fun c => c.pass)) ∧
  (∀ (w : IWord) (s : State) (sp : WordSpec) (c : Ctx), s.Stands (.trap w) sp c → c.act ≠ [] →
     c.classOk 0xD9 = true → formOk (.trap w) = true → w.guard.ok c.t.decl = true →
       exec (.trap w) s = .next (raiseTrap s c.tk c.bi
         { cause := 0x20, mask := c.t.mask c.act, addr := 0, code := BitVec.ofNat 32 (w.imm.toNat % 256) })) ∧
  (∀ (w : RWord) (lit1 lit2 : DWord),
     DoesWhere (.yield w lit1 lit2) (fun c => c.act = [] ∨ c.t.yieldreq = false) (fun c => c.pass 3) ∧
     DoesWhere (.yield w lit1 lit2) (fun c => c.act ≠ [] ∧ c.t.yieldreq = true) (fun c =>
       c.s.setTeam c.tk (c.t.mapBundle c.bi (fun b => { b with wait := .yield }))))

/-- One arrival at a barrier object: it counts, or completes the phase, or is refused where it exceeds the expected
count (R104, R252): EXP in bits 11 to 0, ARR in 23 to 12, PHASE in 27 to 24, the overrun bit 28, and the refusals from
bit 32. BARA: the arrivals of the lanes in order, after a release at .team; the lanes that arrived take their results;
where one was refused, the word traps with the object as the arrivals left it (R252). BARW ends when every group's
object has been seen in another phase by its bound, or the bound has passed, with 1 and 0 in its predicate; else it
waits, from its issue on, for each group's object, phase and last cycle. A phase that has come round again is no
change; what a group has seen when its bound passes stands; the bound of a BARW that issues in the skid of a halt
stands still (R252, R308). -/
def Obligations.BarrierObjects : Prop :=
  (∀ (x n team g : Nat),
     let e := bits x 11 0
     let a := bits x 23 12
     let ph := bits x 27 24
     let y := (arrive x n team g).1
     (a + n < e → (arrive x n team g).2 = some (BitVec.ofNat 32 ph) ∧ bits y 23 12 = a + n ∧ bits y 27 24 = ph) ∧
     (a + n = e → (arrive x n team g).2 = some (BitVec.ofNat 32 (16 + ph)) ∧ bits y 23 12 = 0 ∧
       bits y 27 24 = (ph + 1) % 16) ∧
     (a + n ≤ e → bits y 11 0 = e ∧ bits y 127 28 = bits x 127 28) ∧
     (e < a + n → (arrive x n team g).2 = none ∧ bits y 27 0 = bits x 27 0 ∧ bits y 28 28 = 1 ∧
       bits y 63 32 = (bits x 63 32 + 1) % 2 ^ 32 ∧ bits y 95 64 = team % 65536 * 65536 + g % 65536)) ∧
  (∀ w : RWord,
     (∀ (s : State) (sp : WordSpec) (c : Ctx), s.Issues (.bara w) sp c → c.act ≠ [] →
       let u := c.settleForObject (c.s.release c.tk c.act 1)
       ∃ t, u.team c.tk = some t ∧
         let t' := (c.arrivals w t).1
         let l := (c.arrivals w t).2
         let t' := { c with act := c.arrived w.d.toNat l }.write t' w.d.toNat (fun th => wordRes ((resultOf l th).getD 0))
         let refused := c.act.filter (fun th => (resultOf l th).isNone)
         exec (.bara w) s = .next (
           if refused = [] then
             (u.setTeam c.tk (c.finish (c.pop (t'.raiseFlag c.groups (c.flag w.f)) [w.a.toNat]) 1)).addWord
               { c.newWord w.f with id := u.nextId }
           else raiseTrap (u.setTeam c.tk t') c.tk c.bi (c.trapOn refused 0x18 0
             (BitVec.ofNat 64 (c.objAt w.a (c.t.groupOf (refused.headD 0))))))) ∧
     Does (.bari w) (fun c => (c.settleForObject c.s).mapTeam c.tk (fun t => c.finish (c.pop (c.groups.foldl (fun t g =>
       let t := { t with scratch := t.scratch.writeLE (c.x (c.leader g) w.a).toNat 16 (c.x (c.leader g) w.b).toNat }
       t.seePhases c.s.cycle) t)
       [w.a.toNat, w.b.toNat]) 1))) ∧
  (∀ (w : RWord) (s : State) (sp : WordSpec) (c : Ctx), s.Issues (.barw w) sp c →
     let u := c.settleForObject c.s
     let t := (u.team c.tk).getD c.t
     let waits : List PhaseWait := match c.b.wait with
       | .barw l _ => l
       | _ => c.groups.map (fun g =>
           { group := g, object := (c.x (c.leader g) w.a).toNat, phase := (c.x (c.leader g) w.b).toNat % 16,
             until_ := c.s.cycle (c.coreOf (c.leader g)) + (c.x (c.leader g) w.c).toNat
             held := (match c.t.halt with
               | some h => h.phase == .stopping
               | none => false) })
     let known := match c.b.wait with
       | .barw _ l => l
       | _ => []
     let changed := (waits.filter (fun x =>
       if x.held || decide (c.s.cycle (t.coreOf x.group) ≤ x.until_) then
         decide (bits (t.scratch.readLE x.object 16) 27 24 ≠ x.phase)
       else known.contains x.group)).map (·.group)
     let late (g : Nat) : Bool := c.x (c.leader g) w.c = 0 ||
       (waits.find? (fun x => x.group = g)).any (fun x => x.until_ < c.s.cycle (c.coreOf (c.leader g)))
     exec (.barw w) s = .next (u.mapTeam c.tk (fun t =>
       if ∀ g, g ∈ c.groups → g ∈ changed ∨ late g then
         c.finish (c.pop (c.write t w.d.toNat (fun th => boolRes (changed.contains (c.t.groupOf th))))
           [w.a.toNat, w.b.toNat, w.c.toNat]) 1
       else c.waitAt t (.barw waits changed) [w.a.toNat, w.b.toNat, w.c.toNat])))

/-- CPY and CPYC leave one engine operation per group, with the address, the destination and the count of each active
lane, and count it on c0 (R144, R256, R257). CBDEF defines a buffer for every group, CBACQ gives the groups the next
filled slots one after another and waits where one has none yet, the others keeping theirs, CBREL returns the groups'
acquired slots after a release at .team, and QLEN reads the counts (R112, R113, R258, R259). One slot released per
group with an active lane (log 32; R258 says each group present) and the upper bits of CBDEF's C ignored (log 33) are
the model's readings. -/
def Obligations.CopiesAndBuffers : Prop :=
  (∀ w : RWord,
     let src (c : Ctx) (th : Nat) : DWord := if w.m.getLsbD 0 then (c.x th w.a).setWidth 64 else c.pr th w.a
     let dst (c : Ctx) (th : Nat) : DWord := if w.m.getLsbD 1 then (c.x th w.b).setWidth 64 else c.pr th w.b
     let start (c : Ctx) (k : Nat → OpKind) (srcs : List (BitVec 11)) : State :=
       let ops : List Op := c.groups.zipIdx.map (fun x =>
         { id := c.s.nextId + x.2, team := c.tk, group := x.1, cls := 0, clause := c.b.pc, widx := c.b.widx,
           hint := fld w.d 1 0, kind := k x.1 })
       let s := c.moveOps c.s 0 srcs
       { s with ops := s.ops ++ ops, nextId := s.nextId + ops.length }
     Does (.cpy w) (fun c => start c (fun g => .copy ((c.actOf g).map (fun th =>
       { thread := th, src := src c th, srcScratch := w.m.getLsbD 0, dst := dst c th, dstScratch := w.m.getLsbD 1,
         count := (c.x th w.c).toNat : CopyLane }))) [w.a, w.b, w.c]) ∧
     Does (.cpyc w) (fun c => start c (fun g => .cpyc (fld w.b 3 0) ((c.actOf g).map (fun th =>
       { thread := th, src := src c th, srcScratch := w.m.getLsbD 0, dst := 0, dstScratch := true,
         count := (c.x th w.c).toNat : CopyLane }))) [w.a, w.c])) ∧
  (∀ w : RWord,
     let i := fld w.b 3 0
     (∀ (s : State) (sp : WordSpec) (c : Ctx), s.Issues (.cbdef w) sp c → c.groups ≠ [] →
       ∃ u, c.cbdefAll w c.t = .ok u ∧ exec (.cbdef w) s = .next (c.teamPut u [w.a, w.c]) ∧
         let g := c.groups.getLastD 0
         let v := c.x (c.leader g) w.c
         u.cbuf i = { valid := true, nslot := fld v 15 9, slotsz := fld v 8 0, base := (c.x (c.leader g) w.a).toNat }) ∧
     DoesWhere (.cbacq w) (fun c => c.act ≠ []) (fun c =>
       let x := c.t.cbuf i
       let waiting := c.groups.filter (fun g => !(c.b.slots.any (fun y => y.1 = g)))
       let k := min waiting.length x.filled
       let index (j : Nat) : Nat := if j = 0 then x.rix else (x.rix + j) % x.nslot
       let slots := c.b.slots ++ (waiting.take k).zipIdx.map (fun y => (y.1, x.base + 128 * x.slotsz * index y.2))
       let x := { x with rix := index k, filled := x.filled - k, acq := x.acq + k }
       c.s.setTeam c.tk (
         if slots.length < c.groups.length then
           (c.t.setCbuf i x).mapBundle c.bi (fun b => { b with wait := .stalled, slots := slots })
         else c.finish ((c.write c.t w.d.toNat (fun th => intRes
           (((slots.find? (fun y => y.1 = c.t.groupOf th)).map (·.2)).getD 0 : Nat))).setCbuf i x) 1)) ∧
     DoesWhere (.cbrel w) (fun c => c.act ≠ []) (fun c =>
       (c.s.release c.tk (c.t.threadsOfAll c.groups) 1).mapTeam c.tk (fun t =>
         c.finish (t.setCbuf i { t.cbuf i with acq := (t.cbuf i).acq - c.groups.length }) 1)) ∧
     Does (.qlen w) (fun c => c.put w.d [] (fun th =>
       let n := w.b.toNat
       let x := c.t.cbuf n
       if w.m ≠ 1 then intRes ((if x.valid then 2 ^ 28 else 0) + x.resv % 128 * 2 ^ 21 + x.acq % 128 * 2 ^ 14 +
         x.filled % 128 * 2 ^ 7 + (x.nslot - x.resv - x.filled - x.acq) % 128 : Nat)
       else if n < 16 then intRes (c.t.pipe n).length
       else if n = 16 then intRes c.t.notices.length
       else intRes (c.t.replies.filter (fun r => r.1 = n && r.2.1 = c.t.groupOf th)).length)))

/-- XPROG starts programming a view at the placed plinths of each group's partition, and XCAL its retrimming, each as
an operation counted on c2; XSTAT reads the state of a view's arrays or of one array, and refuses a selector with a bit
above 8 (R260, R261). A programming operation names, for its group, the captured view and the placed plinths that have
to program it: a view whose MODE is digital ends with status 3, placed or not, one without a placed plinth with status
5. Otherwise each placed plinth in turn: one that holds the view has finished with 1; one that programs it goes on;
another evicts views of the interface, each time the one whose last use is the oldest, until its arrays suffice and
programs them, or has finished with 2, and its notice of KIND 2 is posted; the operation keeps those that program and
the greatest status. XCAL names the partition's arrays that hold the view, by its recorded address alone, resident or
drifting; they leave service, and it says whom to tell (R100, R110, R137, R233, R260). Where XPROG, XCAL, XSTAT, the
re-links, FSTAT and CALLX issue and complete: in a clause of their class, with a well-formed word, operands of the
shapes asked for, a declared guard predicate, ports that have an entry or room, no parked VSET that fills its view
register (R234), and the conditions of their entries: XPROG, XCAL and XSTAT valid views with an element, XSTAT.cal an
untagged selector below 512, XSTAT and FSTAT a result without a reserved bit where D is %fctl or %fstat; the re-links
the right FLTMGT, untagged operands and conditions that hold for every group; FSTAT untagged names of known flights;
CALLX untagged operands, no stranded store, a flag below 63, room in its dies' service queues and a finished release.
XPROG and XCAL need c2, the re-links c3 below 1,023 (R144, R145, R179, R260 to R264). XPROG of a view whose arrays
drift takes them again in place (log 36), and status 3 comes before status 5 (log 99): both are the model's. -/
def Obligations.CrossbarWords : Prop :=
  (∀ w : RWord,
     Does (.xprog w) (fun c => c.moveOps (c.groups.foldl (fun s g => c.xprogOf s w g) c.s) 2 []) ∧
     Does (.xcal w) (fun c => c.moveOps (c.groups.foldl (fun s g => c.xcalOf s w g) c.s) 2 []) ∧
     (w.m ≠ 1 → Does (.xstat w) (fun c => c.put w.d [] (fun th =>
       let v := c.view th w.b.toNat
       let holds (ast p : Nat) : Bool := (arrayKeys p).any (fun k =>
         (c.s.array k).ast = ast && (c.s.array k).desc.toNat = vDesc v.image)
       let mask (f : Nat → Bool) : Int := ((List.range 8).map (fun k =>
         if f (corePart (c.coreOf th) * 8 + k) then (2 : Int) ^ k else 0)).sum
       intRes (fld v.fourth 18 16 * 2 ^ 24 + mask (holds 3) * 2 ^ 16 + mask (holds 1) * 2 ^ 8 +
         mask (fun p => v.valid && c.s.resident p v))))) ∧
     (w.m = 1 → Does (.xstat w) (fun c => c.put w.d [w.a] (fun th =>
       let k := (c.x th w.a).toNat
       let a := c.s.array ((corePart (c.coreOf th) * 8 + k / 64 % 8) * 64 + k % 64)
       intRes (a.ast % 16 * 2 ^ 16 + a.drift % 65536 : Nat)))) ∧
     (w.m = 1 → ∀ (s : State) (sp : WordSpec) (c : Ctx), s.Stands (.xstat w) sp c →
       (∀ th, th ∈ c.act → c.tags th w.a.toNat 1 = false) → (∃ th, th ∈ c.act ∧ 512 ≤ (c.x th w.a).toNat) →
       sp.own c = some { cause := 0x01, mask := c.t.mask c.act })) ∧
  (∀ (c : Ctx) (s : State) (w : RWord) (g : Nat),
     let v := c.view (c.leader g) w.b.toNat
     let mine := upFrom (corePart (c.t.coreOf g) * 8) 8
     let set := mine.filter (s.placed v.image c.t.vi)
     let op (k : OpKind) (u : State) (lanes : List Nat := c.actOf g) : State :=
       { u with ops := u.ops ++ [{ id := u.nextId, team := c.tk, group := g, cls := 2, clause := c.b.pc,
                                   widx := c.b.widx, kind := k, lanes := lanes : Op }], nextId := u.nextId + 1 }
     (vMode v.image = 0 → c.xprogOf s w g = op (.xprog w.b.toNat v [] 3) s) ∧
     (vMode v.image ≠ 0 → set = [] → c.xprogOf s w g = op (.xprog w.b.toNat v [] 5) s) ∧
     (vMode v.image ≠ 0 → set ≠ [] → (∀ p, p ∈ set → s.resident p v = true) →
       c.xprogOf s w g = op (.xprog w.b.toNat v [] 1) s) ∧
     (vMode v.image ≠ 0 → set ≠ [] →
       let r := set.foldl (fun (x : List Nat × Nat × State) p => match x.2.2.xprogAt c.t v p with
         | (none, u) => (x.1 ++ [p], x.2.1, u)
         | (some k, u) => (x.1, max x.2.1 k,
             if k = 2 then u.mapTeam c.tk (fun t => t.notify (notice 2 p w.b.toNat g)) else u)) ([], 1, s)
       c.xprogOf s w g = op (.xprog w.b.toNat v r.1 r.2.1) r.2.2) ∧
     (∀ (u : State) (p : Nat),
       let need := arraysNeeded v.image
       let held := u.arraysOf p v [1, 2, 3]
       let e := u.evictViews p c.t.vi v (need - held.length) 64
       let keys := (held ++ e.freeArrays p).take need
       u.xprogAt c.t v p =
         if u.resident p v then (some 1, u)
         else if need ≤ held.length ∧ u.arraysOf p v [1] ≠ [] then (none, u)
         else if keys.length < need then (some 2, e) else (none, e.program keys v c.t.ctx c.t.vi p)) ∧
     (∀ (u : State) (p k : Nat) (asts : List Nat), k ∈ u.arraysOf p v asts ↔
       k / 64 = p ∧ (u.array k).ast ∈ asts ∧ (u.array k).desc.toNat = vDesc v.image ∧ (u.array k).gen = v.gen) ∧
     (∀ (u : State) (p need k : Nat),
       let e := u.evictViews p c.t.vi v need 64
       let a := u.array k
       (e.array k = a ∨ (k / 64 = p ∧ a.ast = 2 ∧ a.vi = c.t.vi ∧ ¬(a.desc.toNat = vDesc v.image ∧ a.gen = v.gen) ∧
         e.array k = { progs := a.progs, drift := a.drift, since := a.since, ast := 0 })) ∧
       (need ≤ (e.freeArrays p).length ∨ e.residents p c.t.vi v = [])) ∧
     (∀ (u : State) (p : Nat) (keys : List Nat), keys.Nodup →
       let cols := (vOutlen v.image + 127) / 128
       (∀ n k, keys[n]? = some k → (u.program keys v c.t.ctx c.t.vi p).array k =
         { u.array k with desc := BitVec.ofNat 64 (vDesc v.image), gen := v.gen, progs := (u.array k).progs + 1, ast := 1,
                          iblk := n / cols, cblk := n % cols, ctx := c.t.ctx, vi := c.t.vi, used := u.now }) ∧
       ∀ k, k ∉ keys → (u.program keys v c.t.ctx c.t.vi p).array k = u.array k) ∧
     (∀ (u : State) (p need n : Nat),
       let resident (k : Nat) : Prop := k / 64 = p ∧ (u.array k).ast = 2 ∧ (u.array k).vi = c.t.vi ∧
         ¬((u.array k).desc.toNat = vDesc v.image ∧ (u.array k).gen = v.gen)
       let evicted := u.evictViews p c.t.vi v need (n + 1)
       (need ≤ (u.freeArrays p).length ∨ (∀ k, ¬ resident k) → evicted = u) ∧
       ((u.freeArrays p).length < need → (∃ k, resident k) →
         ∃ j ks, resident j ∧ (∀ k, resident k → (u.array j).used ≤ (u.array k).used) ∧
           (∀ k, k ∈ ks ↔ k / 64 = p ∧ (u.array k).ast = 2 ∧ (u.array k).vi = c.t.vi ∧
             (u.array k).desc = (u.array j).desc ∧ (u.array k).gen = (u.array j).gen) ∧
           evicted = (u.eraseArrays ks 0).evictViews p c.t.vi v need n)) ∧
     let keys := mine.flatMap (fun p => (arrayKeys p).filter (fun k =>
       ((s.array k).ast = 2 || (s.array k).ast = 3) && (s.array k).desc.toNat = vDesc v.image))
     ∃ u, c.xcalOf s w g = op (.xcal keys) u [] ∧ { u with arrays := s.arrays } = s ∧
       ∀ k, u.array k = if k ∈ keys then { (s.array k).tell c.t w.b.toNat g with ast := 3 } else s.array k) ∧
  (∀ (w : RWord) (i : Instr) (s : State) (sp : WordSpec) (c : Ctx),
     let views : Prop := ∀ th, th ∈ c.act →
       (c.view th w.b.toNat).valid = true ∧ 0 < vOutlen (c.view th w.b.toNat).image
     let clear (n : BitVec 11) : Prop := ∀ th, th ∈ c.act → c.tg th n = false
     let below (k : Nat) : Prop := ∀ g, g ∈ c.groups → (c.t.group g).counter k < 1023
     let links (k : Nat) : Prop := tbit (s.ctxPolicy c.t.ctx) 4 = true ∧ clear w.a ∧ clear w.b ∧
       (k = 2 → clear w.c) ∧ (∃ u, c.relinkAll k w = .ok u) ∧ below 3
     s.Stands i sp c → c.classOk i.opcode.toNat = true → formOk i = true → c.shapeTrap sp.fields = none →
     w.guard.ok c.t.decl = true → c.portsReady sp.srcs sp.dst = true → c.viewPending sp.fields = false →
     ((i = .xprog w ∧ views ∧ below 2) ∨ (i = .xcal w ∧ views ∧ below 2) ∨
       (i = .xstat w ∧ (w.m ≠ 1 → views) ∧ (w.m = 1 → clear w.a ∧ ∀ th, th ∈ c.act → (c.x th w.a).toNat < 512) ∧
         (w.d = 1105 ∨ w.d = 1106 → sp.own c = none)) ∨
       (i = .flink w ∧ links 0) ∨ (i = .fcut w ∧ links 1) ∨ (i = .fswap w ∧ links 2) ∨
       (i = .fstat w ∧ clear w.a ∧ ∀ g, g ∈ c.groups →
         let f := s.flight (c.x (c.leader g) w.a).toNat
         (c.x (c.leader g) w.a).toNat < 64 ∧ f.valid = true ∧ f.owner = c.t.vi) ∨
       (i = .callx w ∧ clear w.a ∧ clear w.b ∧ s.strandedOf c.tk (c.t.threadsOfAll c.groups) = none ∧
         c.flagFull (c.flag w.f) = false ∧
         (∀ d, (s.die d).service.length + (c.groups.filter (fun g => coreDie (c.t.coreOf g) = d)).length ≤ 256) ∧
         (s.release c.tk (c.t.threadsOfAll c.groups) 3).released c.t c.tk (c.t.threadsOfAll c.groups) = true)) →
     s.Issues i sp c ∧ exec i s = .next (sp.run c))

/-- FLINK, FCUT and FSWAP change their flights group by group, each as an operation counted on c3 that names the flight
and the dies that join and leave; FSTAT reads STEPS or COPYPOS of the flight its group's lowest active lane names
(R262). What a re-link asks of its flight, and what it does at issue. FLINK needs a known flight without a joining
step, a new step on another die in a partition of the interface, and a free frame there for every entry in use; it
appends a joining step, and every entry in use has its own frame of the partition's free list, in use for the interface
with the entry's REFS, and in the entry's word for the new die. FCUT makes a serving step leave that is not the only
one, nor the head while a step joins, nor the tail while a step joins; the tail stays the point of commit until it has
drained. FSWAP links its new step where its old one serves, and leaves the old one to its join completion (R130, R132,
R133, R262). CALLX releases at .ten and queues one record per group with an active lane at the group's die; the word
stays in flight for the replies. The 320 bytes of a record (R264, R319). Steps of 32 and more denied (log 31) and one
CALLX record per group with an active lane (log 32) are the model's readings. -/
def Obligations.FlightsAndCalls : Prop :=
  (∀ w : RWord,
     let does (i : Instr) (k : Nat) (srcs : List (BitVec 11)) : Prop :=
       ∀ (s : State) (sp : WordSpec) (c : Ctx), s.Issues i sp c →
         ∃ u, c.relinkAll k w = .ok u ∧ exec i s = .next (c.moveOps u 3 srcs) ∧
           u.ops = s.ops ++ c.groups.zipIdx.map (fun x =>
             let die (n : BitVec 11) : Nat := bits (c.x (c.leader x.1) n).toNat 4 2
             { id := s.nextId + x.2, team := c.tk, group := x.1, cls := 3, clause := c.b.pc, widx := c.b.widx,
               kind := .relink (c.x (c.leader x.1) w.a).toNat
                 (if k = 0 then some (die w.b) else if k = 1 then none else some (die w.c))
                 (if k = 0 then none else some (die w.b)) })
     does (.flink w) 0 [w.a, w.b] ∧ does (.fcut w) 1 [w.a, w.b] ∧ does (.fswap w) 2 [w.a, w.b, w.c] ∧
     (∀ (c : Ctx) (s : State) (k g : Nat),
       let a := c.x (c.leader g) w.a
       let b := c.x (c.leader g) w.b
       (c.relinkOf s k w g).map Prod.fst =
         if k = 0 then s.linkStep c.t.vi a b else if k = 1 then s.cutStep c.t.vi a b
         else s.swapStep c.t.vi a b (c.x (c.leader g) w.c)) ∧
     Does (.fstat w) (fun c => c.putPair w.d [w.a] (fun th =>
       let f := c.s.flight (c.x (c.leader (c.t.groupOf th)) w.a).toNat
       if w.m = 1 then BitVec.ofNat 64 f.copypos else f.steps))) ∧
  (∀ (s : State) (vi : Nat) (a step : Word),
     let f := s.flight a.toNat
     let d := bits step.toNat 4 2
     let q := bits step.toNat 1 0
     let p := 4 * d + q
     let steps := f.stepList
     let es := s.entriesInUse f
     let frs : List Nat :=
       (List.range es.length).map (fun n => (fun k => (s.frame (frameKey p k)).next)^[n] (s.part p).freehead)
     let known : Prop := a.toNat < 64 ∧ f.valid = true ∧ f.owner = vi
     let joining : Prop := ∃ x ∈ steps, x.1 = 2
     ((s.linkStep vi a step).isSome = true ↔ known ∧ step.toNat < 32 ∧ (s.part p).owned = true ∧
       (s.part p).vi = vi ∧ (∀ x, x ∈ steps → x.2.1 ≠ d) ∧ ¬ joining ∧ es.length ≤ (s.part p).freecnt) ∧
     (∀ u, s.linkStep vi a step = some u →
       u.flight a.toNat = { f with steps := packSteps (steps ++ [(2, d, q)]), copypos := 0 } ∧
       (u.part p).freecnt + es.length = (s.part p).freecnt ∧
       (frs.Nodup → (∀ fr, fr ∈ frs → fr < 524288) →
         (∀ e, e ∈ es → ∃ x ∈ steps, (s.entryFrame f e x.2.1).isSome = true) →
         ∀ (n e fr : Nat), es[n]? = some e → frs[n]? = some fr → u.entryFrame f e d = some fr ∧
           (u.frame (frameKey p fr)).state = 1 ∧ (u.frame (frameKey p fr)).vi = vi ∧
           (u.frame (frameKey p fr)).refs = (s.entryHead f e).refs)) ∧
     ((s.cutStep vi a step).isSome = true ↔ known ∧ step.toNat < 32 ∧ (1, d, q) ∈ steps ∧
       2 ≤ (steps.filter (fun x => x.1 = 1)).length ∧
       ¬ (∃ h rest, steps = h :: rest ∧ h.2.1 = d ∧ joining) ∧ ¬ (f.isTailDie d = true ∧ joining)) ∧
     (∀ u, s.cutStep vi a step = some u →
       u = s.setFlight a.toNat { f with
         steps := packSteps (steps.map (fun x => if x.2.1 = d then (3, x.2) else x))
         cutTails := if f.isTailDie d then f.cutTails ++ [d] else f.cutTails }) ∧
     ∀ new : Word, s.swapStep vi a step new =
       if a.toNat < 64 ∧ f.valid = true ∧ f.owner = vi ∧ step.toNat < 32 ∧ (1, d, q) ∈ steps then s.linkStep vi a new
       else none) ∧
  (∀ w : RWord,
     DoesWhere (.callx w) (fun c => c.act ≠ []) (fun c =>
       let s := c.s.release c.tk (c.t.threadsOfAll c.groups) 3
       let s := c.groups.foldl (fun s g =>
         let d := coreDie (c.t.coreOf g)
         let call : Call :=
           { word := c.s.nextId, team := c.tk, ctx := c.t.ctx, vi := c.t.vi, teamIx := c.t.index, group := g,
             core := c.t.coreOf g, service := c.x (c.leader g) w.b,
             lanes := (c.actOf g).map (fun th => (c.t.laneOf th, th, c.x th w.a)), dest := w.d.toNat }
         s.setDie d { s.die d with service := (s.die d).service ++ [call] }) s
       (c.moveCounted s w.f [w.a, w.b]).addWord { c.newWord w.f with
         awaited := true, calls := c.groups,
         pipe := if 1024 ≤ w.d.toNat && w.d.toNat < 1040 then some (w.d.toNat - 1024) else none }) ∧
     ∀ x : Call,
       let r := x.record
       let word (at_ n : Nat) : Nat := ofBytesLE ((r.drop at_).take n)
       r.length = 320 ∧ word 0 8 = x.ctx.toNat ∧ word 8 4 = x.vi % 64 ∧ word 12 4 = x.teamIx.toNat ∧
       word 16 2 = x.group % 2 ^ 16 ∧ word 18 2 = x.core % 2 ^ 16 ∧ word 20 4 = x.service.toNat ∧
       (∀ n, n < 64 → (word 24 8).testBit n = x.lanes.any (fun l => l.1 = n)) ∧ word 32 8 = x.word % 2 ^ 64 ∧
       word 40 24 = 0 ∧
       ∀ n, n < 64 → word (64 + 4 * n) 4 = ((x.lanes.find? (fun l => l.1 = n)).map (fun l => l.2.2.toNat)).getD 0)

/-- TRET returns from the handler: the handler's bundles vanish, the faulting bundle's live threads stand again where
the record says, or past the recorded word and its literals with .skip, every other bundle resumes, the skid counts are
zero, and the barriers that are now complete complete; with .skip past a stranded store's fault the group's next one
halts the team. A return from a halt in the handler resumes the handler. With the team's return its deadline counter
goes on, and the bound of a WAITM that fell due in the halt is reached now, not before (R148, R267, R284, R308, R314).
-/
def Obligations.TrapReturn : Prop :=
  ∀ w : RWord,
    (∀ (s : State) (sp : WordSpec) (c : Ctx) (h : Halt), s.Issues (.tret w) sp c → c.act ≠ [] → c.t.halt = some h →
      let u := (c.s.setTeam c.tk
        (resumeTeam c.t (w.m = 1) (1 + literalCount (opcodeOf h.trap.word)))).restartDeadline c.tk c.t
      exec (.tret w) s = .next ((if w.m = 1 then u.nextStranded c.tk c.t else u).finishBarriers c.tk)) ∧
    DoesWhere (.tret w) (fun c => c.act = []) (fun c =>
      c.s.setTeam c.tk (c.transfer c.t (fun _ => (c.b.next, false)))) ∧
    (∀ (s : State) (tk : Nat) (t u : Team), t.isHalted = true → u.isHalted = false → s.team tk = some u →
      u.requested = false → ∃ v, (s.restartDeadline tk t).team tk = some v ∧
        v.deadline = u.deadline.map (fun d => (s.cycle u.core, d.2)) ∧
        ∀ (b : Bundle) (th : Nat) (m : Monitor) (q : Nat), b ∈ u.bundles → b.wait = .monitor → th ∈ b.members →
          (u.thread th).monitor = some m → m.until_ = some q → m.held = true →
          (v.thread th).monitor =
            some { m with until_ := some (max (s.cycle (u.coreOf (u.groupOf th))) q), held := false }) ∧
    ∀ (t : Team) (h : Halt) (b : Bundle) (skip : Bool) (k : Nat), t.halt = some h → h.stop = some b →
      let u := resumeTeam t skip k
      let back := { b with members := b.members.filter (fun i => (t.thread i).live), wait := .ready }
      u.threads = t.threads ∧ u.groups = t.groups.map (fun g => { g with skid := 0 }) ∧
      (h.outer = none → u.halt = none ∧
        u.bundles = (t.bundles.filter (fun b => !b.handler)).map Bundle.release ++
          [if skip then back.advance k else back]) ∧
      ∀ trap seq bi, h.outer = some (trap, seq) → h.trap.bundle = some bi →
        u.halt = some { h with trap := trap, seq := seq, phase := .handler, nested := false, outer := none } ∧
        ∀ n, u.bundles[n]? = (t.bundles[n]?).map (fun b =>
          let b := if b.handler then b.release else b
          if skip && n = bi then b.advance k else b)

/-! ### Encodings and the step -/

/-- Words written out from their encodings decode to the instructions they stand for (R163, R168 to R171, R174, R189).
-/
def Obligations.WrittenWordsDecode : Prop :=
  let reads (ws : List (BitVec 64)) (i : Instr) : Prop := decode (ws.flatMap wordBytes) = .ok (i, [])
  reads [0x8001_8011_0400_0001] (.ld ⟨12, 4, 4, 0, 2, false, 0, 0, false, false, 0, false, 1⟩) ∧
  reads [0x8801_A012_8084_0000] (.atom ⟨13, 4, 1281, 0x040, false, false, 0, false, 0⟩) ∧
  reads [0x3800_0003_FFFF_AC10] (.bra ⟨0, 0, -6, true, true, 2, false, 0⟩) ∧
  reads [0x1C01_0010_0300_0002] (.iaddc ⟨8, 4, 6, 0, false, false, 0, false, 2⟩) ∧
  reads [0x6001_2022_8113_0001] (.cvt ⟨9, 8, 1282, 0x130, false, false, 0, false, 1⟩) ∧
  reads [0x7000_6080_1403_0000] (.mma ⟨3, 32, 40, 48, false, false, 0, false, 0⟩) ∧
  reads [0x0300_0000_0000_0001, 0x0123_4567_89AB_CDEF]
    (.movw ⟨0, 0, 0, 0, false, false, 0, false, 1⟩ 0x0123_4567_89AB_CDEF) ∧
  reads [0xDA00_0000_0000_0000, 0x0100_0000_0000_0005, 0x0000_0008_0000_0000]
    (.yield ⟨0, 0, 0, 0, false, false, 0, false, 0⟩ 0x0100_0000_0000_0005 0x0000_0008_0000_0000)

/-- The decoder reads back every word of a valid form that the encoder writes, with every operand and every literal,
and leaves what follows it. -/
def Obligations.WordsRoundTrip : Prop :=
  ∀ (i : Instr) (rest : List Byte), WellFormed i → encodeWords i ≠ [] → decode (encode i ++ rest) = .ok (i, rest)

/-- A command's ring entry is read back as the command (R323, R324), and an entry with an unassigned OPC as such. -/
def Obligations.CommandsRoundTrip : Prop :=
  ∀ (i : Instr) (fn : Nat) (e : BitVec 512), i.entry = some (fn, e) →
    (WellFormed i → decodeCommand fn e = i) ∧ encode i = natBytes 64 e.toNat ∧
    (opcAssigned (commandOpc e) = false → decodeCommand fn e = .unassignedOpcCommand fn e)

/-- A word with an unassigned opcode decodes, and takes the illegal-instruction trap before any other check (R175,
R179). -/
def Obligations.UnassignedOpcodes : Prop :=
  ∀ (x : BitVec 64) (rest : List Byte), opcodeAssigned (fld x 63 56) = false →
    decode (wordBytes x ++ rest) = .ok (.unassignedOpcodeWord x, rest) ∧
    ∀ (s : State) (sp : WordSpec) (c : Ctx), s.Stands (.unassignedOpcodeWord x) sp c →
      exec (.unassignedOpcodeWord x) s = .next (raiseTrap s c.tk c.bi { cause := 0x01, mask := c.t.mask c.act })

/-- A step does what its turn names (log 1), once the clock has moved on: where a bundle may issue, it executes the
instruction decoded from the words at the bundle's place in its clause, after the errors in the registers, predicates,
view registers and tiles that it reads are reported to the groups that meet them (R103), for a group and with the
values as they stand in this model (log 60), which are those of its fields, D of a store, a CAS or a BITF3 among them,
and the registers that MOVX, UBCAST, LANEX, SEL and IADDC read elsewhere, and those in the scratch that a word of a
tile, a record or a barrier object meets (log 100); a word whose pipe has served a later alcove in the cycle does not
issue (R108); an event's turn executes the event, a command's turn the next ring entry; the host writes its memory. The
clock moves the step and the schedule on, and where no team is requested to yield it decides nothing (R297). -/
def Obligations.StepRunsInstructions : Prop :=
  ∀ s : State,
    let v := s.advanceClock
    (∀ (tk bi : Nat) (t : Team) (b : Bundle) (cl : Clause) (i : Instr) (rest : List Byte),
      s.nextTurn = .issue tk bi → v.team tk = some t → t.bundle bi = some b → b.clause = some cl →
      decode ((cl.words.drop b.idx).flatMap wordBytes) = .ok (i, rest) →
      (v.mayIssue tk bi t b = true →
        step s = match exec i (({ v with cur := some (tk, bi) } : State).reportSpoilt i) with
          | .next u => .next (u.afterIssue tk bi b)
          | r => r) ∧
      (v.mayIssue tk bi t b = false → step s = .next v) ∧
      ∀ q, q ∈ v.pipesOf b → (Sparse.get t.pipeUsed (0, 0) q).1 = v.cycle t.core →
        (let g := (sortUp (b.members.map t.groupOf)).headD 0
         g % 4 + 4 * (t.coreOf g - t.core) < (Sparse.get t.pipeUsed (0, 0) q).2) → v.mayIssue tk bi t b = false) ∧
    (∀ i, s.nextTurn = .event i → isEvent i = true → step s = exec i v) ∧
    (∀ fn, s.nextTurn = .command fn →
      (∀ e, v.nextCommand fn = some e → step s = exec (decodeCommand fn e) v) ∧
      (v.nextCommand fn = none → step s = .next v)) ∧
    (∀ a x, s.nextTurn = .hostWrite a x → step s = .next { v with hostMem := v.hostMem.write a x }) ∧
    ((∀ kt, kt ∈ s.teams → kt.2.yieldreq = false) → v = { s with sched := s.sched.tail, now := s.now + 1 }) ∧
    ∀ (u : State) (i : Instr),
      ((∀ tk bi t, u.cur = some (tk, bi) → u.team tk = some t →
        t.badTiles = [] ∧ t.badScratch = [] ∧ (∀ th, (t.thread th).bad = []) ∧ ∀ g, (t.group g).bad = []) → u.reportSpoilt i = u) ∧
      ∀ (sp : WordSpec) (c : Ctx), u.Issues i sp c →
        ((∃ ws l, c.b.wait = .barw ws l) → u.reportSpoilt i = u) ∧
        ((∀ ws l, c.b.wait ≠ .barw ws l) →
        let met (th n : Nat) : Bool := if n < 768 ∨ (1152 ≤ n ∧ n < 1280) then (c.t.thread th).bad.contains n
          else (c.t.group (c.t.groupOf th)).bad.contains n
        let bad := c.b.members.filter (fun th => (sp.guard.g && met th (1152 + sp.guard.p)) ||
          (c.act.contains th && (sp.readsTiles.any (fun a => c.t.badTiles.contains a) ||
            (sp.reads c th).any (fun x => met x.1 x.2))))
        let v := (sortUp (bad.map c.t.groupOf)).foldl (fun u g => u.report c.tk g
          (asyncInfo 0x30 (c.t.mask (bad.filter (fun th => c.t.groupOf th = g))) 0 0 c.b.pc c.b.widx)) u
        u.reportSpoilt i = (sp.scratch c).foldl (fun u x =>
          match x.2.find? (fun a => c.t.badScratch.contains (lineOf a)) with
          | some a => u.report c.tk (c.t.groupOf x.1)
              (asyncInfo 0x30 (c.t.mask [x.1]) (lineOf a * 128) 0 c.b.pc c.b.widx)
          | none => u) v)

/-- Right after reset the module's memory reads zero, no partition has an owner, every array is erased, no team is
resident, no launch is known, and every window offset reads zero (R105, R332); the module's, the pools' and the host's
memory are in their canonical form. Zero memory and tables before bring-up are the model's choice (log 4), and so are
the bytes of pools and flash (log 3); R105 and R332 speak of bring-up. -/
def Obligations.ResetState : Prop :=
  State.reset.Canonical ∧
  (∀ a, State.reset.byte a = 0) ∧ (∀ p, (State.reset.part p).owned = false) ∧ (∀ k, (State.reset.array k).ast = 0) ∧
  (∀ tk, State.reset.team tk = none) ∧ State.reset.launches = [] ∧ (∀ fn off, State.reset.windowRead fn off = 0)

/-- Every step keeps the module's, the pools' and the host's memory in their canonical form: addresses strictly rising,
and no entry with what an unlisted byte reads as. -/
def Obligations.StepKeepsCanonical : Prop :=
  ∀ s t : State, s.Canonical → step s = .next t → t.Canonical

/-! ### Issue, operands, frames -/

/-- The checks of a word in their order: the first failing one is the trap taken, precise at the word; a word that
passes steps 2 to 8 and has to wait, for a queue port, for a VSET of one of its groups that is parked and fills a view
register which the word names, or by its entry, stands there; then its accesses are checked, and the pages that they
touch are mapped whatever the answer is. While such a VSET is parked, a check of step 8 that may read the register is
not made yet, which is the model's reading (log 118) (R107, R122, R125, R165, R166, R179, R234). The guard's predicate
after the other fields, CODE naming the first that fails (log 17), and a demand page mapped whatever the answer is (log
71), are the model's. -/
def Obligations.ChecksInOrder : Prop :=
  ∀ (s : State) (i : Instr) (w : WordSpec) (c : Ctx), s.Stands i w c →
    let illegal : TrapInfo := { cause := 0x01, mask := c.t.mask c.act }
    let gd : Field := ⟨4, w.guard.p, .predNumber⟩
    let bad := w.fields.find? (fun f => !f.shape.ok c.t.decl f.value)
    let expected : Option TrapInfo :=
      if c.classOk w.op = false ∨ (w.transfer = true ∧ c.b.idx + 1 ≠ c.b.count) ∨ w.form c = false then some illegal
      else if w.viewStore = true then some { cause := 0x0A, mask := c.t.mask c.act }
      else match bad with
        | some f => some { cause := 0x03, mask := c.t.mask c.act, code := BitVec.ofNat 32 (f.code + f.value % 2048 * 16) }
        | none =>
          if w.guard.g = true ∧ c.t.decl.preds ≤ w.guard.p then
            some { cause := 0x03, mask := c.t.mask c.act, code := BitVec.ofNat 32 (gd.code + gd.value % 2048 * 16) }
          else match w.policy c with
            | some x => some x
            | none => match w.own c with
              | some x => if c.viewPending w.fields = true ∧ x.cause ≠ 0x09 then none else some x
              | none => none
    (∀ x, expected = some x → exec i s = .next (raiseTrap s c.tk c.bi x)) ∧
    (c.viewPending w.fields = true ↔ ∃ j b, j ≠ c.bi ∧ c.t.bundle j = some b ∧ fld b.stopWord 63 56 = 0x91 ∧
      (∃ f ∈ w.fields, f.code = 5 ∧ f.value = fld b.stopWord 33 23) ∧
      ∃ y ∈ b.frozen, c.t.groupOf y.thread ∈ c.present) ∧
    (c.portsReady w.srcs w.dst = false ∨ c.viewPending w.fields = true ∨ w.stall c = true ↔ c.stalls w = true) ∧
    (expected = none → c.stalls w = true → exec i s = .next (s.setTeam c.tk
      (c.t.mapBundle c.bi (fun b => { b with wait := .stalled })))) ∧
    (expected = none → c.stalls w = false →
      (∀ x, w.access c = .trap x → exec i s = .next (raiseTrap (w.touch c) c.tk c.bi x)) ∧
      (∀ k ths a wr, w.access c = .replay k ths a wr →
        exec i s = .next (({ c with s := w.touch c } : Ctx).park w k ths a wr)) ∧
      (w.access c = .pass → exec i s = .next (w.run c)))

/-- What a 32-bit source field gives a lane: a register with its tag, the element of its home lane in a pipe's head
entry, the oldest notice, the same element of the oldest entry of a reply port that is addressed to its group, a
special register, a predicate, an inline constant or a table constant; what a table constant gives an F16x2 or BF16x2
word; and a pair (R69, R70, R78, R81 to R85, R107, R109, R111). What a destination field takes: per active lane a
vector register with its tag, a predicate or %fctl or %fstat, per group the value of its lowest-numbered active lane,
and one entry of a pipe with zero for the other lanes (R69, R77, R78, R83, R107). -/
def Obligations.Operands : Prop :=
  (∀ (c : Ctx) (th n : Nat), c.b.frozen = [] →
     let g := c.t.groupOf th
     let lane := c.t.laneOf th
     let core := c.t.coreOf g
     let d := c.t.decl
     let word (x : Nat) : Word := BitVec.ofNat 32 x
     let table : List Nat :=
       [0x00000000, 0x80000000] ++ (List.range 17).map (fun k => 0x3B800000 + k * 0x800000) ++
       [0xBF800000, 0xC0000000, 0xBF000000, 0x40400000, 0x41200000, 0x3DCCCCCD, 0x3F3504F3, 0x3FB504F3, 0x3F9837F0,
        0x3FD744FD, 0x3F8C1BF8, 0x3FA69E72, 0x3FC624F8, 0x3FEBA27E, 0x40490FDB, 0x3FC90FDB, 0x40C90FDB, 0x3EA2F983] ++
       [0x402DF854, 0x3F317218, 0x3FB8AA3B, 0x40549A78, 0x3E9A209B, 0x3EAAAAAB, 0x7F800000, 0xFF800000, 0x7FC00000,
        0x7F7FFFFF, 0xFF7FFFFF, 0x00800000, 0x00000001, 0x43E00000, 0xC3E00000, 0x47600000, 0x477FE000, 0x7F7F0000] ++
       [0x47800000, 0x37800000, 0x33800000, 0x4B000000, 0x4F000000, 0x42FE0000, 0x437F0000, 0x3FC00000, 0x3F400000]
     (n < 768 → c.src th n = c.t.vreg th n) ∧
     (768 ≤ n → n < 1024 → c.src th n = (c.t.ureg g (n - 768), false)) ∧
     (1024 ≤ n → n < 1040 → c.src th n = (Sparse.get ((c.t.pipe (n - 1024)).headD []) 0 lane, false)) ∧
     c.src th 1040 = (c.t.notices.headD 0, false) ∧
     (1041 ≤ n → n < 1048 → ∀ r rest, c.t.replies.filter (fun r => r.1 = n - 1024 && r.2.1 = g) = r :: rest →
       c.src th n = (Sparse.get r.2.2 0 lane, false)) ∧
     (List.range 23).map (fun k => c.src th (1088 + k)) =
       ([word lane, word g, c.t.index, word (th % d.teamX), word (th / d.teamX % d.teamY), word (th / (d.teamX * d.teamY)),
         word c.t.teamX, word c.t.teamY, word c.t.teamZ, word c.t.gridX, word c.t.gridY, word c.t.gridZ] ++
        [word core, word (core / 40), word (core / 10),
         word (d.scratchKB * 2 ^ 16 + d.acc * 2 ^ 8 + (if d.pair then 128 else 0) + d.width),
         word (d.views * 2 ^ 27 + d.preds * 2 ^ 19 + d.sregs * 2 ^ 10 + d.vregs),
         (c.t.thread th).rm.setWidth 32, (c.t.thread th).fstat.setWidth 32, (c.t.group g).trapcause, (c.t.group g).trapidx,
         (c.t.group g).skidReg, if c.t.yieldreq then 1 else 0]).map (fun x => (x, false)) ∧
     (c.pair th 1112, c.pair th 1114, c.pair th 1116) =
       (BitVec.ofNat 64 (c.s.cycle core), c.t.args, (c.t.group g).trapaddr) ∧
     (∀ k, 1112 ≤ k → k < 1118 → c.tag th k = false) ∧
     (1152 ≤ n → n < 1280 → c.src th n = (if (c.t.thread th).pred (n - 1152) then 1 else 0, false)) ∧
     (1280 ≤ n → n < 1536 → c.src th n = (word (n - 1280), false)) ∧
     (1536 ≤ n → n < 1600 → c.src th n = (word (table.getD (n - 1536) 0), false)) ∧
     (∀ m, c.valF 0 th n = c.val th n ∧ (n < 1536 → c.valF m th n = c.val th n) ∧
       ((m = 1 ∨ m = 2) → 1536 ≤ n → n < 1600 →
         let F := if m = 1 then Fmt.fp16 else Fmt.bf16
         let r := (F.roundVal .rne (Fmt.fp32.decode (table.getD (n - 1536) 0))).bits
         c.valF m th n = word (r + r * 65536))) ∧
     (n < 1279 → c.pair th n = c.val th (n + 1) ++ c.val th n) ∧
     (1280 ≤ n → c.pair th n = (c.val th n).setWidth 64)) ∧
  (∀ (c : Ctx) (d : Nat) (res : Nat → Res), (∀ th, th ∈ c.act → th < c.t.threads.length) →
     (∀ g, g ∈ c.groups → g < c.t.groups.length) →
     let u := c.write c.t d res
     (∀ th, th ∈ c.act →
       (d < 768 → u.vreg th d = ((res th).value, (res th).tag)) ∧
       (1152 ≤ d → d < 1280 → (u.thread th).pred (d - 1152) = ((res th).value != 0)) ∧
       (d = 1105 → (u.thread th).rm = (res th).value.setWidth 2) ∧
       (d = 1106 → (u.thread th).fstat = (res th).value.setWidth 5)) ∧
     (∀ th, th ∉ c.act → u.thread th = c.t.thread th) ∧
     (768 ≤ d → d < 1024 → ∀ g, g ∈ c.groups → u.ureg g (d - 768) = (res (c.leader g)).value) ∧
     (∀ g, g ∉ c.groups → u.group g = c.t.group g) ∧
     (1024 ≤ d → d < 1040 → c.act ≠ [] → ∃ e, u.pipe (d - 1024) = c.t.pipe (d - 1024) ++ [e] ∧
       (∀ l, (∀ th, th ∈ c.act → c.t.laneOf th ≠ l) → Sparse.get e 0 l = 0) ∧
       (∀ th, th ∈ c.act → (∀ y, y ∈ c.act → c.t.laneOf y = c.t.laneOf th → y = th) →
         Sparse.get e 0 (c.t.laneOf th) = (res th).value)))

/-- What a register word leaves unchanged: memory and everything outside its team; of the team every register but its
destination (the second number of a pair, the carry or the 32 predicates it names, %fstat for a FLT word), every pipe
but those it names, and all that no register word writes. -/
def Obligations.RegisterFrame : Prop :=
  ∀ (w : RWord) (iw : IWord) (lit : DWord) (i : Instr) (ds : List Nat),
    let d := w.d.toNat
    let one : List Instr := [.mov w, .movx w, .ubcast w, .lanex w, .sel w, .bysel w, .iadd w, .isub w, .imul w,
      .imulh w, .imad w, .idiv w, .irem w, .imin w, .imax w, .iabs w, .ineg w, .and w, .or w, .xor w, .andn w, .bitf3 w,
      .shl w, .shr w, .rot w, .bfx w, .bfi w, .popc w, .clz w, .brev w, .icmp w, .plop w, .pvote w, .elect w]
    let flt : List Instr := [.fadd w, .fsub w, .fmul w, .ffma w, .fmin w, .fmax w, .fabs w, .fneg w, .fcmp w, .fclass w,
      .frnd w, .frcp w, .frsq w, .fsqrt w, .fexp2 w, .flog2 w, .fsin w, .fcos w, .fdiv w, .cvt w, .rqnt w, .redg w,
      .scang w, .bsmax w]
    let others : List (Instr × List Nat) := [(.nop w, []), (.movi iw, [iw.d.toNat]), (.movs w, [d, d + 1]),
      (.movw w lit, if w.m = 1 then [d, d + 1] else [d]), (.movxs w, List.range 768), (.lea w, [d, d + 1]),
      (.iaddc w, [1152 + fld w.c 6 0, d]), (.pmov w, if w.m = 1 then (List.range 32).map (d + ·) else [d]),
      (.bra iw, []), (.brx w, []), (.jmp w, []), (.call iw, [iw.d.toNat, iw.d.toNat + 1]), (.ret w, []), (.regrp w, []),
      (.admitWord w, if w.m = 1 then [d, d + 1] else [d]), (.btag w, [d])]
    (i, ds) ∈ one.map (fun i => (i, [d])) ++ flt.map (fun i => (i, [d, 1106])) ++ others →
    ∀ (s : State) (sp : WordSpec) (c : Ctx), s.Issues i sp c →
      ∃ u, exec i s = .next (s.setTeam c.tk u) ∧ c.t.SameRest u ∧ c.t.SameRegs u (fun n => ds.contains n) ∧
        (∀ q, q < 16 → (1024 + q) ∉ ds ++ sp.srcs → u.pipe q = c.t.pipe q) ∧
        ∀ a, (s.setTeam c.tk u).byte a = s.byte a

/-! ### Events -/

/-- CLAUSE_FETCH: a bundle of a running team that stands at a header takes the clause that its core has fetched there,
or fetches it; what is fetched has passed the checks, a failing one is a trap at the header, a residency fault parks
the bundle, and a closed gate is a fault that its group meets. A clause is held at its header, each group's threads in
a bundle of their own but at a regroup point without a convergent word; after a restore it goes on at its word (R26,
R28, R30, R164, R167, R300). CLAUSE_START: an alcove without a bundle that stands ready inside a clause starts its
first ready bundle: the highest launch priority, then the longest since its last start, then the lowest group (R295). A
convergent clause starts with every parked bundle of the group at its header joined (R30); another one as the bundle
stands, or with threads that the core packs into it: in distinct home lanes, of bundles that stand ready at the same
header, none of them restored inside its clause, whole bundles of one group or all of them at a regroup point (R26,
R28). CONVERGENCE_TRAP: where every live thread of a group is parked, at more than one header, the bundles at the
header of its lowest thread are joined and take 0x05 (R31). A mixed bundle parts by group where it takes a clause,
which is the model's reading (log 16; R26 also says that a bundle splits only at a branch). -/
def Obligations.Clauses : Prop :=
  (∀ (s : State) (tk bi : Nat) (t : Team) (b : Bundle),
     s.team tk = some t → t.bundle bi = some b → t.runs b = true → b.clause = none → b.held = none → b.wait = .ready →
     b.members ≠ [] →
     let core := t.coreOf (t.groupOf (b.members.headD 0))
     let known := (s.core core).fetched.find? (fun f => f.ctx = t.ctx && f.pc = b.pc)
     (∀ f, known = some f → exec (.clauseFetch tk bi) s = .next (s.setTeam tk (t.takeClause bi b f.clause))) ∧
     (known = none →
       (∀ c u, s.fetch t (coreDie core) b.pc = (.clause c, u) →
         exec (.clauseFetch tk bi) s = .next ((u.setCore core { u.core core with
           fetched := (u.core core).fetched ++ [⟨t.ctx, b.pc, c⟩] }).mapTeam tk (fun t => t.takeClause bi b c)) ∧
         headerOk c.header = true ∧ c.words.length = headerCount c.header ∧ (wordsOf 0 0 c.words).isSome = true) ∧
       (∀ x a code h u, s.fetch t (coreDie core) b.pc = (.trap x a code h, u) →
         exec (.clauseFetch tk bi) s = .next (raiseTrapAt u tk bi
           { cause := x, mask := t.mask b.members, addr := if x = 0x02 then 0 else BitVec.ofNat 64 a, code := code }
           0xFFFFFFFF h)) ∧
       (∀ k a u, s.fetch t (coreDie core) b.pc = (.wait k a, u) → u.faultBuffer core < 64 →
         exec (.clauseFetch tk bi) s = .next ((u.mapTeam tk (fun t => t.mapBundle bi (fun b =>
           { b with wait := .fetchReplay a }))).postMigration (coreDie core)
             { ctx := t.ctx, vi := t.vi, va := BitVec.ofNat 64 a })) ∧
       (∀ a q u, s.fetch t (coreDie core) b.pc = (.rejected a q, u) →
         exec (.clauseFetch tk bi) s = .next (u.report tk (t.groupOf (b.members.headD 0))
           (asyncInfo 0x16 (t.mask b.members) a (BitVec.ofNat 32 q) b.pc 0xFFFFFFFF)))) ∧
     (∀ c : Clause, b.resume = none →
       (c.convergentAt = none → b.regroup = true ∨ c.header.getLsbD 8 = true →
         t.takeClause bi b c = t.mapBundle bi (fun _ => { b with held := some c, wait := .ready, parked := false })) ∧
       (c.convergentAt ≠ none ∨ (b.regroup = false ∧ c.header.getLsbD 8 = false) →
         ∀ (g : Nat) (gs : List Nat), sortUp (b.members.map t.groupOf) = g :: gs →
           let part (g : Nat) : Bundle := { b with
             members := b.members.filter (fun th => t.groupOf th = g), held := some c, wait := .ready
             parked := c.convergentAt.isSome }
           let u := t.mapBundle bi (fun _ => part g)
           t.takeClause bi b c = { u with bundles := u.bundles ++ gs.map part })) ∧
     ∀ (c : Clause) (i : Nat), b.resume = some i → i < c.words.length →
       t.takeClause bi b c = t.mapBundle bi (fun b => { b with clause := some c, idx := i, resume := none })) ∧
  ((∀ (s : State) (core alcove tk bi : Nat) (t : Team) (b : Bundle) (c : Clause),
     s.alcoveBusy core alcove = false → firstToStart (s.startable core alcove) = some (tk, bi) → s.team tk = some t →
     t.bundle bi = some b → b.held = some c →
     let started (t : Team) : Team := t.mapBundle bi (fun b =>
       { b with clause := some c, idx := 0, held := none, parked := false, regroup := false, going := true,
                age := s.cycle core })
     (c.convergentAt = none →
       exec (.clauseStart core alcove []) s = .next (s.setTeam tk (started t)) ∧
       ∀ threads u b', t.pack bi c threads = some u → u.bundle bi = some b' → u.canStart b' = true →
         exec (.clauseStart core alcove threads) s = .next (s.setTeam tk (started u))) ∧
     (c.convergentAt ≠ none → ∀ threads,
       exec (.clauseStart core alcove threads) s =
         .next (s.setTeam tk (started (t.join bi (t.standing (t.groupOf (b.members.headD 0)) b.pc)))))) ∧
   (∀ (t u : Team) (bi : Nat) (b : Bundle) (c : Clause) (threads : List Nat),
     t.bundle bi = some b → t.pack bi c threads = some u →
     (∃ b', u.bundle bi = some b' ∧ b'.members = sortUp threads) ∧ (threads.map t.laneOf).Nodup ∧
     (∀ th, th ∈ threads → ∃ x, x ∈ t.bundles ∧ th ∈ x.members) ∧
     (∀ x, x ∈ t.bundles → (∃ th, th ∈ threads ∧ th ∈ x.members) →
       x.pc = b.pc ∧ x.clause = none ∧ x.resume = none ∧ x.wait = .ready ∧ x.handler = b.handler) ∧
     (((∃ g, ∀ th, th ∈ threads → t.groupOf th = g) ∧
         ∀ x, x ∈ t.bundles → (∃ th, th ∈ threads ∧ th ∈ x.members) → ∀ th, th ∈ x.members → th ∈ threads) ∨
       ∀ x, x ∈ t.bundles → (∃ th, th ∈ threads ∧ th ∈ x.members) → x.regroup = true ∨ c.header.getLsbD 8 = true)) ∧
   (∀ (l : List (Nat × Nat × Nat × Nat × Nat)) (k i : Nat), firstToStart l = some (k, i) →
     ∃ prio age g, (prio, age, g, k, i) ∈ l ∧ ∀ y, y ∈ l →
       y.1 < prio ∨ (y.1 = prio ∧ (age < y.2.1 ∨ (age = y.2.1 ∧ g ≤ y.2.2.1)))) ∧
   (∀ (s : State) (tk g bi low other : Nat) (t : Team) (b : Bundle) (rest more : List Nat), s.team tk = some t →
     let parked := t.parkedOf g
     let at_ (th : Nat) : Option (Nat × Bundle) := parked.find? (fun x => x.2.members.contains th)
     t.liveOf g = low :: rest → at_ low = some (bi, b) → t.runs b = true → (∀ th, th ∈ t.liveOf g → (at_ th).isSome) →
     (t.liveOf g).filter (fun th => !(parked.any (fun x => x.2.pc = b.pc && x.2.members.contains th))) = other :: more →
     let w := (b.held.bind Clause.convergentAt).getD (0, 0)
     let u := t.join bi (t.standing g b.pc)
     exec (.convergenceTrap tk g) s = .next (raiseTrapAt (s.setTeam tk u) tk bi
       { cause := 0x05, mask := u.mask (((u.bundle bi).map (·.members)).getD [])
         addr := ((at_ other).map (fun x => x.2.pc)).getD 0 }
       (BitVec.ofNat 32 w.1) w.2)))

/-- COUNTED_WORD_COMPLETION: a word whose lanes have their values writes its destinations, its flag falls in every
group that it counted, and it is gone (R140, R142); a lane that has no value yet takes it first, an MSTS waits for its
store (R216). What a lane takes, byte by byte: its thread's own latest accepted store where one is not performed yet;
else scratch as it stands; else the copy in its core's L1, or the slice; of a chained page the copy of the step that
serves it, or the tail's where the line is dirty there (R91, R102, R227, R271, R272). A line with an error leaves the
destination and is reported (R103, R303), ADDR its physical line, which is the model's choice (log 101); which words
meet a line with an error is the model's reading (log 100). What a load writes: D takes its bytes zero-extended, or
sign-extended with SX; a pair of registers takes 64 bits and four take 128, the lowest register the lowest bytes; of an
L6 load element k is byte k mod 4 of register D + k div 4; the tags are clear (R228, R230).
ENGINE_OPERATION_RETIREMENT: the oldest operation of a class retires once it has ended, in issue order (R144, R145).
STORE_COMMIT: a store that nothing holds is performed (R283); a store of a handler follows, at its bytes, one that R284
holds until the return, which is the model's choice (log 112). A word with a pipe as destination pushes its entry as it
completes, unless the pipe has served a later alcove in the cycle (R107, R108). -/
def Obligations.Completions : Prop :=
  ∀ s : State,
    (∀ (id : Nat) (threads : List Nat) (w : CWord) (t : Team), s.word id = some w → s.team w.team = some t →
      (∀ l, l ∈ w.lanes → l.taken.isSome = true ∧ l.thread ∈ threads) →
      (∀ x, x ∈ w.writes → isPipe x.reg = false ∧ x.thread ∈ threads) →
      w.projs = [] → w.calls = [] → w.tile = none → w.markings = [] → w.pipe = none →
      (∀ st, st ∈ s.stores → st.word ≠ w.id) →
      let values := (threads.filter (fun th => w.lanes.any (fun l => l.thread = th))).flatMap (fun th =>
        w.laneWrites th ((w.value th).getD 0))
      exec (.countedWordCompletion id threads) s = .next { s.setTeam w.team
        (((values ++ w.writes).foldl Team.writeReg t).lowerFlag w.groups w.flag) with
          words := s.words.filter (fun x => x.id ≠ id) }) ∧
    (∀ (id : Nat) (w : CWord) (t : Team) (l : Lane), s.word id = some w → s.team w.team = some t → w.lanes = [l] →
      l.taken = none → l.rmw = false → l.place.chain = none → s.gateOpen t.vi l.place = true →
      s.acquiring w.team l.thread id = false → s.untaken w.team l.thread id = [] →
      exec (.countedWordCompletion id [l.thread]) s = exec (.countedWordCompletion id [l.thread]) (s.takeLane w l)) ∧
    (∀ (w : CWord) (t : Team) (l : Lane), s.word w.id = some w → s.team w.team = some t →
      let p := l.place
      let core := s.core (t.coreOf (t.groupOf l.thread))
      (∀ a, s.badLine t (t.coreOf (t.groupOf l.thread)) p = some a →
        s.takeLane w l = (s.setWord { w with lanes := w.lanes.filter (fun x => x.thread ≠ l.thread) }).report w.team
          (t.groupOf l.thread) (asyncInfo 0x30 (t.mask [l.thread]) a 0 w.clause w.widx)) ∧
      (s.badLine t (t.coreOf (t.groupOf l.thread)) p = none → ∃ v,
        (s.takeLane w l).word w.id = some { w with lanes := w.lanes.map (fun x =>
          if x.thread = l.thread && x.off = l.off then { x with taken := some v } else x) } ∧
        ∀ n a, p.bytes[n]? = some a →
          let own := s.stores.filter (fun st => st.team = w.team && st.id < w.id && st.stranded.isNone && st.rmw.isNone &&
            (st.thread = l.thread || st.tile = some (t.groupOf l.thread)) && st.place.scratch = p.scratch &&
            st.place.chain = p.chain && st.place.bytes.contains a)
          let gives (b : Byte) : Prop := v / 256 ^ n % 256 = b.toNat
          (∀ (st : Store) (k : Nat) (b : Byte), own.getLast? = some st → st.place.bytes.Nodup → st.place.bytes[k]? = some a → st.data[k]? = some b →
            gives b) ∧
          (own = [] →
            (p.scratch = true → gives (t.scratch.read a)) ∧
            (p.scratch = false → p.chain = none →
              (∀ c, core.l1.find? (fun c => c.line = lineOf a) = some c → gives (Sparse.get c.data 0 (a % 128))) ∧
              ((∀ c, c ∈ core.l1 → c.line ≠ lineOf a) → gives (s.byte a))) ∧
            (p.scratch = false → p.write = false → ∀ f e k d q b, p.chain = some (f, e) →
              (s.flight f).entered p = some (k, d, q) →
              (if s.chainDirty.contains (d, f, e, a / 128) then s.tailAddr f e a else s.chainAddr (s.flight f) e d a) =
                some b → gives (s.byte b))))) ∧
    (∀ (id : Nat) (w : CWord) (t : Team) (st : Store), s.word id = some w → s.team w.team = some t →
      w.lanes = [] → w.writes = [] → w.projs = [] → w.calls = [] → w.tile = none → w.markings = [] → w.pipe = none →
      s.stores = [st] → st.word = id → st.team = w.team → st.tile.isSome = true → st.place.scratch = true →
      st.stranded = none → t.heldStore st = false → (∀ th, th ∈ st.threads t → s.untaken st.team th st.word = []) →
      ∃ u, exec (.countedWordCompletion id []) s = .next u ∧
        (s.mayCommit t st = true → u.word id = none ∧ u.stores = [] ∧
          u.team w.team = ((s.perform t st).team w.team).map (fun t => t.lowerFlag w.groups w.flag)) ∧
        (s.mayCommit t st = false → u.word id = some w ∧ u.stores = [st] ∧ u.team w.team = some t)) ∧
    (∀ (w : CWord) (th x : Nat) (l : Lane), w.lanes.find? (fun l => l.thread = th) = some l →
      let write (reg : Nat) (v : Int) : RegWrite := { thread := th, reg := reg, value := BitVec.ofInt 32 v, tag := false }
      (w.lanes.filter (fun l => l.thread = th) = [l] → l.off = 0 → w.value th = l.taken) ∧
      (∀ d, l.regs = [d] → w.l6 = false → x < 2 ^ 32 →
        (w.signed = false → w.laneWrites th x = [write d x]) ∧
        (w.signed = true → w.size = 1 ∨ w.size = 2 → x < 2 ^ (8 * w.size) →
          w.laneWrites th x = [write d (if x < 2 ^ (8 * w.size - 1) then x else (x : Int) - 2 ^ (8 * w.size))])) ∧
      (∀ d, l.regs = [d, d + 1] → w.l6 = false → w.signed = false →
        w.laneWrites th x = [write d x, write (d + 1) (x / 2 ^ 32 : Nat)]) ∧
      (∀ d, l.regs = [d, d + 1, d + 2, d + 3] → w.l6 = false → w.signed = false →
        w.laneWrites th x = (List.range 4).map (fun i => write (d + i) (x / 2 ^ (32 * i) : Nat))) ∧
      (∀ d, l.regs = [d, d + 1, d + 2, d + 3] → w.l6 = true → ∃ vs : List Word, vs.length = 4 ∧
        w.laneWrites th x = vs.zipIdx.map (fun v => { thread := th, reg := d + v.2, value := v.1, tag := false }) ∧
        ∀ k, k < 16 → (vs.getD (k / 4) 0).toNat / 2 ^ (8 * (k % 4)) % 256 = x / 2 ^ (6 * k) % 64)) ∧
    (∀ (t : Team) (x : RegWrite), x.thread < t.threads.length → t.groupOf x.thread < t.groups.length →
      (x.reg < 768 → (t.writeReg x).vreg x.thread x.reg = (x.value, x.tag)) ∧
      (768 ≤ x.reg → x.reg < 1024 → (t.writeReg x).ureg (t.groupOf x.thread) (x.reg - 768) = x.value)) ∧
    (∀ (tk g cls : Nat) (o : Op), s.oldestOp tk g cls = some o →
      (s.opEnded o = true → exec (.engineOperationRetirement tk g cls) s =
        .next { s.mapTeam tk (fun t => t.retire o) with ops := s.ops.filter (fun x => x.id ≠ o.id) }) ∧
      (s.opEnded o = false → exec (.engineOperationRetirement tk g cls) s = .next s)) ∧
    (∀ (id q : Nat) (threads : List Nat) (w : CWord) (t : Team), s.word id = some w → s.team w.team = some t →
      w.lanes = [] → (∀ x, x ∈ w.writes → isPipe x.reg = true) → w.projs = [] → w.calls = [] → w.tile = none →
      w.markings = [] → w.pipe = some q → (∀ st, st ∈ s.stores → st.word ≠ w.id) →
      let rank := w.lead % 4 + 4 * (t.coreOf w.lead - t.core)
      let served := Sparse.get t.pipeUsed (0, 0) q
      ∃ u, exec (.countedWordCompletion id threads) s = .next u ∧
        (served.1 = s.cycle t.core ∧ rank < served.2 → u.word id = some w ∧ u.team w.team = some t) ∧
        (¬(served.1 = s.cycle t.core ∧ rank < served.2) → u.word id = none ∧ u.team w.team = some ({ t with
          pipes := Sparse.put t.pipes [] q (t.pipe q ++
            [w.writes.foldl (fun (e : Sparse Word) (x : RegWrite) => Sparse.put e 0 (t.laneOf x.thread) x.value) []])
          pipeUsed := Sparse.put t.pipeUsed (0, 0) q (s.cycle t.core, rank) }.lowerFlag w.groups w.flag))) ∧
    (∀ (id : Nat) (x st : Store) (t : Team), s.stores.find? (fun x => x.id = id) = some st → s.team st.team = some t →
      (∀ y, y ∈ s.resWrites → y.id ≠ id) → (∀ th, th ∈ st.threads t → s.untaken st.team th st.word = []) →
      t.heldStore st = false → s.heldUnder t st = [x] → s.mayEnter t x = true → s.inOrder t x = true →
      let u := s.perform t x
      u.mayCommit t st = true → u.inOrder t st = true → exec (.storeCommit id) s = .next (u.perform t st)) ∧
    (∀ (id : Nat) (st : Store) (t : Team), s.stores.find? (fun x => x.id = id) = some st → s.team st.team = some t →
      (∀ y, y ∈ s.resWrites → y.id ≠ id) → (∀ th, th ∈ st.threads t → s.untaken st.team th st.word = []) →
      (∀ x, x ∈ s.stores → x.id < st.id → t.heldStore x = false) →
      (s.mayCommit t st = true → s.blockedStore st = false → exec (.storeCommit id) s = .next (s.perform t st)) ∧
      (s.mayCommit t st = false ∨ s.blockedStore st = true → exec (.storeCommit id) s = .next s))

/-- BRIDGE_GATE_REJECT: a store that the gate of its partition drops is gone, a load that it drops keeps its
destination, and the fault 0x16 is held with its team; the gate asks for OWNED and the packet's VI, a chained access's
flight OWNER, the tail's gate too for a query to it (R130, R303); ADDR is the global address (log 102). An
acknowledgement on its way back meets the gate of the next step that it passes: it goes no further there, and its fault
is held (R16, R130), which is the model's reading (log 106). DIRTY_LINE_QUERY: the tail answers a load of a line that
the serving step holds dirty (R102). FORMAT_EMULATION: the oldest emulated word of its tile enters the tile (R316).
GROUP_CALL_SERVICE: the control core serves its oldest record, its reply is in flight to the word, and the reply
acquires at .ten (R264, R320). In this model a service has no effect beyond its replies (log 8): those to the word, and
entries for reply ports, which wait at the die while a port holds 8 (R106, R111; log 103). -/
def Obligations.ServiceEvents : Prop :=
  ∀ s : State,
    (∀ (id th : Nat) (st : Store) (t : Team), s.stores.find? (fun x => x.id = id) = some st →
      s.landing.find? (fun y => y.id = id && !s.entryGate y) = none →
      s.acks.find? (fun a => a.id = id && !s.ackGate a) = none → st.rmw = none →
      s.team st.team = some t → s.anyTeam st.team = some t → ∀ q, s.closedPart t.vi st.place = some q →
      exec (.bridgeGateReject id th) s = .next { s.report st.team (t.groupOf st.thread)
        (asyncInfo 0x16 (t.mask [st.thread]) st.va.toNat (BitVec.ofNat 32 q) st.clause st.widx) with stores := s.stores.filter (fun x => x.id ≠ id) }) ∧
    (∀ (id th q : Nat) (w : CWord) (t : Team) (l : Lane), s.word id = some w → s.team w.team = some t →
      s.anyTeam w.team = some t →
      s.landing.find? (fun y => y.id = id && !s.entryGate y) = none →
      s.acks.find? (fun a => a.id = id && !s.ackGate a) = none → s.stores.find? (fun x => x.id = id) = none →
      w.lanes.find? (fun l => l.thread = th && l.taken.isNone && !s.gateOpen t.vi l.place) = some l →
      s.closedPart t.vi l.place = some q →
      exec (.bridgeGateReject id th) s = .next ((s.setWord { w with
        lanes := w.lanes.filter (fun x => x.thread ≠ th) }).report w.team (t.groupOf th)
          (asyncInfo 0x16 (t.mask [th]) l.va.toNat (BitVec.ofNat 32 q) w.clause w.widx))) ∧
    (∀ (id th d q : Nat) (ds : List Nat) (a : Ack) (t : Team), a.dies = d :: ds → (s.flight a.flight).quadOf d = some q →
      s.anyTeam a.team = some t → s.landing.find? (fun y => y.id = id && !s.entryGate y) = none →
      (s.ackGate a = true ↔
        (s.part (4 * d + q)).owned = true ∧ (s.part (4 * d + q)).vi = (s.flight a.flight).owner) ∧
      (s.acks.find? (fun a => a.id = id && !s.ackGate a) = some a →
        exec (.bridgeGateReject id th) s = .next ({ s with acks := s.acks.erase a }.report a.team (t.groupOf a.thread)
          (asyncInfo 0x16 (t.mask [a.thread]) a.va.toNat (BitVec.ofNat 32 (4 * d + q)) a.clause a.widx)))) ∧
    (∀ (vi q : Nat) (p : Place),
      let sender := match p.chain with
        | some (f, _) => (s.flight f).owner
        | none => vi
      let lets (q : Nat) : Prop := (s.part q).owned = true ∧ (s.part q).vi = sender
      (s.gateOpen vi p = true ↔ ∀ q, s.placePart p = some q ∨ s.queryPart p = some q → lets q) ∧
      (s.placePart p = some q → ¬ lets q → s.closedPart vi p = some q) ∧
      ∀ f e k d x j t y, p.chain = some (f, e) → (s.flight f).entered p = some (k, d, x) →
        (s.flight f).tail = some (j, t, y) → p.write = false → t ≠ d →
        (∃ o ∈ p.bytes, (d, f, e, o / 128) ∈ s.chainDirty) → s.queryPart p = some (4 * t + y)) ∧
    (∀ (id th : Nat) (w : CWord) (t : Team) (l : Lane), s.word id = some w → s.team w.team = some t →
      w.lanes.filter (fun l => l.thread = th && l.taken.isNone && l.place.chain.isSome) = [l] →
      s.gateOpen t.vi l.place = true → s.takeReady t w.team th id l.place = true → s.untaken w.team th id = [] →
      exec (.dirtyLineQuery id th) s = .next (s.takeLane w l)) ∧
    (∀ (id tk : Nat) (t : Team) (e : Emulated) (before after : List Emulated),
      s.teams.find? (fun kt => kt.2.emulated.any (fun e => e.id = id)) = some (tk, t) → s.team tk = some t →
      t.emulated = before ++ e :: after → e.id = id → (∀ x, x ∈ before → x.id ≠ id ∧ x.tile ≠ e.tile) →
      (s.die (coreDie t.core)).switching = false →
      (∀ w, w ∈ s.words → w.team = tk → w.id < id → w.tile ≠ some e.tile) →
      exec (.formatEmulation id) s = .next (s.setTeam tk { t.setTile e.tile
        (fun i j => mmaElem e.format (if e.accumulate then t.tileElem e.tile i j else 0) e.fragA e.fragB i j)
        (e.tag || (e.accumulate && t.tileTag e.tile)) with
          emulated := t.emulated.filter (fun x => x.id ≠ id) })) ∧
    (∀ (die : Nat) (r : Call) (rest : List Call) (w : CWord) (t : Team), (s.die die).service = r :: rest →
      (s.die die).switching = false → s.word r.word = some w → s.team r.team = some t →
      let lanes := if 768 ≤ r.dest ∧ r.dest < 1024 then r.lanes.take 1 else r.lanes
      let ws := lanes.map (fun l => { thread := l.2.1, reg := r.dest, tag := false
                                      value := (s.die die).reply r.service l.2.2 l.1 (s.freeIx + 1) : RegWrite })
      let kept := (s.die die).owed ++ (s.die die).portReplies r t (s.freeIx + 1)
      let u : State := { s.setDie die { s.die die with service := rest, owed := kept } with freeIx := s.freeIx + 1 }
      exec (.groupCallService die) s = .next (kept.foldl (fun u x => u.deliverReply die x) ((u.setWord
        { w with writes := w.writes ++ ws, calls := w.calls.filter (· ≠ r.group) }).acquire t r.group 3))) ∧
    (∀ (die tk : Nat) (x : Reply) (t : Team),
      s.teams.find? (fun kt => kt.2.launch = x.launch && kt.2.index = x.teamIx) = some (tk, t) →
      s.deliverReply die x = if (t.replies.filter (fun r => r.1 = x.port)).length + t.owed x.port < 8 then
        (s.setDie die { s.die die with owed := (s.die die).owed.erase x }).mapTeam tk (fun t =>
          { t with replies := t.replies ++ [(x.port, x.group, x.entry)] }) else s) ∧
    (∀ (d : Die) (r : Call) (t : Team) (n : Nat),
      (r.service = 0 ∨ r.service = 1 ∨ Config.serviceOffered d.firmware r.service = false → d.portReplies r t n = []) ∧
      ∀ x, x ∈ d.portReplies r t n → 17 ≤ x.port ∧ x.port < 24 ∧ x.launch = t.launch ∧ x.teamIx = t.index ∧
        x.group = r.group) ∧
    (∀ (d : Die) (x : Word) (lane fresh : Nat), d.reply 0 x lane fresh = x ∧ d.reply 1 0 lane fresh = 1 ∧
      d.reply 1 1 lane fresh = 1)

/-- The ends of waits (R248, R252, R255): WAITM and BARW are tried again with their frozen operands once every lane has
a status, a bound has passed; a SLEEP whose count of clocks has passed moves on. -/
def Obligations.WaitEvents : Prop :=
  ∀ (s : State) (tk bi : Nat) (t : Team) (b : Bundle), s.team tk = some t → t.bundle bi = some b → t.runs b = true →
    let w := rFields b.stopWord
    let again (i : Instr) (e : Instr) : Prop :=
      ∃ u, exec i { s with cur := some (tk, bi) } = .next u ∧ exec e s = .next { u with cur := s.cur }
    let c : Ctx := ⟨s, tk, t, bi, b, t.active b w.guard⟩
    (b.wait = .monitor → (∀ f, f ∈ b.frozen → (t.waitStatus false f.thread).isSome = true) →
      again (.waitm w) (.monitorWake tk bi)) ∧
    (b.wait = .monitor → (∃ th ∈ c.act, ∃ m n, (t.thread th).monitor = some m ∧ m.until_ = some n ∧
      n < s.cycle (c.coreOf th)) → again (.waitm w) (.waitmBoundExpiry tk bi)) ∧
    (∀ (ws : List PhaseWait) (seen : List Nat) (g : Nat), b.wait = .barw ws seen → g ∈ c.groups →
      (c.val (c.leader g) w.c.toNat = 0 ∨ ∃ x, ws.find? (fun x => x.group = g) = some x ∧
        x.until_ < s.cycle (c.coreOf (c.leader g))) →
      again (.barw w) (.barwBoundExpiry tk bi)) ∧
    (∀ n, b.wait = .sleep n → n ≤ s.cycle (t.coreOf (t.groupOf (b.members.headD 0))) →
      exec (.sleepExpiry tk bi) s = .next (s.setTeam tk
        ((t.mapBundle bi (fun b => b.advance 1)).countSkid (sortUp (b.members.map t.groupOf)))))

/-- COPY_UNIT_TRANSFER: a 16-byte unit of a lane is read and written whole, in scratch, in pages whose frames it pins,
or at the head of a flight, once the group's earlier stores to the bytes it writes have committed; a fault ends the
lane's copy and is reported. A line with an error that the lane's copy writes whole is met without a fault, and holds
no error once every unit of it has been written (log 100); ADDR of an error is the physical line (log 101) (R103, R123,
R256, R257, R280). CPYC_SLOT_RESERVE: the first waiting lane of a buffer takes slot WIX where a slot is free.
CPYC_SLOT_FILLED: a complete lane marks its slot done, and the oldest reserved slots that are done become filled
(R113). A lane is named by its thread, and by which of the thread's lanes it is. -/
def Obligations.CopyEvents : Prop :=
  ∀ (s : State) (id key : Nat) (o : Op) (t : Team) (l : CopyLane), s.op id = some o → s.team o.team = some t →
    o.lane key = some l →
    (∀ unit, (∀ b ls, o.kind = .cpyc b ls → l.slot ≠ none) → s.acquiring o.team l.thread o.id = false → l.failed = false →
      unit ∉ l.moved → 16 * (unit + 1) ≤ l.count →
      let dst0 := t.copyTo o l
      let dst := dst0 + 16 * unit
      let first := dst / 128 * 128
      let runs (u : State) : Prop := exec (.copyUnitTransfer id key unit) s = .next u
      let failed (u : State) (o : Op) (i : TrapInfo) : State :=
        (u.setOp (o.mapLane key (fun l => { l with failed := true }))).report o.team o.group i
      let source := s.sideReach t o l .load l.srcScratch (l.src.toNat + 16 * unit) false
      (∀ i u, source = .fail i u → runs (failed u o i)) ∧
      (∀ u, source = .wait u → runs u) ∧
      ∀ p u, source = .at_ p u →
        (u.pinFor t o key p = none → runs u) ∧
        ∀ v o', u.pinFor t o key p = some (v, o') →
          let v := v.holdLines p o'.hint
          let bs := p.bytes.map (v.pointByte t p)
          let target := v.sideReach t o' l .store l.dstScratch dst
            (decide (dst0 ≤ first) && decide (first + 128 ≤ dst0 + l.count))
          (∀ i x, target = .fail i x → runs (failed x o' i)) ∧
          (∀ x, target = .wait x → runs x) ∧
          ∀ q x, target = .at_ q x →
            (x.pinFor t o' key q = none → runs x) ∧
            ∀ y o'', x.pinFor t o' key q = some (y, o'') → y.storesBefore t o'' q = [] →
              let ps := q.bytes.zip bs
              let moved (z : State) : State :=
                let o := o''.mapLane key (fun l => { l with moved := l.moved ++ [unit] })
                (z.setOp o).mendLine t o ((o.lane key).getD l) dst0 dst q
              (q.scratch = true → runs (moved (y.writeScratch o.team ps))) ∧
              (q.scratch = false → q.chain = none → runs (moved ((t.coreList.foldl (fun s c => s.updateL1 c o''.hint ps)
                (y.pokeBytes q.home o''.hint ps)).recordWrite (sortUp (q.bytes.map lineOf))))) ∧
              (q.scratch = false → ∀ f e k d c rest, q.chain = some (f, e) → (y.flight f).stepList = (k, d, c) :: rest →
                let z : Flying := { id := y.nextId, op := o''.id, flight := f, entry := e, die := d, offsets := q.bytes
                                    data := bs, team := o''.team, thread := l.thread, hint := o''.hint
                                    clause := o''.clause, widx := o''.widx, va := l.dst }
                runs (if y.headTakes z then moved (({ y with nextId := y.nextId + 1 } : State).enterHead z) else y))) ∧
    (∀ (u : State) (k : Kind) (a : Nat) (whole : Bool),
      ((∀ b, b ∈ upFrom a 16 → lineOf b ∉ t.badScratch) ∨ whole = true →
        u.sideReach t o l k true a whole = .at_ { scratch := true, bytes := upFrom a 16 } u) ∧
      (∀ b, (upFrom a 16).find? (fun b => t.badScratch.contains (lineOf b)) = some b → whole = false →
        u.sideReach t o l k true a whole =
          .fail (asyncInfo 0x30 (t.mask [l.thread]) (lineOf b * 128) 0 o.clause o.widx) u) ∧
      let die := coreDie (t.coreOf o.group)
      let v := u.touchPage t.ctx t.vi a
      let info (cause : BitVec 8) (lanes : List Nat) (addr : Nat) (code : Word) : TrapInfo :=
        asyncInfo cause (t.mask lanes) addr code o.clause o.widx
      (∀ cause, v.checkPage t.ctx t.vi die k a = .trap cause →
        u.sideReach t o l k false a whole = .fail (info cause (if cause = 0x17 then o.copyThreads else [l.thread]) a
          (v.flightCode t.ctx cause a)) v) ∧
      ∀ n x m, v.checkPage t.ctx t.vi die k a = .page n x m →
        let p := pagePlace die k x a 16
        let bad := (v.physOf p).find? (fun b => v.poison.contains (lineOf b))
        (∀ q, v.closedPart t.vi p = some q →
          u.sideReach t o l k false a whole = .fail (info 0x16 [l.thread] a (BitVec.ofNat 32 q)) v) ∧
        (v.closedPart t.vi p = none → (bad = none ∨ whole = true → u.sideReach t o l k false a whole = .at_ p v) ∧
          ∀ b, bad = some b → whole = false →
            u.sideReach t o l k false a whole = .fail (info 0x30 [l.thread] (lineOf b * 128) 0) v)) ∧
    (∀ (u : State) (q : Place) (x : CopyLane) (dst0 a : Nat),
      let first := a / 128 * 128
      let written : Prop := dst0 ≤ first ∧ first + 128 ≤ dst0 + x.count ∧
        ∀ n, n ∈ upFrom ((first - dst0) / 16) 8 → n ∈ x.moved
      (¬ written → u.mendLine t o x dst0 a q = u) ∧
      (written → q.scratch = false → ∀ b, b ∈ u.physOf q → lineOf b ∉ (u.mendLine t o x dst0 a q).poison)) ∧
    (∀ ls, o.kind = .copy ls → t.copyTo o l = l.dst.toNat) ∧
    (∀ buf ls, o.kind = .cpyc buf ls →
      let x := t.cbuf buf
      (∀ i, l.slot = some i → t.copyTo o l = x.base + 128 * x.slotsz * i) ∧
      ((s.slotWaiters o.team buf).head? = some (id, key) → x.nslot - x.resv - x.filled - x.acq ≠ 0 →
        exec (.cpycSlotReserve id key) s = .next ((s.setOp (o.mapLane key (fun l => { l with slot := some x.wix }))).setTeam
          o.team (t.setCbuf buf { x with wix := (x.wix + 1) % x.nslot, resv := x.resv + 1 }))) ∧
      (∀ i, l.slot = some i → l.done = false → l.complete = true →
        exec (.cpycSlotFilled id key) s = .next ((s.setOp (o.mapLane key (fun l => { l with done := true }))).setTeam o.team
          (t.setCbuf buf ({ x with done := x.done ++ [i] }.handOver 64)))))

/-- VIEW_PROJECTION: a request whose record is read is served at its plinth, and its elements go to its destination, or
a fault ends it (R225, R235, R238); arrays serve it where the view is resident and no reference column deviates by more
than 2^-9 of full scale, and another product is discarded and formed digitally (R101). VPUB_MARKING_ARRIVAL and
VIEW_CACHE_ENTRY_DISCARD (R99, R240, R241, R282). ARRAY_PROGRAMMING_COMPLETE: the arrays of a view hold the matrix as
it stands; too few arrays end it with status 2 and its notice, a republished view with 4, a fault with 6 and a report
to every XPROG that shares the programming (R110, R260); the end with 4 where the arrays are gone, the end of every
plinth and the fault's MASK, the lanes of the word, are log 37, and DRIFT of the measured array alone is log 78. The
reads wait for the acquires of the threads whose XPROGs they serve (R279). That a row of LDVA with a marked scratch
line gives 0x30 is the model's reading (log 100). A record is read as its lines are committed (R279, R337).
RECALIBRATION and ARRAY_RETIREMENT (R101, R137, R317). -/
def Obligations.PlinthEvents : Prop :=
  ∀ s : State,
    (∀ (id th : Nat) (devs : List Nat) (r r' : Request) (t : Team) (p : Proj) (v u : State),
      s.request id = some r → s.team r.team = some t → r.proj th = some p → p.places = [] →
      s.rowReady r t p = (true, v) → u.request id = some r' →
      (∀ es bd, v.serve t r.team p p.record devs = (.ok (es, bd), u) →
        (t.badRow r p = none → exec (.viewProjection id th devs) s = .next (u.deliver r' t p es bd)) ∧
        ∀ a, t.badRow r p = some a → exec (.viewProjection id th devs) s = .next (u.dropProj r' t p
          (asyncInfo 0x30 (t.mask [th]) a 0 r.origin.1 r.origin.2))) ∧
      (∀ cause a code, v.serve t r.team p p.record devs = (.error (.fault cause a code), u) →
        exec (.viewProjection id th devs) s = .next (u.dropProj r' t p
          (asyncInfo cause (t.mask [th]) a code r.origin.1 r.origin.2)))) ∧
    (∀ (r : Request) (id : Nat) (t : Team) (p : Proj) (bs : List Byte) (u : State), p.places ≠ [] →
      s.readRecord r id t p = some (.ok (bs, u)) → bs = p.places.flatMap s.placeBytes) ∧
    (∀ (t : Team) (tk : Nat) (p : Proj) (record : List Byte) (devs : List Nat),
      let x := p.view.image
      let keys := s.viewArrays p.plinth (vDesc x) p.view.gen 2
      let arrays : Prop := boundedMode x = true ∧ s.resident p.plinth p.view = true ∧ s.placed x t.vi p.plinth = true
      let ds := devs.take keys.length
      (arrays → (∀ d, d ∈ ds → d ≤ 2048) → ∃ es, s.serve t tk p record devs = (.ok (es, true), s.drift keys ds) ∧
        es.length = p.count) ∧
      (¬ arrays → (s.serve t tk p record devs).2 = (s.serveDigital t p record).2 ∧
        ∀ es bd, (s.serve t tk p record devs).1 = .ok (es, bd) → bd = false ∧ (s.serveDigital t p record).1 = .ok es) ∧
      (arrays → (∃ d, d ∈ ds ∧ 2048 < d) →
        let v := s.discard t tk p keys ds
        (s.serve t tk p record devs).2 = (v.serveDigital t p record).2 ∧
        ∀ es bd, (s.serve t tk p record devs).1 = .ok (es, bd) → bd = false ∧ (v.serveDigital t p record).1 = .ok es) ∧
      (keys.Nodup → ∀ n k, keys[n]? = some k →
        let a := s.array k
        let b := (s.drift keys ds).array k
        b.drift = (if 1024 < ds.getD n 0 then min 65535 (a.drift + 1) else a.drift) ∧
        ((∃ d, d ∈ ds ∧ 2048 < d) → b.ast = 3) ∧ ((∀ d, d ∈ ds → d ≤ 2048) → b.ast = a.ast))) ∧
    (∀ (id plinth : Nat) (w : CWord) (t : Team), s.word id = some w → s.team w.team = some t →
      ((∀ m, m ∈ w.markings → m.keep.isSome = true) →
        exec (.vpubMarkingArrival id plinth) s = .next (((w.markings.filter (fun m => m.plinths.contains plinth)).foldl
          (fun s m => s.markPlinth t.vi plinth m) s).setWord { w with markings := w.markings.map (fun m =>
            { m with plinths := m.plinths.filter (· ≠ plinth) }) })) ∧
      (∀ m, w.markings = [m] → m.keep = none → plinth ∈ m.plinths → s.storesAhead t w = [] →
        exec (.vpubMarkingArrival id plinth) s = .next (if s.vinvWaits t w m plinth then s.setWord w
          else (s.markPlinth t.vi plinth m).setWord
            { w with markings := [{ m with plinths := m.plinths.filter (· ≠ plinth) }] }))) ∧
    (∀ plinth line gen : Nat, s.inFlightAt plinth (BitVec.ofNat 32 gen) = false →
      exec (.viewCacheEntryDiscard plinth line gen) s = .next { s with vcache := s.vcache.filter (fun e =>
        !(e.plinth = plinth && e.line = line && e.gen.toNat = gen && e.marked)) }) ∧
    (∀ (id plinth reg st : Nat) (o : Op) (v : View) (ps : List Nat) (t : Team),
      s.op id = some o → o.kind = .xprog reg v ps st → s.team o.team = some t → plinth ∈ ps →
      let held := s.arraysOf plinth v [1, 2, 3]
      let keys := s.arraysOf plinth v [1]
      let ends (k : Nat) (u : State) : State :=
        u.setOp { o with kind := .xprog reg v (ps.filter (· ≠ plinth)) (max st k) }
      let same (u : State) : List Op := u.sharing v (plinth / 8)
      let stops (k : Nat) (u : State) : State :=
        let e := u.eraseArrays ((upFrom (plinth / 8 * 8) 8).flatMap (fun p => u.arraysOf p v [1, 2, 3])) 0
        { e with ops := e.ops.map (fun x => if ((same u).map (·.id)).contains x.id then x.abandoned k else x) }
      (s.resident plinth v = true → exec (.arrayProgrammingComplete id plinth) s = .next (ends 1 s)) ∧
      (s.resident plinth v = false →
        (held = [] → exec (.arrayProgrammingComplete id plinth) s = .next (stops 4 s)) ∧
        (held ≠ [] → held.length < arraysNeeded v.image → exec (.arrayProgrammingComplete id plinth) s =
          .next ((ends 2 s).mapTeam o.team (fun t => t.notify (notice 2 plinth reg o.group)))) ∧
        let behind : Prop := ∃ x ∈ same s, ∃ th ∈ x.lanes, s.acquiring x.team th x.id = true
        (held ≠ [] → arraysNeeded v.image ≤ held.length → keys ≠ [] → behind →
          exec (.arrayProgrammingComplete id plinth) s = .next s) ∧
        (held ≠ [] → arraysNeeded v.image ≤ held.length → keys ≠ [] → ¬ behind →
          (∀ gen m u, s.viewSource t.ctx t.vi (plinth / 32) v = (.ok (gen, m), u) →
            let x := u.settleArrays keys m
            exec (.arrayProgrammingComplete id plinth) s = .next (if gen ≠ v.gen then stops 4 u
              else if x.resident plinth v then ends 1 x else x)) ∧
          (∀ cause a code u, s.viewSource t.ctx t.vi (plinth / 32) v = (.error (.fault cause a code), u) →
            exec (.arrayProgrammingComplete id plinth) s = .next ((same u).foldl (fun u x => match u.team x.team with
              | some y => u.report x.team x.group (asyncInfo cause (y.mask x.lanes) a code x.clause x.widx)
              | none => u) (stops 6 u)))))) ∧
    (∀ (v : View) (q : Nat) (o : Op), o ∈ s.sharing v q ↔ o ∈ s.ops ∧ ∃ reg x ps st, o.kind = .xprog reg x ps st ∧
      vDesc x.image = vDesc v.image ∧ x.gen = v.gen ∧ ∃ p ∈ ps, p / 8 = q) ∧
    (∀ (o : Op) (reg st k : Nat) (v : View) (ps : List Nat), o.kind = .xprog reg v ps st →
      o.abandoned k = { o with kind := .xprog reg v [] (max st k) }) ∧
    (∀ die plinth array : Nat, die < 8 → plinth < 32 → array < 64 →
      let k := (32 * die + plinth) * 64 + array
      let a := s.array k
      let again (ast : Nat) : State := s.setArray k { a with progs := a.progs + 1, drift := 0, since := 0, ast := ast }
      (a.ast = 3 → (s.die die).switching = false →
        exec (.recalibration die plinth array true) s = .next ((again 2).tellResident k) ∧
        exec (.recalibration die plinth array false) s = .next ((again 3).retireArray k)) ∧
      (1048576 ≤ a.progs → a.ast ≠ 4 → ∃ u, exec (.arrayRetirement die plinth array) s = .next u ∧
        (u.array k).ast = 4 ∧ (u.array k).progs = a.progs))

/-- CHAIN_STORE_APPLY: the oldest landing entry of a flight on a die is applied there and passed on, or at the end
sends its acknowledgement; where the step holds its forwarding, the oldest entry not yet applied is applied in its
place; a leaving step that is not the tail only forwards. Applying a store puts its bytes into the step's copy and no
others; the lines are dirty there unless the step is the tail or joins. A store goes on with the default hint, which is
the model's choice (log 73). A store enters at the head, which takes none while what a cut head has forwarded to it is
not applied, and passes on or is held there. An accepted atomic reads and writes at the head at once, and a CAS that
fails is not forwarded. TAIL_ACKNOWLEDGEMENT passes one die, and cleans the line there unless a later store stands
behind it; one that a closed gate stops waits (log 106). JOIN_COPY copies one page map entry from the tail to the
joining step; behind a closed gate it does not advance (log 105). JOIN_COMPLETION: the joining step serves once what
the tail has applied has reached it, and the old step of an FSWAP leaves. DRAIN_COMPLETION: a leaving step is gone: its
page map words are zero, its frames have no references and follow R124, and the ring goes to the next frame of the
entry; where it was the tail, what its predecessor holds, and what it has applied that waits beyond it, is seen, and
what it holds goes on where it may (R102, R116, R124, R130, R133, R232, R262, R263). The page copy engine: every byte
of the target frame is the source's, as a write-back of the source's dirty lines leaves it, a line with an
uncorrectable error is one in the target too (log 25), and no other byte changes (R126, R128). -/
def Obligations.FlightEvents : Prop :=
  (∀ (s : State) (fl : Nat),
     let f := s.flight fl
     let apply (s : State) (y : Flying) : State :=
       if y.applied || f.forwardsOnly y.die then s
       else s.applyAt y (f.isTailDie y.die) (f.stepList.any (fun x => x.2.1 = y.die && x.1 = 2))
     (∀ (die : Nat) (y : Flying), s.landing.find? (fun y => y.die = die && y.flight = fl) = some y →
       (s.entryGate y = false → exec (.chainStoreApply die fl) s = .next s) ∧
       (s.entryGate y = true → s.mayPass y = true →
         let u := apply { s with landing := s.landing.erase y } y
         exec (.chainStoreApply die fl) s = .next (match f.after die with
           | some x => { u with landing := u.landing ++ [{ y with die := x.2.1, applied := false, hint := 0 }] }
           | none => u.acknowledge y)) ∧
       (s.entryGate y = true → s.mayPass y = false → ∀ z,
         s.landing.find? (fun y => y.die = die && y.flight = fl && !y.applied) = some z →
         exec (.chainStoreApply die fl) s = .next (if f.forwardsOnly die then s
           else let u := apply s z
             { u with landing := u.landing.map (fun x => if x = z then { z with applied := true } else x) }))) ∧
     (∀ (t : Team) (st : Store) (r : Rmw) (e k d q : Nat) (rest : List (Nat × Nat × Nat)),
       f.stepList = (k, d, q) :: rest → st.rmw = some r →
       let n := st.place.bytes.length
       let old := ofBytesLE (st.place.bytes.map (s.pointByte t st.place))
       let u := match r.acquire with
         | some scope => (s.giveOld st old).acquire t (t.groupOf st.thread) scope
         | none => s.giveOld st old
       s.performChained t st fl e = (match r.new n old with
         | some x => u.enterHead (st.flying fl e d (bytesLE n x))
         | none => u) ∧
       (r.aop = 15 → r.new n old = if old = r.compare then some r.operand else none) ∧
       (r.aop ≠ 15 → r.new n old = some (atomNew r.aop (8 * n) old r.operand))) ∧
     (∀ (y : Flying) (isTail joining : Bool),
       let v := s.applyAt y isTail joining
       let at_ (o a : Nat) : Prop := s.chainAddr (s.flight y.flight) y.entry y.die o = some a
       (∀ a, (∀ o b, (o, b) ∈ y.offsets.zip y.data → ¬ at_ o a) → s.Keeps v a) ∧
       (y.offsets.Nodup → ∀ o b a, (o, b) ∈ y.offsets.zip y.data → at_ o a → v.byte a = b) ∧
       ((isTail = true ∨ joining = true) → v.chainDirty = s.chainDirty) ∧
       (isTail = false → joining = false → ∀ x, x ∈ v.chainDirty ↔
         x ∈ s.chainDirty ∨ ∃ o ∈ y.offsets, x = (y.die, y.flight, y.entry, o / 128))) ∧
     (∀ y : Flying,
       let g := s.flight y.flight
       let done : State := if y.applied || g.forwardsOnly y.die then s
         else s.applyAt y (g.isTailDie y.die) (g.stepList.any (fun x => x.2.1 = y.die && x.1 = 2))
       let passed : State := match g.after y.die with
         | some x => { done with landing := done.landing ++ [{ y with die := x.2.1, applied := false, hint := 0 }] }
         | none => done.acknowledge y
       let here (z : Flying) : Prop := z.die = y.die ∧ z.flight = y.flight
       let passes : Prop := s.mayPass y = true ∧ ∀ z, z ∈ s.landing → ¬ here z
       s.passOn y = passed ∧ (passes → s.enterHead y = passed) ∧
       (¬ passes → s.enterHead y = { done with landing := done.landing ++ [{ y with applied := true }] }) ∧
       (s.headTakes y = true ↔ ∃ k d q rest, g.stepList = (k, d, q) :: rest ∧ k ≠ 3 ∧ d = y.die ∧
         (∀ z, z ∈ s.landing → here z → z.applied = true) ∧ (passes ∨ s.landingRoom y.die y.flight y.lines.length = true)) ∧
       (s.mayPass y = true ↔ g.holds y.die = false ∧ (∃ x ∈ g.stepList, x.2.1 = y.die) ∧
         ∀ x, g.after y.die = some x → s.landingRoom x.2.1 y.flight y.lines.length = true)) ∧
     (∀ store : Nat, (∀ a, a ∈ s.acks → a.flight = fl → a.id = store → s.ackGate a = false) →
       exec (.tailAcknowledgement fl store) s = .next s) ∧
     (∀ a : Ack, s.ackGate a = false ↔ ∃ d rest q, a.dies = d :: rest ∧ (s.flight a.flight).quadOf d = some q ∧
       ¬ ((s.part (4 * d + q)).owned = true ∧ (s.part (4 * d + q)).vi = (s.flight a.flight).owner)) ∧
     (∀ (store d : Nat) (a : Ack) (rest : List Nat),
       s.acks.find? (fun a => a.flight = fl && a.id = store && s.ackGate a) = some a →
       (a.dies = [] → exec (.tailAcknowledgement fl store) s = .next { s with acks := s.acks.erase a }) ∧
       (a.dies = d :: rest → exec (.tailAcknowledgement fl store) s = .next { s with
         acks := s.acks.map (fun b => if b = a then { b with dies := rest } else b)
         chainDirty := if s.laterAt a d then s.chainDirty
           else s.chainDirty.filter (fun x => x ≠ (d, a.flight, a.entry, a.line)) })) ∧
     (∀ (a : Ack) (d : Nat), s.laterAt a d = true ↔
       (∃ b ∈ s.acks, b ≠ a ∧ b.flight = a.flight ∧ b.entry = a.entry ∧ b.line = a.line ∧ d ∈ b.dies) ∨
       ∃ y ∈ s.landing, y.flight = a.flight ∧ y.entry = a.entry ∧ (∃ o ∈ y.offsets, o / 128 = a.line) ∧
         (d ∈ (s.flight a.flight).before y.die ∨ (y.die = d ∧ y.applied = true))) ∧
     (∀ d q : Nat, f.joiner = some (2, d, q) →
       let gates : Prop := ∀ x, x ∈ f.tail.toList ++ f.joiner.toList →
         (s.part (4 * x.2.1 + x.2.2)).owned = true ∧ (s.part (4 * x.2.1 + x.2.2)).vi = f.owner
       (f.copypos < f.npage → ¬ gates → exec (.joinCopy fl) s = .next s) ∧
       (∀ src dst, gates → f.copypos < f.npage → s.tailAddr fl f.copypos 0 = some src → s.chainAddr f f.copypos d 0 = some dst →
         exec (.joinCopy fl) s = .next ((s.copyFrame src dst).setFlight fl { f with copypos := f.copypos + 1 })) ∧
       let owes : Prop := ∃ y ∈ s.landing, y.flight = fl ∧ (y.die = d ∨ (y.applied = true ∧ f.isTailDie y.die = true))
       (f.copypos < f.npage ∨ owes → exec (.joinCompletion fl) s = .next s) ∧
       (f.npage ≤ f.copypos → ¬ owes →
         let g : Flight := { f with steps := packSteps (f.stepList.map (fun x => if x.2.1 = d then (1, x.2) else x)) }
         let old := (s.ops ++ s.saved.flatMap (·.relinks)).findSome? (fun o => match o.kind with
           | .relink h (some j) (some l) => if h = fl && j = d && !o.done then some l else none
           | _ => none)
         let g : Flight := match old with
           | none => g
           | some l => if g.stepList.any (fun x => x.2.1 = l && x.1 = 1) then { g with
               steps := packSteps (g.stepList.map (fun x => if x.2.1 = l then (3, x.2) else x))
               cutTails := if g.isTailDie l then g.cutTails ++ [l] else g.cutTails } else g
         exec (.joinCompletion fl) s = .next ((s.setFlight fl g).mapRelinks (endRelink fl (fun j l => j = some d &&
           (match l with
             | none => true
             | some l => !(g.stepList.any (fun x => x.2.1 = l)))))))) ∧
     (∀ d q : Nat, f.stepList.find? (fun x => x.1 = 3 && !(s.landing.any (fun y => y.flight = fl && y.die = x.2.1))) =
         some (3, d, q) →
       let g : Flight := { f with steps := packSteps (f.stepList.filter (fun x => x.2.1 ≠ d))
                                  cutTails := f.cutTails.filter (· ≠ d) }
       let u := (s.leaveFrames fl d q).setFlight fl g
       let u := ({ u with chainDirty := u.chainDirty.filter (fun x => !(x.1 = d && x.2.1 = fl)) } : State).mapRelinks
         (endRelink fl (fun j l => l = some d && j ≠ some d && (match j with
           | some j => !(g.stepList.any (fun x => x.2.1 = j && x.1 = 2))
           | none => true)))
       (f.isTailDie d = false ∨ g.tail = none → exec (.drainCompletion fl) s = .next u) ∧
       (f.isTailDie d = true → ∀ k t r, g.tail = some (k, t, r) →
         let mine (y : Flying) : Bool := y.flight = fl && y.die = t && y.applied
         let v : State := { u with chainDirty := u.chainDirty.filter (fun x => !(x.1 = t && x.2.1 = fl)) }
         let beyond := u.landing.filter (fun y => y.flight = fl && (g.before y.die).contains t)
         let leaves (s : State) (y : Flying) : State :=
           if s.landing.find? (fun z => z.die = y.die && z.flight = y.flight) = some y && s.mayPass y
           then ({ s with landing := s.landing.erase y } : State).passOn y else s
         exec (.drainCompletion fl) s = .next ((u.landing.filter mine).foldl leaves
           ((beyond ++ u.landing.filter mine).foldl State.seen v)))) ∧
     (∀ d q : Nat,
       let gone (s : State) (e fr : Nat) : State :=
         let k := frameKey (4 * d + q) fr
         let u := s.setFrame k { s.frame k with refs := 0, rmpa := 0, rmpart := 0 }
         let lo := frameBase 0 (4 * d + q) fr / 128
         ({ u with mem := u.mem.writeLE (f.entryAddr e + 4 * d) 4 0
                   l2 := u.l2.filter (fun l => l.line < lo || lo + 512 ≤ l.line) } : State).dropFrame f.owner 0 (4 * d + q) fr
       let heads (s u : State) (e : Nat) : State := match u.entryFrames f e with
         | [] => u
         | h :: _ =>
           let k := frameKey (4 * h.1 + h.2.1) h.2.2
           u.setFrame k { u.frame k with rmpa := (s.entryHead f e).rmpa, rmpart := (s.entryHead f e).rmpart }
       s.leaveFrames fl d q = ((upFrom 0 f.npage).filter (s.entryInUse f)).foldl (fun s e => match s.entryFrame f e d with
         | some fr => heads s (gone s e fr) e
         | none => s) s ∧
       ∀ e fr, q < 4 → d < 8 → fr < 524288 →
         let k := frameKey (4 * d + q) fr
         let v := gone s e fr
         v.mem.readLE (f.entryAddr e + 4 * d) 4 = 0 ∧ (v.frame k).refs = 0 ∧
         ((s.frame k).pins = 0 → (v.frame k).state = 0 ∧
           ∀ i, i < 65536 → v.byte (frameBase 0 (4 * d + q) fr + i) = 0) ∧
         ((s.frame k).pins ≠ 0 → (v.frame k).state = 2))) ∧
  (∀ (s : State) (src dst : Nat), s.Canonical → src % 65536 = 0 → dst % 65536 = 0 →
     let v := s.copyFrame src dst
     (∀ i, i < 65536 → v.byte (dst + i) =
       if isT1 src = true ∧ ¬ ∃ l ∈ s.l2, l.line = lineOf (src + i) ∧ l.dirty = true then s.pool.read (src + i - t1Base)
       else s.byte (src + i)) ∧
     (∀ a, a / 65536 ≠ dst / 65536 → v.byte a = s.byte a) ∧
     (∀ l, l / 512 ≠ dst / 65536 → (l ∈ v.poison ↔ l ∈ s.poison)) ∧
     ∀ j, j < 512 → (dst / 128 + j ∈ v.poison ↔ src / 128 + j ∈ s.poison))

/-- COPY_ON_WRITE: the page is mapped where only a demand page stands; one without a sharer becomes writable in place,
and a shared one is copied, where older accesses allow it (R122, R125, R126). MIGRATION: the control core serves the
oldest request of its die: a T2 page moves to T0 of HOME where a frame is free there, else to T1; the request waits
until the move ends, and one for a frame that is not free waits at the head of its queue (log 92); a die that switches
its firmware ends the move in hand (R128, R330). FAULT_REPLAY: a parked access whose cause is served is ready, one
whose cause stands posts its request, one with another cause meets it (R129). UNRESOLVED_FAULT: a fault that its
service gives up is a trap with the unresolved bit, and waits while the die switches its firmware (R318, R330).
PIN_RELEASE: the last pin of a draining frame frees it (R124). A copy-on-write of a page with one mapping clears COW
and sets W. Of a shared page: a frame is taken with the old frame's bytes; the entry leaves the old ring, whose REFS
falls by one, and is alone in the new frame's, REFS 1, with its LOC, COW = 0 and W = 1; of a chained page the same for
a new page map entry, with a frame on every step (R126). A move takes a frame of the target tier, makes both migrating
and pins both; it ends with the bytes copied, the target in use with the source's REFS and ring, the ring's entries
rewritten with its TIER, HOME and LOC, and the source with REFS 0 under R124; a source unmapped meanwhile leaves the
target free (R123, R128). The page copy engine: every byte of the target frame is the source's, as a write-back of the
source's dirty lines leaves it, a line with an uncorrectable error is one in the target too (log 25), and no other byte
changes (R126, R128). Copies of a page in one step (log 24), monitors and poison that go with it (log 25), the entry of
a chained copy (log 95), T1 pages (log 26) and the far entry taken, the lowest-numbered free one (log 108), are the
model's. -/
def Obligations.PageEvents : Prop :=
  (∀ s : State,
     (∀ (tk bi va : Nat) (t : Team) (b : Bundle), s.team tk = some t → t.bundle bi = some b →
       let u := s.touchPage t.ctx t.vi va
       let die := coreDie (t.coreOf (t.groupOf (b.members.headD 0)))
       let switches : Bool := (s.die die).switching
       let given : State := s.setDie die { s.die die with migration := (s.die die).migration.filter (fun m =>
         m.begun.isSome || m.target.isSome || m.ctx ≠ t.ctx || m.va.toNat / 65536 ≠ va / 65536) }
       (∀ ths wr a, b.wait = .replay 0x13 ths va wr → u.leaf t.ctx va = some a → pteV (u.pte a) = true →
         pteCow (u.pte a) = true →
         ((u.pageDesc t.vi (u.pte a)).refs ≤ 1 → exec (.copyOnWrite tk bi) s =
           .next (u.setPte a (setBits (setBits (u.pte a) 4 4 0) 3 3 1))) ∧
         (∀ v, u.resolveCow t.ctx t.vi a = some v → exec (.copyOnWrite tk bi) s = .next v) ∧
         (u.resolveCow t.ctx t.vi a = none → exec (.copyOnWrite tk bi) s = .next u)) ∧
       (∀ c ths wr, b.wait = .replay c ths va wr →
         let ready := s.setTeam tk (t.mapBundle bi (fun b => { b with wait := .ready }))
         ((∀ k, s.parkedCheck t b va wr ≠ .replay k) → s.replaysFirst t b va = false →
           exec (.faultReplay tk bi) s = .next ready) ∧
         (∀ k, s.parkedCheck t b va wr = .replay k → k ≠ c → exec (.faultReplay tk bi) s = .next ready) ∧
         (s.parkedCheck t b va wr = .replay c → exec (.faultReplay tk bi) s =
           .next (s.postMigration (coreDie (t.coreOf (t.groupOf (b.members.headD 0))))
             { ctx := t.ctx, vi := t.vi, va := BitVec.ofNat 64 va })) ∧
         (c = 0x12 ∨ (c = 0x13 ∧ ∃ a, s.leaf t.ctx va = some a ∧ s.cowFrames t.vi a = false) → t.mayGiveUp b = true →
           s.parkedCheck t b va wr = .replay c →
           (switches = false → exec (.unresolvedFault tk bi) s = .next (raiseTrap given tk bi
             { cause := BitVec.ofNat 8 c, mask := t.mask ths, addr := BitVec.ofNat 64 va, unres := true })) ∧
           (switches = true → exec (.unresolvedFault tk bi) s = .next s))) ∧
       (b.wait = .fetchReplay va →
         (∀ k, s.parkedCheck t b va false = .replay k → exec (.faultReplay tk bi) s =
           .next (s.postMigration die { ctx := t.ctx, vi := t.vi, va := BitVec.ofNat 64 va })) ∧
         ((∀ k, s.parkedCheck t b va false ≠ .replay k) → s.replaysFirst t b va = false →
           exec (.faultReplay tk bi) s = .next (s.setTeam tk (t.mapBundle bi (fun b => { b with wait := .ready })))) ∧
         (s.parkedCheck t b va false = .replay 0x12 → t.mayGiveUp b = true → switches = false →
           exec (.unresolvedFault tk bi) s = .next (raiseTrap given tk bi
             { cause := 0x12, mask := t.mask b.members, addr := BitVec.ofNat 64 va, unres := true })))) ∧
     (∀ (die : Nat) (m : Migrate) (rest : List Migrate), (s.die die).migration = m :: rest →
       (∀ x, m.begun = some x → exec (.migration die) s = .next ((s.endMove m.vi x).endRequest die m
         (if (s.desc m.vi x.tier x.home x.loc).state = 3 then 1 else 2))) ∧
       (m.begun = none → (s.die die).switching = true → exec (.migration die) s = .next s) ∧
       (m.begun = none → (s.die die).switching = false →
         let need := match m.target with
           | some t => s.needOfHost m t.1 t.2
           | none => s.needOf m
         (need = .nothing → exec (.migration die) s = .next (s.endRequest die m 1)) ∧
         (∀ k, need = .refused k → exec (.migration die) s = .next (s.endRequest die m k)) ∧
         (need = .waits → exec (.migration die) s = .next s) ∧
         (∀ a tier part, need = .move a tier part →
           (s.beginMove m.vi a tier part = none → exec (.migration die) s = .next s) ∧
           (∀ u x, s.beginMove m.vi a tier part = some (u, x) → exec (.migration die) s = .next (u.setDie die { u.die die with
             migration := { m with begun := some x } :: rest }) ∧
             x.tier = pteTier (s.pte a) ∧ x.home = pteHome (s.pte a) ∧ x.loc = pteLoc (s.pte a) ∧ x.toTier = tier)))) ∧
     (∀ (m : Migrate) (a : Nat), s.leaf m.ctx m.va.toNat = some a → pteV (s.pte a) = true →
       s.pteReserved m.vi (s.pte a) = false → pteTier (s.pte a) = 2 → (s.pageDesc m.vi (s.pte a)).state ≠ 3 →
       s.needOf m = if (s.part (pteHome (s.pte a))).freecnt = 0 then .move a 1 0 else .move a 0 (pteHome (s.pte a))) ∧
     (∀ (m : Migrate) (a : Nat), s.leaf m.ctx m.va.toNat = some a → pteV (s.pte a) = false → pteDemand (s.pte a) = true →
       (s.part (pteHome (s.pte a))).freecnt = 0 → s.needOf m = .waits) ∧
     (∀ part fr : Nat, part < 32 → fr < 524288 →
       let id := frameKey part fr
       let d := s.pinDesc id
       s.pinsHeld id < d.pins →
       (¬ (d.pins = 1 ∧ d.state = 2) → exec (.pinRelease id) s = .next (s.setPinDesc id { d with pins := d.pins - 1 })) ∧
       (d.pins = 1 → d.state = 2 → exec (.pinRelease id) s =
         .next ((s.setPinDesc id { d with pins := 0 }).freeFrame 0 0 part fr)))) ∧
  (∀ s : State,
     (∀ (ctx : DWord) (vi a : Nat),
       let x := s.pte a
       let own := setBits (setBits x 4 4 0) 3 3 1
       let w := s.commitPage x
       let f := w.flight (pteFlight x)
       let busy : Prop := w.storesOn x = true ∨ w.loadsOn x = true ∨ w.projsOn x = true ∨ w.flyingOn x = true ∨
         w.pinFull (w.pagePins vi x) = true
       let follow (t : Team) (m : Monitor) : Bool := t.ctx = ctx && w.leaf ctx (m.page * 65536) = some a
       let remap (v : State) (n old new : Nat) : State :=
         ((v.unlink vi a).joinRing vi a (setBits own 79 48 n)).moveMonitors follow old new
       ((s.pageDesc vi x).refs ≤ 1 → s.resolveCow ctx vi a = some (s.setPte a own)) ∧
       (1 < (s.pageDesc vi x).refs → busy → s.resolveCow ctx vi a = none) ∧
       (1 < (s.pageDesc vi x).refs → ¬ busy →
         (pteClass x ≠ 1 →
           (w.takeFrame vi (pteTier x) (pteHome x) = none → s.resolveCow ctx vi a = none) ∧
           ∀ n v, w.takeFrame vi (pteTier x) (pteHome x) = some (n, v) →
             let dst := frameBase (pteTier x) (pteHome x) n
             s.resolveCow ctx vi a = some (remap (v.copyFrame (pteBase x) dst) n (pteBase x / 128) (dst / 128)) ∧
             (pteTier x = 0 → n ≠ pteLoc x → n < 524288 → a % 16 = 0 → a / 65536 ≠ dst / 65536 → w.pte a = x →
               let new := frameKey (pteHome x) n
               let old := frameKey (pteHome x) (pteLoc x)
               1 < (w.frame old).refs → ∃ u, s.resolveCow ctx vi a = some u ∧
                 u.pte a = setPteNext (setBits own 79 48 n) a ∧ (u.frame new).refs = 1 ∧ (u.frame new).state = 1 ∧
                 (u.frame new).ring = a ∧ (u.frame old).refs = (w.frame old).refs - 1)) ∧
         (pteClass x = 1 →
           let entry := (upFrom 0 f.npage).find? (fun i => !w.entryInUse f i)
           let src := w.tailAddr (pteFlight x) (pteLoc x) 0
           let taken (e from_ : Nat) : Option State :=
             (w.entryFrames f (pteLoc x)).foldl (fun (acc : Option State) y => acc.bind (fun s =>
               (s.takeFrame vi 0 (4 * y.1 + y.2.1)).map (fun r =>
                 let s := r.2.copyFrame from_ (frameBase 0 (4 * y.1 + y.2.1) r.1)
                 { s with mem := s.mem.writeLE (f.entryAddr e + 4 * y.1) 4 (2 ^ 31 + r.1) }))) (some w)
           (entry = none ∨ src = none → s.resolveCow ctx vi a = none) ∧
           ∀ e from_, entry = some e → src = some from_ → s.resolveCow ctx vi a = (taken e from_).map (fun v =>
             remap v e (chainLine (pteFlight x) (pteLoc x) 0) (chainLine (pteFlight x) e 0))))) ∧
     (∀ x n t h : Nat, x < 2 ^ 128 → n < 2 ^ 32 → t < 4 → h < 32 →
       let own := setBits (setBits x 4 4 0) 3 3 1
       let moved := setBits (setBits (setBits x 47 43 h) 42 41 t) 79 48 n
       pteCow own = false ∧ pteW own = true ∧ pteV own = pteV x ∧ pteRd own = pteRd x ∧ pteClass own = pteClass x ∧
       pteLoc own = pteLoc x ∧ pteLoc (setBits own 79 48 n) = n ∧ pteCow (setBits own 79 48 n) = false ∧
       pteW (setBits own 79 48 n) = true ∧ pteLoc moved = n ∧ pteTier moved = t ∧ pteHome moved = h ∧
       pteV moved = pteV x ∧ pteW moved = pteW x ∧ pteCow moved = pteCow x ∧ pteNext moved = pteNext x) ∧
     (∀ vi a tier part : Nat,
       let x := s.pte a
       let w := s.commitPage x
       let home := if tier = 0 then part else pteHome x
       let src := pinId vi (pteBase x)
       (w.storesOn x = true ∨ w.pinFull [src] = true ∨ w.takeFrame vi tier home = none → s.beginMove vi a tier part = none) ∧
       (w.storesOn x = false → w.pinFull [src] = false → ∀ n v, w.takeFrame vi tier home = some (n, v) →
         let target := v.setDesc vi tier home n { v.desc vi tier home n with state := 3 }
         let both := target.setDesc vi (pteTier x) (pteHome x) (pteLoc x)
           { target.desc vi (pteTier x) (pteHome x) (pteLoc x) with state := 3 }
         let u := both.pin [src, pinId vi (frameBase tier home n)]
         s.beginMove vi a tier part = some (u, ⟨pteTier x, pteHome x, pteLoc x, tier, home, n⟩) ∧
         (tier = 0 → pteTier x = 2 → part < 32 → n < 524288 →
           (u.frame (frameKey part n)).state = 3 ∧ (u.desc vi 2 (pteHome x) (pteLoc x)).state = 3))) ∧
     (∀ (vi : Nat) (m : Move),
       let src := frameBase m.tier m.home m.loc
       let dst := frameBase m.toTier m.toHome m.toLoc
       let unpinned (s : State) (id : Nat) : State := s.setPinDesc id { s.pinDesc id with pins := (s.pinDesc id).pins - 1 }
       let w := unpinned (unpinned s (pinId vi src)) (pinId vi dst)
       let d := w.desc vi m.tier m.home m.loc
       (d.state ≠ 3 →
         let u := w.freeFrame vi m.toTier m.toHome m.toLoc
         s.endMove vi m = if d.state = 2 ∧ d.pins = 0 then u.freeFrame vi m.tier m.home m.loc else u) ∧
       (d.state = 3 →
         let page := w.pte d.ring
         let c := w.copyFrame src dst
         let target := c.setDesc vi m.toTier m.toHome m.toLoc { c.desc vi m.toTier m.toHome m.toLoc with
           refs := d.refs, state := 1, rmpa := d.rmpa, rmpart := d.rmpart }
         let ring := (target.ringOf d).foldl (fun s b =>
           s.setPte b (setBits (setBits (setBits (s.pte b) 47 43 m.toHome) 42 41 m.toTier) 79 48 m.toLoc)) target
         let followed := ring.moveMonitors (fun _ _ => true) (src / 128) (dst / 128)
         let loads : State := { followed with words := followed.words.map (fun o => { o with lanes := o.lanes.map (fun l =>
           if l.taken.isNone && onPage page l.place then
             { l with place := { l.place with bytes := l.place.bytes.map (fun a => a % 65536 + dst), home := m.toHome } }
           else l) }) }
         s.endMove vi m = (loads.setDesc vi m.tier m.home m.loc { d with rmpart := 0, rmpa := 0, refs := 0 }).dropFrame
           vi m.tier m.home m.loc))) ∧
  (∀ (s : State) (src dst : Nat), s.Canonical → src % 65536 = 0 → dst % 65536 = 0 →
     let v := s.copyFrame src dst
     (∀ i, i < 65536 → v.byte (dst + i) =
       if isT1 src = true ∧ ¬ ∃ l ∈ s.l2, l.line = lineOf (src + i) ∧ l.dirty = true then s.pool.read (src + i - t1Base)
       else s.byte (src + i)) ∧
     (∀ a, a / 65536 ≠ dst / 65536 → v.byte a = s.byte a) ∧
     (∀ l, l / 512 ≠ dst / 65536 → (l ∈ v.poison ↔ l ∈ s.poison)) ∧
     ∀ j, j < 512 → (dst / 128 + j ∈ v.poison ↔ src / 128 + j ∈ s.poison))

/-- A trap at a word leaves the team's registers and memories as they are and stops the bundle there with its facts
raised, of the group of its lowest-numbered thread or of a stranded store (R284, R306); in the skid of a halt it only
stops (R302, R307). TRAP_HALT: the trap that was raised first is the team's, and threads of other groups stand beside
it; in a handler the halt is nested (R305, R306, R314); the skids are zero (R148); a waiting word's bound that has not
passed is put off (R308). Every save is dropped, one whose decision has fallen included, which is the model's reading
(log 43). ASYNC_FAULT_REPORT: the oldest held fault whose group can take it, at a word boundary or without a live
thread, stops that group, with what stands there (R303, R309). -/
def Obligations.TrapsTaken : Prop :=
  ∀ (s : State) (tk : Nat) (t : Team), s.team tk = some t →
    (∀ (bi : Nat) (b : Bundle) (info : TrapInfo), t.bundle bi = some b → b.popped = [] →
      b.poppedRanks = [] → b.frozen = [] → b.counted = [] →
      let stop := t.mapBundle bi (fun b => { b with wait := .trapped, since := none })
      (t.halt = none ∨ t.inHandler = true → raiseTrap s tk bi info = s.setTeam tk { stop with
        raised := t.raised ++ [⟨info.stranded.getD (t.groupOf (b.members.headD 0)), some bi, b.pc, b.widx, b.stopWord,
          info⟩] }) ∧
      (t.halt ≠ none → t.inHandler = false → raiseTrap s tk bi info = s.setTeam tk stop)) ∧
    (∀ (x : Trap) (rest : List Trap), t.raised = x :: rest →
      let waits (which : Bundle → Bool) (th : Nat) : Prop :=
        ∃ b ∈ t.bundles, which b = true ∧ b.wait = .monitor ∧ th ∈ b.members
      let stopped (which : Bundle → Bool) (u : Team) : Prop := ∀ th, th < t.threads.length →
        (¬ waits which th → u.thread th = t.thread th) ∧
        (waits which th → u.thread th = { t.thread th with monitor := (t.thread th).monitor.map (fun m =>
          { m with held := m.held || m.until_.any (fun n => s.cycle (t.coreOf (t.groupOf th)) ≤ n) }) })
      ∃ u, exec (.trapHalt tk) s = .next (s.setTeam tk u) ∧ u.raised = [] ∧ u.threads.length = t.threads.length ∧
        u.scratch = t.scratch ∧ u.tiles = t.tiles ∧
        (t.halt = none → u.halt = some { trap := x, phase := .stopping } ∧ u.saving = none ∧ stopped (fun _ => true) u ∧
          ∀ g, g < t.groups.length → (u.group g).skid = 0) ∧
        (∀ h, t.halt = some h → h.phase = .handler → u.halt = some { h with
          trap := x, phase := .stopping, nested := true, posted := .nothing, outer := some (h.trap, h.seq) } ∧
          stopped (·.handler) u ∧ ∀ g, g < t.groups.length → (u.group g).skid = 0) ∧
        (∀ bi b, x.bundle = some bi → t.bundle bi = some b → (∃ th, th ∈ b.members ∧ t.groupOf th ≠ x.group) →
          (u.bundle bi).map (·.members) = some (b.members.filter (fun th => t.groupOf th = x.group)) ∧
          (u.bundles.getLast?).map (·.members) = some (b.members.filter (fun th => t.groupOf th ≠ x.group)))) ∧
    (∀ (g : Nat) (info : TrapInfo) (first rest : List (Nat × TrapInfo)), t.held = first ++ (g, info) :: rest →
      (∀ x, x ∈ first → t.liveOf x.1 ≠ [] ∧ t.boundaryOf x.1 = none) → t.halt = none → t.raised = [] → t.saving = none → t.aborted = false →
      (t.liveOf g = [] → exec (.asyncFaultReport tk) s = .next (s.setTeam tk { t with
        held := first ++ rest, raised := [⟨g, none, 0, 0xFFFFFFFF, 0, info⟩] })) ∧
      (∀ bi b, t.liveOf g ≠ [] → t.boundaryOf g = some (bi, b) → exec (.asyncFaultReport tk) s = .next (s.setTeam tk
        { t.mapBundle bi (fun b => { b with wait := .trapped }) with
          held := first ++ rest
          raised := [⟨g, some bi, b.pc, b.widx,
            if b.clause = none ∧ b.held = none then s.headerAt t b else b.stopWord, info⟩] })))

/-- TRAP_RECORD_WRITE: a halted team that has drained writes its records, the faulting group's first, each to the table
and then to the queue; the halt takes the next number of its context; TAIL follows once every record is performed; then
the team enters its handler, with %skid of each group what it has retired since the halt, or stands halted (R81, R148,
R302, R310 to R313). Records of another halt of the context whose TAIL is still to come are waited for, which is the
model's choice (log 116); a stranded store is gone once the stores before it are committed, and until then the team
waits (R284). A table write that fails posts KIND 3, whatever its cause is, which is the model's reading (log 44; R311
speaks of translation and permission); a queue that cannot be used, or whose TAIL cannot be written any more, posts
KIND 4, a full queue sets the overflow bit (R311, R312). A record is 128 bytes with its fields at their offsets (R309).
-/
def Obligations.TrapRecords : Prop :=
  (∀ (s : State) (tk : Nat) (t : Team) (h : Halt),
    s.team tk = some t → t.halt = some h → h.phase = .stopping → s.drained tk t = true →
    let die := coreDie t.core
    let seq := s.nextSeq t.ctx
    let q := (s.ctxTrapQ t.ctx).toNat
    let held : Prop := ∃ kt ∈ s.teams, ∃ k, kt.1 ≠ tk ∧ kt.2.ctx = t.ctx ∧ kt.2.stops = true ∧ kt.2.halt = some k ∧
      k.posted ≠ .nothing
    exec (.trapRecordWrite tk) s = .next (((s.writeRecords tk).writeTail tk).endRecords tk) ∧
    (held → s.writeRecords tk = s) ∧
    (∀ s1 s2 line tail, h.posted = .nothing → ¬ held → s.openQueue t die = .ok line s1 →
      s1.putRecords t die tk line (t.records h seq) = .ok tail s2 →
      s.writeRecords tk = { s2 with ctxSeq := Sparse.put s2.ctxSeq 0 t.ctx.toNat seq }.setPosted tk { h with seq := seq }
        (.records tail)) ∧
    (∀ tail ovf v, h.posted = .records (some (tail, ovf)) →
      (s.deviceOwes = true → s.writeTail tk = s) ∧
      (s.deviceOwes = false →
        s.flushT1.ctxWrite t.ctx t.vi die (q + 8) (bytesLE 4 tail ++ (if ovf then bytesLE 4 1 else [])) = .ok () v →
        s.writeTail tk = v.flushT1.setPosted tk h .tail) ∧
      (s.deviceOwes = false → ∀ c,
        s.flushT1.ctxWrite t.ctx t.vi die (q + 8) (bytesLE 4 tail ++ (if ovf then bytesLE 4 1 else [])) = .fail c v →
        s.writeTail tk = (v.postError t.vi 4 0 q 0 0).setPosted tk h .tail)) ∧
    (h.posted = .records none → s.deviceOwes = false → s.writeTail tk = s.setPosted tk h .tail) ∧
    (h.posted = .tail → s.deviceOwes = false →
      (s.beforeStranded tk t h.trap = none → s.endRecords tk = s.mapTeam tk (fun t => t.enterHandler h s.nextId)) ∧
      ∀ before st, s.beforeStranded tk t h.trap = some (before, st) →
        let u := (before.map (·.id)).foldl State.pushStore s
        let left := ((u.beforeStranded tk t h.trap).map Prod.fst).getD []
        let v : State := { u with stores := u.stores.filter (fun y =>
          !(y.team = tk && t.groupOf y.thread = h.trap.group && y.stranded.isSome && y.word = st.word)) }
        (left ≠ [] → s.endRecords tk = u) ∧
        (left = [] → s.endRecords tk = v.mapTeam tk (fun t => t.enterHandler h v.nextId)))) ∧
  (∀ (s : State) (tk : Nat) (t : Team) (x : Trap),
    let mine := s.stores.filter (fun st => st.team = tk && t.groupOf st.thread = x.group)
    (x.info.stranded = none ∨ x.info.origin = none → s.beforeStranded tk t x = none) ∧
    ∀ g cl ix st, x.info.stranded = some g → x.info.origin = some (cl, ix) →
      mine.find? (fun st => st.stranded.isSome && st.clause = cl && st.widx = ix) = some st →
      s.beforeStranded tk t x = some (mine.filter (fun y => y.id < st.id && y.stranded.isNone), st)) ∧
  (∀ (s u v : State) (t : Team) (die tk g n head tail : Nat) (bs : List Byte) (c : BitVec 8),
    let a := recordAt (s.ctxTrapTab t.ctx) tk g
    (s.ctxWrite t.ctx t.vi die a bs = .ok () u → s.recordToTable t die tk g bs = .ok () u) ∧
    (s.ctxWrite t.ctx t.vi die a bs = .fail c v → s.recordToTable t die tk g bs = .ok () (v.postError t.vi 3 0 a 0 0)) ∧
    (2 ^ n ≤ (tail + 2 ^ 32 - head) % 2 ^ 32 → s.recordToQueue t die n head tail bs = .ok (tail, true) s) ∧
    ((tail + 2 ^ 32 - head) % 2 ^ 32 < 2 ^ n →
      s.ctxWrite t.ctx t.vi die ((s.ctxTrapQ t.ctx).toNat + 128 + 128 * (tail % 2 ^ n)) bs = .ok () u →
      s.recordToQueue t die n head tail bs = .ok ((tail + 1) % 2 ^ 32, false) u) ∧
    (∀ tail', s.recordToTable t die tk g bs = .ok () u → u.recordToQueue t die n head tail bs = .ok (tail', false) v →
      s.putRecords t die tk (some (n, head, tail)) [(g, bs)] = .ok (some (tail', false)) v) ∧
    (s.recordToTable t die tk g bs = .ok () u → s.putRecords t die tk none [(g, bs)] =
      .ok none (u.postError t.vi 4 0 (u.ctxTrapQ t.ctx).toNat 0 0))) ∧
  (∀ (t : Team) (h : Halt) (seq : Word), (t.records h seq).map (·.1) = h.trap.group :: (upFrom 0 t.groups.length).filter
    (fun g => g ≠ h.trap.group && (t.threadsOf g).any (fun th => (t.thread th).live))) ∧
  (∀ (t : Team) (h : Halt) (mark bi : Nat) (b : Bundle) (pc : DWord), t.decl.handler = some pc →
    h.trap.bundle = some bi → t.enters h = true → t.bundle bi = some b → h.trap.group < t.groups.length →
    let u := t.enterHandler h mark
    (∃ c, u.bundle bi = some c ∧ c.members = b.members ∧ c.pc = pc ∧ c.clause = none ∧ c.handler = true) ∧
    (∃ k, u.halt = some k ∧ k.phase = .handler ∧ k.seq = h.seq) ∧ u.threads = t.threads ∧
    ((u.group h.trap.group).trapcause, (u.group h.trap.group).trapaddr, (u.group h.trap.group).trapidx,
      (u.group h.trap.group).skidReg) = (h.trap.info.cause.setWidth 32, h.trap.clause, h.trap.widx, 0) ∧
    ∀ g, g ≠ h.trap.group → g < t.groups.length → (u.group g).skidReg = BitVec.ofNat 32 (min 16 (t.group g).skid)) ∧
  (∀ (t : Team) (h : Halt) (mark : Nat), t.decl.handler = none →
    t.enterHandler h mark = { t with halt := some { h with mark := some mark, phase := .halted } }) ∧
  (∀ (stat : Nat) (seq team : Word) (grp core : Nat) (clause : DWord) (widx : Word) (vi : Nat) (info : TrapInfo)
      (word : DWord),
    let r := trapRecord stat seq team grp core clause widx vi info word
    let at_ (o n : Nat) : Nat := ofBytesLE ((r.drop o).take n)
    r.length = 128 ∧ at_ 0 4 = stat % 2 ^ 32 ∧ at_ 4 4 = seq.toNat ∧ at_ 8 4 = team.toNat ∧ at_ 12 2 = grp % 2 ^ 16 ∧
    at_ 14 2 = core % 2 ^ 16 ∧ at_ 16 8 = clause.toNat ∧ at_ 24 4 = widx.toNat ∧ at_ 28 4 = vi % 2 ^ 32 ∧
    at_ 32 8 = info.mask.toNat ∧ at_ 40 8 = info.addr.toNat ∧
    (∀ o, info.origin = some o → at_ 48 8 = o.1.toNat ∧ at_ 56 4 = o.2.toNat) ∧
    (info.origin = none → at_ 48 12 = 0) ∧ at_ 60 4 = info.code.toNat ∧ at_ 64 8 = word.toNat ∧ at_ 72 56 = 0)

/-- LAUNCH_QUEUE_TAIL_UPDATE writes TAIL to the tail line, and a TAIL more than 2^n beyond HEAD stops the queue; of a
queue in device memory the scheduler reads TAIL from the line, through the function's CXL.mem window, which is the
model's reading (R114; log 81). LAUNCH_PACKET_READ reads slot HEAD mod 2^n and refuses the packet with an error record
or accepts it; HEAD is its ring index, and moves past it, in the register and in the head line (R114, R139, R287,
R326). WAIT_COUNTER_MET: the launch begins with an acquire at .sys once its counter has reached the value; a counter
whose translation or permission has gone refuses the packet with reason 8 (R285, R287, R288). TEAM_PLACEMENT puts the
next team of a launch on the first core of its order with room, behind no launch of a higher priority that fits and no
saved team; a cooperative launch goes whole (R291 to R293). A new team's registers are zero, and each of its groups
stands at the kernel's first clause (R20, R71, R76, R78). Which L1s and clean T1 lines a met wait counter clears (log
47), and that a counter failing otherwise than by translation or permission is read again (log 82), are the model's. -/
def Obligations.Launches : Prop :=
  (∀ (s : State) (fn prio : Nat) (tail : Word),
     let q := s.lq fn prio
     let index := q.head.toNat
     let slot := q.base + 256 + 128 * (index % 2 ^ q.logn)
     let next (u : State) : State := u.setLq fn prio { u.lq fn prio with head := (u.lq fn prio).head + 1 }
     s.served fn prio = true →
     ((s.fn fn).window = none →
       ((tail - q.head).toNat ≤ 2 ^ q.logn → exec (.launchQueueTailUpdate fn prio tail) s =
         .next ((s.hostPut q.base 4 tail.toNat).setLq fn prio { q with tail := tail })) ∧
       (2 ^ q.logn < (tail - q.head).toNat → exec (.launchQueueTailUpdate fn prio tail) s =
         .next (((s.hostPut q.base 4 tail.toNat).setLq fn prio { q with tail := tail, stopped := true }).postError fn 2 prio
           q.base 0 tail.toNat)) ∧
       (q.head ≠ q.tail →
         let p := s.hostRead slot 128
         (∀ reason u, s.checkPacket fn prio q.head slot p = .refused reason u →
           ((u.postError fn 1 prio slot reason index).fn fn).window = none →
           (u.postError fn 1 prio slot reason index).lq fn prio = q →
           exec (.launchPacketRead fn prio) s = .next ((next (u.postError fn 1 prio slot reason index)).hostPut
             (q.base + 132) 4 (q.head + 1).toNat)) ∧
         (∀ l u, s.checkPacket fn prio q.head slot p = .accepted l u → (u.fn fn).window = none → u.lq fn prio = q →
           (l.index = q.head ∧ l.slot = slot ∧ l.fn = fn ∧ l.prio = prio ∧ l.vi = fn) ∧
           exec (.launchPacketRead fn prio) s = .next ((next { u with launches := u.launches ++ [l] }).hostPut
             (q.base + 132) 4 (q.head + 1).toNat)))) ∧
     (∀ c va bs u, s.inWindow fn q.base = some (c, va) → s.ctxDefined c = true → s.ctxVi c = fn →
       s.ctxRead c fn 0 va 4 = .ok bs u →
       exec (.launchQueueTailUpdate fn prio tail) s = .next (u.seeTail fn prio (BitVec.ofNat 32 (ofBytesLE bs)))) ∧
     (∀ u, q.head ≠ q.tail → s.packetServed fn prio = .ok () u → exec (.launchPacketRead fn prio) s = .next u) ∧
     (∀ p : List Byte,
       (packetReserved p prio = true → s.checkPacket fn prio q.head slot p = .refused 1 s) ∧
       (packetReserved p prio = false → (s.ctxDefined (BitVec.ofNat 64 (natAt p 8 8)) = false ∨
         s.ctxVi (BitVec.ofNat 64 (natAt p 8 8)) ≠ fn) → s.checkPacket fn prio q.head slot p = .refused 2 s))) ∧
  ((∀ (s u : State) (id n : Nat) (l : Launch) (va v : DWord), s.launch id = some l → l.wait = some (va, v) →
     l.begun = false → s.atTurn l = true →
     (s.ctxWord l.ctx l.vi va = .ok n u →
       (n < v.toNat → exec (.waitCounterMet id) s = .next u) ∧
       (v.toNat ≤ n →
         let ps := u.owned l.vi
         let w := (ps.flatMap (fun p => upFrom (10 * p) 10)).foldl State.clearL1 u
         exec (.waitCounterMet id) s = .next ({ w with
           l2 := w.l2.filter (fun x => x.dirty || !isT1 (x.line * 128) || !(ps.any (fun p => p / 4 = x.slice / 32))) }.setLaunch
             { l with begun := true }))) ∧
     (∀ c, s.ctxWord l.ctx l.vi va = .fail c u →
       (c = 0x10 ∨ c = 0x11 → exec (.waitCounterMet id) s = .next { u.postError l.fn 1 l.prio l.slot 8 l.index.toNat with
           launches := u.launches.filter (fun x => x.id ≠ id) }) ∧
       (c ≠ 0x10 → c ≠ 0x11 → exec (.waitCounterMet id) s = .next u))) ∧
   (∀ (s : State) (id : Nat) (l : Launch), s.launch id = some l → l ∈ s.waitingLaunches l.vi → l.id = id →
     s.stopped = false → (∀ x, x ∈ s.waitingLaunches l.vi → l.prio < x.prio → s.canPlace x = false) →
     (∀ v, v ∈ s.saved → v.team.vi = l.vi → v.team.prio < l.prio) →
     (∀ core pos, l.decl.cooperative = false →
       s.spotFor l (l.coords l.placed).1 (l.coords l.placed).2.1 (l.coords l.placed).2.2 = some (core, pos) →
       exec (.teamPlacement id) s = .next ((s.settle (l.newTeam l.placed core pos s.now)).setLaunch
         { l with placed := l.placed + 1 })) ∧
     (∀ u, l.decl.cooperative = true → s.placeAll id (l.teams - l.placed) = some u →
       exec (.teamPlacement id) s = .next u)) ∧
   (∀ (l : Launch) (i core pos now th g n : Nat), l.decl.width ≠ 0 →
     let t := l.newTeam i core pos now
     t.vreg th n = (0, false) ∧ (t.thread th).pred n = false ∧ t.ureg g n = 0 ∧ t.tileElem g th n = 0 ∧
     t.bundles.length = l.decl.groups ∧
     ∀ b, b ∈ t.bundles → b.pc = l.decl.entry ∧ b.members.length = l.decl.width ∧
       ∀ x, x ∈ b.members → ∀ y, y ∈ b.members → t.groupOf x = t.groupOf y))

/-- TEAM_END: a team whose threads, words and operations have ended is gone, and its launch counts it, and is gone with
its last team (R25, R289). YIELD_REQUEST is raised on a team that must yield, and on all of its cooperative launch: on
a running team it wakes a sleeping bundle and starts the deadline, on a halted one it waits for the resumption; the
team is of a lower priority, on the die of the team that finds no core, and no request stands on it (R41, R294, R297).
YIELD_WITHDRAWAL takes back a request that nothing needs any more, at the end of the cycle, or at once where it waits
on halted teams alone. The last team of a launch with SIGEN = 1 adds SIGINC to the word at SIGVA, after a release at
.sys; an increment that its translation refuses is dropped with an error record of KIND 8, and one that meets a
residency fault is waited for (R289, R290). At the end of a cycle a team that has arrived at its YIELD words is saved
with their live set, whatever its deadline and a withdrawal say, once no stranded store faults there; a held fault that
its group can take comes before the decision (R266, R284, R297, R306). DEADLINE_EXPIRY decides a full save (R147,
R297). -/
def Obligations.TeamEvents : Prop :=
  ∀ (s : State) (tk : Nat) (t : Team), s.team tk = some t →
    (∀ l, s.overFor tk t = true → (∀ st, st ∈ s.stores → st.team ≠ tk) →
      s.owesChained tk (upFrom 0 t.threads.length) = false → s.launch t.launch = some l →
      let u := { s with teams := Sparse.erase s.teams tk }
      let gone (v : State) : State :=
        ({ v with launches := v.launches.filter (fun x => x.id ≠ l.id) } : State).finishLaunchBarriers l.id
      (l.ended + 1 < l.teams → exec (.teamEnd tk) s =
        .next ((u.setLaunch { l with ended := l.ended + 1 }).finishLaunchBarriers l.id)) ∧
      (l.teams ≤ l.ended + 1 →
        (l.signal = none → exec (.teamEnd tk) s = .next (gone u)) ∧
        ∀ va inc, l.signal = some (va, inc) →
          let reached := u.flushT1.ctxPlaces l.ctx l.vi 0 .atomic va.toNat 8
          (∀ c v, reached = .fail c v →
            exec (.teamEnd tk) s = .next (gone (v.postError l.fn 8 l.prio va.toNat 0 l.index.toNat))) ∧
          (∀ v, reached = .wait v → exec (.teamEnd tk) s = .next { s with dies := v.dies }) ∧
          ∀ p ps v w, reached = .ok (p :: ps) v →
            let word : Nat := ofBytesLE (v.placeBytes p) + inc.toNat
            v.putPlace p (bytesLE 8 word) = some w →
            exec (.teamEnd tk) s = .next (gone w.flushT1) ∧
            (p.scratch = false → p.chain = none → p.bytes.Nodup → p.bytes.length = 8 →
              p.bytes.map w.byte = bytesLE 8 (word % 2 ^ 64)))) ∧
    (∀ w, w ∈ s.waiters t.vi → s.mustYield t.vi w tk = true →
      exec (.yieldRequest tk) s = .next ((if t.decl.cooperative then s.teamsOf t.launch else [tk]).foldl (fun s k =>
        s.mapTeam k (fun t => t.raiseRequest (s.cycle t.core) (s.ctxDeadline t.ctx))) s)) ∧
    ((∀ w, w ∈ s.waiters t.vi → s.mustYield t.vi w tk = false) → exec (.yieldRequest tk) s = .next s) ∧
    (∀ w, s.mustYield t.vi w tk = true ↔ s.fits w = false ∧ (s.once []).fits w = false ∧
      ∃ die, (s.once []).stuckDie w = some die ∧ (s.victims t.vi w.prio die).head? = some tk) ∧
    (∀ vi prio die,
      let late (u : Team) : Nat := s.now - s.placedLast u.launch
      let may (k : Nat) (u : Team) : Prop := (k, u) ∈ s.teams ∧ u.vi = vi ∧ u.prio < prio ∧ coreDie u.core = die ∧ u.leaves = false
      (∀ k, k ∈ s.victims vi prio die ↔ ∃ u, may k u) ∧
      ∀ k, (s.victims vi prio die).head? = some k → ∃ u, may k u ∧
        ∀ j x, may j x → u.prio < x.prio ∨ (u.prio = x.prio ∧ late u ≤ late x)) ∧
    (s.overFor tk t = true ↔ (t.aborted = true ∨ ((∀ x, x ∈ t.threads → x.live = false) ∧ t.halt = none ∧ t.raised = [] ∧ t.held = [])) ∧
      (∀ w, w ∈ s.words → w.team ≠ tk) ∧ (∀ o, o ∈ s.ops → o.team ≠ tk) ∧ t.emulated = []) ∧
    (t.arrived = true ↔ t.yieldreq = true ∧ t.halt = none ∧ t.raised = [] ∧
      (∃ g, g < t.groups.length ∧ t.liveOf g ≠ []) ∧
      ∀ th, th < t.threads.length → (t.thread th).live = true → ∃ b ∈ t.bundles, b.wait = .yield ∧ th ∈ b.members) ∧
    (∀ cycle, t.decidable = true → t.arrived = true →
      let fault (s : State) (x : Bundle × Nat) : State :=
        if x.1.wait = .yield ∧ x.1.members ≠ [] then
          let lit (i : Nat) : DWord := match x.1.clause with
            | some c => c.words.getD (x.1.idx + i) 0
            | none => 0
          s.reissue tk x.2 (yieldSpec (rFields x.1.stopWord) (lit 1) (lit 2))
        else s
      s.decide tk cycle = (t.bundles.zipIdx.foldl fault s).mapTeam tk (fun u =>
        if u.decidable = true ∧ u.arrived = true then { u with saving := some false, withdrawing := false } else u)) ∧
    (∀ cycle deadline,
      (t.halt = none → t.yieldreq = false →
        let u := t.raiseRequest cycle deadline
        u.yieldreq = true ∧ u.requested = false ∧ u.deadline = some (cycle, if deadline = 0 then 20000 else deadline) ∧
        u.threads = t.threads ∧ u.groups = t.groups ∧ u.bundles.length = t.bundles.length ∧
        ∀ (bi : Nat) (b : Bundle), t.bundle bi = some b →
          (∀ n, b.wait = .sleep n → u.bundle bi = some (b.advance 1)) ∧
          ((∀ n, b.wait ≠ .sleep n) → u.bundle bi = some b)) ∧
      (t.halt ≠ none → t.yieldreq = false → t.raiseRequest cycle deadline = { t with requested := true }) ∧
      (t.yieldreq = true → t.raiseRequest cycle deadline = { t with withdrawing := false })) ∧
    (let ks := if t.decl.cooperative then s.teamsOf t.launch else [tk]
     t.yieldreq = true ∨ t.requested = true → s.met t ks = false →
      ((∀ w, w ∈ s.waiters t.vi → t.prio < w.prio → s.fits w = true ∨ (s.once ks).fits w = true) →
        ((∃ k ∈ ks, ∃ u, s.team k = some u ∧ u.yieldreq = true) → exec (.yieldWithdrawal tk) s =
          .next (ks.foldl (fun s k => s.mapTeam k (fun u => { u with withdrawing := u.yieldreq })) s)) ∧
        ((∀ k, k ∈ ks → ∀ u, s.team k = some u → u.yieldreq = false) → exec (.yieldWithdrawal tk) s =
          .next (ks.foldl (fun s k => s.mapTeam k (fun u => { u with
            yieldreq := false, requested := false, withdrawing := false, deadline := none
            bundles := u.bundles.map (fun b => if b.wait = .yield then b.advance 3 else b) })) s))) ∧
      ((∃ w, w ∈ s.waiters t.vi ∧ s.stillNeeds w t ks = true) → exec (.yieldWithdrawal tk) s = .next s)) ∧
    (∀ cycle x, x ∈ t.held → (t.liveOf x.1 = [] ∨ (t.boundaryOf x.1).isSome = true) → s.decide tk cycle = s) ∧
    (∀ cycle, t.decidable = true → t.arrived = false →
      (t.due (cycle t.core) = true → s.decide tk cycle = s.setTeam tk { t with saving := some true, withdrawing := false }) ∧
      (t.due (cycle t.core) = false → t.withdrawing = false → s.decide tk cycle = s) ∧
      (t.due (cycle t.core) = false → t.withdrawing = true → t.decl.cooperative = false →
        s.decide tk cycle = s.setTeam tk { t with
          yieldreq := false, requested := false, withdrawing := false, deadline := none
          bundles := t.bundles.map (fun b => if b.wait = .yield then b.advance 3 else b) })) ∧
    (∀ start n, t.deadline = some (start, n) → t.decidable = true → t.arrived = false → 0 < s.cycle t.core →
      start + n < s.cycle t.core →
      exec (.deadlineExpiry tk) s = .next (s.setTeam tk { t with saving := some true, withdrawing := false }))

/-- TEAM_SAVE: a team whose save was decided and that has drained, its stores committed where they can be, is written
to the save area and the queue save block of its context, and waits for its restore with its re-links, its held stores
and the threads of its set-aside lanes; the bridge gates do not drop what the save engine writes (R87, R117, R130,
R298, R299). Beside another saved team of the context its area and its block take the first bytes that are free from
SAVEVA and QSAVEVA on (log 20); the record of re-links, slots, lanes and held stores is the model's (logs 62, 64, 86).
TEAM_RESTORE: a saved team stands again on a placement, alone or with all of its cooperative launch, with what its area
and its block hold; its re-links go on, its set-aside lanes and held stores are its own again, the threads that ran its
handler run it still, and its cores' L1 are cleared (R41, R292, R300, R315). Stores and their packets are named by the
team again, which is the model's record (logs 62, 64, 86). -/
def Obligations.SaveAndRestore : Prop :=
  ((∀ (s u : State) (tk : Nat) (t0 t : Team) (full : Bool), s.team tk = some t0 → t0.saving = some full →
     t0.aborted = false → t0.raised = [] →
     let v := s.commitAll ((s.stores.filter (fun st => st.team = tk)).map (·.id))
     v.team tk = some t → v.saveDrained tk t = true →
     let mine := v.ops.filter (fun o => o.team = tk)
     let aside := mine.filter (fun o => !o.waitingLanes.isEmpty)
     let kept := mine.filter (fun o => match o.kind with
       | .relink .. => !o.done
       | .chained => !v.opEnded o
       | _ => false)
     let t' := t.settleForSave aside kept
     let area := t'.areaImage full (t.liveSet full) ((upFrom 0 t'.threads.length).map t.threadState)
     let block := t'.queueImage aside
     let others := v.saved.filter (fun y => y.team.ctx = t.ctx)
     let a := freeSpan (v.ctxSaveVa t.ctx).toNat area.length (others.map (fun y => (y.areaAt, y.areaSize)))
     let q := freeSpan (v.ctxQSaveVa t.ctx).toNat block.length (others.map (fun y => (y.queueAt, y.queueSize)))
     (v.ctxWrite t.ctx t.vi (coreDie t.core) a area false).bind
       (fun _ v => v.ctxWrite t.ctx t.vi (coreDie t.core) q block false) = .ok () u →
     exec (.teamSave tk) s = .next { u with
       teams := Sparse.erase u.teams tk
       ops := u.ops.filter (fun o => o.team ≠ tk)
       stores := u.stores.filter (fun st => st.team ≠ tk)
       nextId := u.nextId + 1
       saved := u.saved ++ [{
         id := u.nextId, team := t'.strip, full := full, relinks := kept
         lanes := aside.flatMap (fun o => o.waitingLanes.map (fun l => l.thread))
         faulter := t.faulter, handlers := (t.bundles.filter (·.handler)).flatMap (·.members), slots := t.slotsHeld
         stores := (u.stores.filter (fun st => st.team = tk)).map (fun st => { st with team := 2 ^ 20 + u.nextId })
         areaAt := a, areaSize := area.length, queueAt := q, queueSize := block.length }] }) ∧
   (∀ (s : State) (tk : Nat) (t : Team), s.team tk = some t → (∀ w, w ∈ s.words → w.team ≠ tk) → t.emulated = [] →
     s.repliesDue t = false → (∀ o, o ∈ s.ops → o.team = tk → s.maySetAside t o = true) → t.halt ≠ none →
     (∀ st, st ∈ s.stores → st.team = tk → st.stranded.isSome = true ∨ t.heldStore st = true) →
     s.saveDrained tk t = true) ∧
   ∀ (base size : Nat) (taken : List (Nat × Nat)),
     let a := freeSpan base size taken
     base ≤ a ∧ (taken = [] → a = base) ∧ ∀ x, x ∈ taken → a + size ≤ x.1 ∨ x.1 + x.2 ≤ a) ∧
  ((∀ (s u : State) (id : Nat) (v : Saved), s.saved.find? (fun v => v.id = id) = some v → s.stopped = false →
     s.splitLaunch v = false → s.goesBefore v = false → s.restoreAll (s.restoredWith v) = .ok () u →
     exec (.teamRestore id) s = .next u) ∧
   (∀ (s s1 s2 u : State) (v : Saved) (core pos : Nat) (area block : List Byte),
     s.spotOf v = some (core, pos) → s.ctxRead v.team.ctx v.team.vi (coreDie core) v.areaAt v.areaSize false = .ok area s1 →
     s1.ctxRead v.team.ctx v.team.vi (coreDie core) v.queueAt v.queueSize false = .ok block s2 →
     let t := v.restored area block core pos s2.now
     let key := 32 * core + pos
     s.restoreOne v = .ok () u →
     u.team key = some { t with bundles := t.bundles.map (fun b => { b with age := s2.cycle (t.bundleCore b) }) } ∧
     t.core = core ∧ t.pos = pos ∧ t.placedAt = s2.now ∧
     (∀ b, b ∈ t.bundles → ∀ th, th ∈ b.members → (b.handler = true ↔ th ∈ v.handlers)) ∧
     t.threads = (v.team.load area).threads ∧ t.groups = (v.team.load area).groups ∧
     t.tiles = (v.team.load area).tiles ∧ t.scratch = (v.team.load area).scratch ∧
     t.pipes = (v.team.loadQueues block).pipes ∧ t.notices = (v.team.loadQueues block).notices ∧
     t.replies = (v.team.loadQueues block).replies ∧ t.cbufs = (v.team.loadQueues block).cbufs ∧
     u.stores = s2.stores ++ v.stores.map (fun st => { st with team := key }) ∧
     u.saved = s2.saved.filter (fun x => x.id ≠ v.id) ∧
     u.ops = s2.ops ++ v.relinks.map (fun o => { o with team := key }) ++ t.asideOps block v.lanes s2.nextId key ∧
     u.landing = s2.landing.map (fun y => { y with team := if y.team = 2 ^ 20 + v.id then key else y.team }) ∧
     u.acks = s2.acks.map (fun y => { y with team := if y.team = 2 ^ 20 + v.id then key else y.team }) ∧
     ∀ c, c ∈ t.coreList → (u.core c).l1 = []))

/-- Writes to a function's window (R322): LQ takes a well-formed value while its queue is empty, CMDQ and ERRREC take a
value without a reserved bit and with an n in range, CMDTAIL takes its low half; a write that breaks a rule is ignored
with an error record of KIND 2, a write of ERRREC clears ERRLOST, every other offset ignores the write; and what the
window then reads. That an accepted write of LQ keeps HEAD, TAIL and the stop is the model's reading (log 51). -/
def Obligations.WindowWrites : Prop :=
  ∀ (s : State) (fn : Nat) (value : DWord), s.ready = true → fn ≤ 64 →
    (∀ prio, prio < 4 →
      let q := s.lq fn prio
      let n := fld value 4 0
      (q.head = q.tail → fld value 6 5 = 0 → 4 ≤ n → n ≤ 16 →
        exec (.lqWrite fn prio value) s = .next (s.setLq fn prio { q with reg := value }) ∧
        (s.setLq fn prio { q with reg := value }).windowRead fn (8 * prio) = value) ∧
      (q.head ≠ q.tail ∨ fld value 6 5 ≠ 0 ∨ n < 4 ∨ 16 < n →
        exec (.lqWrite fn prio value) s = .next (s.postError fn 2 prio (8 * prio) 1 0))) ∧
    (let n := fld value 3 0
     let good (top : Nat) : Prop := fld value 11 4 = 0 ∧ 4 ≤ n ∧ n ≤ top
     (good 8 → ∃ u, exec (.errrecWrite fn value) s = .next u ∧ u.windowRead fn 0x30 = value ∧
       (u.fn fn).errlost = false ∧ { u with fns := s.fns } = s) ∧
     (¬ good 8 → exec (.errrecWrite fn value) s = .next (s.postError fn 2 0 0x30 1 0)) ∧
     (good 12 → ∃ u, exec (.registerWrite fn 0x20 value) s = .next u ∧ u.windowRead fn 0x20 = value ∧
       { u with fns := s.fns } = s) ∧
     (¬ good 12 → exec (.registerWrite fn 0x20 value) s = .next (s.postError fn 2 0 0x20 1 0))) ∧
    (∃ u, exec (.registerWrite fn 0x28 value) s = .next u ∧
      u.windowRead fn 0x28 = (s.fn fn).cmdhead ++ value.setWidth 32 ∧ { u with fns := s.fns } = s) ∧
    (∀ off, off ∉ [0x00, 0x08, 0x10, 0x18, 0x20, 0x28, 0x30] → exec (.registerWrite fn off value) s = .next s)

/-- HOST_WINDOW_ACCESS reaches bytes of one 64-byte line of a T0 page that the function's own context maps, whole, else
posts KIND 9: a read needs V and RD, a write W or COW; the copy-on-write is made first, and without a frame, or of a
migrating page, the write waits; a write that covers a poisoned line in part is dropped (R103, R122, R126, R351).
FLIT_CRC_ERROR: the sixteenth failing retry in a row costs a spare lane, or the link (R328).
UNCORRECTABLE_ERROR_OUTSIDE_TEAM poisons the line (R326). POWER_ON brings the module up (R332); THERMAL_THROTTLE,
OVERTEMPERATURE_STOP and MODULE_RESET (R333); FIRMWARE_SWITCH_COMPLETE runs the activated image and extends M1 (R329,
R330). The model's: whole accesses within a 64-byte line and dropped partial writes (log 58), the link's record (logs
48, 59), the throttle's ring and what an error marks (log 60), and what stays over a module reset (log 61). -/
def Obligations.ModuleEvents : Prop :=
  ∀ s : State,
    (∀ (fn : Nat) (c va : DWord) (x : HostAccess), s.ready = true → fn ≤ 64 → 0 < x.bytes →
      va.toNat % 64 + x.bytes ≤ 64 →
      let place := s.windowPlace fn c va.toNat x.bytes x.data.isSome
      (∀ u, place = .not u → exec (.hostWindowAccess fn c va x) s =
        .next (u.postError fn 9 0 va.toNat (if x.data.isSome then 1 else 0) 0)) ∧
      (∀ u, place = .wait u → exec (.hostWindowAccess fn c va x) s = .next u) ∧
      (∀ p u, place = .reached p u →
        (∀ n, x = .read n → exec (.hostWindowAccess fn c va x) s = .next u ∧
          s.windowBytes fn c va.toNat n = if u.poisoned (u.physOf p) then none else some (u.placeBytes p)) ∧
        (∀ bs v, x = .write bs → u.spoils p = false → (u.cure p).putPlace p bs = some v →
          exec (.hostWindowAccess fn c va x) s = .next v) ∧
        (∀ bs, x = .write bs → u.spoils p = true → exec (.hostWindowAccess fn c va x) s = .next u))) ∧
    (∀ (fn va n : Nat) (c : DWord) (write : Bool),
      let k : Kind := if write then .store else .load
      let vi := s.ctxVi c
      let u := s.touchPage c vi va
      let place := s.windowPlace fn c va n write
      (s.ctxDefined c = false ∨ vi ≠ fn → place = .not s) ∧
      (s.ctxDefined c = true → vi = fn →
        (u.leaf c va = none → place = .not u) ∧
        ∀ a, u.leaf c va = some a →
          let got (v : State) : Window :=
            let p := pagePlace 0 k (v.pte a) va n
            if v.gateOpen vi p then .reached p v else .not v
          (pteTier (u.pte a) ≠ 0 → place = .not u) ∧
          (pteTier (u.pte a) = 0 →
            (∀ cause, u.checkPage c vi 0 k va = .trap cause → place = .not u) ∧
            (u.checkPage c vi 0 k va = .replay 0x12 → place = .not u) ∧
            (∀ b x d, u.checkPage c vi 0 k va = .page b x d → place = got u) ∧
            (u.checkPage c vi 0 k va = .replay 0x13 →
              (u.resolveCow c vi a = none → place = .wait u) ∧
              ∀ v, u.resolveCow c vi a = some v →
                (∀ b x d, v.checkPage c vi 0 k va = .page b x d → place = got v) ∧
                ((∀ b x d, v.checkPage c vi 0 k va ≠ .page b x d) → place = .wait v)) ∧
            (u.checkPage c vi 0 k va = .replay 0 → place = .wait u)))) ∧
    (∀ (c : DWord) (vi va a : Nat), va < 2 ^ 57 → s.leaf c va = some a →
      let x := s.pte a
      (pteV x = false → pteDemand x = false → ∀ k, s.checkPage c vi 0 k va = .trap 0x10) ∧
      (pteV x = true → s.pteReserved vi x = false → pteTier x = 0 → pteClass x = 0 →
        s.checkPage c vi 0 .load va = (if pteRd x then .page a x false else .trap 0x11) ∧
        s.checkPage c vi 0 .store va = (if pteW x = false ∧ pteCow x = false then .trap 0x11
          else if pteCow x then .replay 0x13
          else if (s.frame (frameKey (pteHome x) (pteLoc x))).state = 3 then .replay 0
          else .page a x false))) ∧
    (∀ (l : Nat) (again : Bool), l < 10 → (s.link l).up = true →
      let x := s.link l
      let n := if again then x.failures + 1 else 0
      (n < 16 → exec (.flitCrcError l again) s =
        .next { s with links := Sparse.put s.links {} l { x with failures := n } }) ∧
      (16 ≤ n → 1 < x.spares → exec (.flitCrcError l again) s = .next { s with
        links := Sparse.put s.links {} l { failures := 0, spares := x.spares - 1, up := true } }) ∧
      (16 ≤ n → x.spares ≤ 1 → exec (.flitCrcError l again) s = .next ((upFrom 0 8).foldl State.loseDie
        ({ s with links := Sparse.put s.links {} l { failures := 0, spares := x.spares - 1, up := false } }.postError 64 6
          (2 ^ 15 + (linkDies l).1 * 2 ^ 8 + (linkDies l).2 * 2 ^ 11) 0 0 0)))) ∧
    (∀ (fn part : Nat) (a : DWord), part < 32 → a.toNat < 2 ^ 35 → ∃ u : State,
      exec (.uncorrectableErrorOutsideTeam fn part a) s = .next (u.postError fn 5 part a.toNat 0 0) ∧
      { u with poison := s.poison } = s ∧ ∀ l, l ∈ u.poison ↔ l ∈ s.poison ∨ l = lineOf (part * 2 ^ 35 + a.toNat)) ∧
    (s.ready = false → s.stopped = false → ∃ u : State, exec .powerOn s = .next u ∧ u.ready = true ∧ u.teams = [] ∧ u.mem = [] ∧
      ∀ d, d < 8 → (u.die d).m0 = extend 0 (Config.bootDigest d) ∧ (u.die d).m1 = 0 ∧
        (u.die d).m2 = extend 0 (Config.calibrationDigest d) ∧ (u.die d).m3 = 0) ∧
    (∀ on, s.throttled ≠ on → s.ready = true → exec (.thermalThrottle on) s =
      .next ({ s with throttled := on }.postError 64 7 0 0 0 0)) ∧
    (∀ d, d < 8 → ∃ u : State, exec (.overtemperatureStop d) s = .next u ∧ u.stopped = true ∧ u.ready = false ∧ u.teams = [] ∧
      u.mem = []) ∧
    (∃ u : State, exec .moduleReset s = .next u ∧ u.stopped = false ∧ u.ready = false ∧ u.teams = [] ∧ u.mem = [] ∧
      u.hostMem = s.hostMem ∧ u.pool = s.pool) ∧
    (∀ d x m, (s.die d).activating = some x → (s.die d).switching = true → m ∈ (s.die d).migration → m.begun ≠ none →
      exec (.firmwareSwitchComplete d) s = .next s) ∧
    (∀ d x, (s.die d).activating = some x → (s.die d).switching = true →
      (∀ m, m ∈ (s.die d).migration → m.begun = none) →
      exec (.firmwareSwitchComplete d) s = .next { s.setDie d { s.die d with
        switching := false, activating := none, firmware := x, m1 := extend (s.die d).m1 x } with suspended := false })

/-- The checks of R323 before a command's own rule, in their order: a physical function's command on another ring (5),
an unassigned opcode, a set bit outside the operands or a malformed value (4), a context of another virtual interface
(5), an undefined context (2). Completion is a release at .sys: the dirty lines of T1 reach the pool, then it writes
STATUS, then CMDHEAD (R285, R323). -/
def Obligations.CommandChecks : Prop :=
  (∀ (s : State) (fn : Nat) (e : BitVec 512) (i : Instr) (c : Command),
    (i, c) ∈ [(.mapnew fn e, mapnewCommand e), (.map fn e, mapCommand e), (.share fn e, shareCommand e),
      (.reserve fn e, reserveCommand e), (.unmap fn e, unmapCommand e), (.protect fn e, protectCommand e),
      (.mapchain fn e, mapchainCommand e), (.migrate fn e, migrateCommand e), (.resume fn e, resumeCommand e),
      (.resumeskip fn e, resumeskipCommand e), (.abort fn e, abortCommand e), (.savefull fn e, savefullCommand e),
      (.setctx fn e, setctxCommand e), (.setpart fn e, setpartCommand e), (.setflight fn e, setflightCommand e),
      (.setvi fn e, setviCommand e), (.qreset fn e, qresetCommand e fn), (.fwstage fn e, fwstageCommand e),
      (.fwactivate fn e, fwactivateCommand e), (.dieout fn e, dieoutCommand e), (.diein fn e, dieinCommand e),
      (.attest fn e, attestCommand e fn)] →
    s.nextCommand fn = some e → decodeCommand fn e = i → s.stopped = false →
    let foreign := c.physical = true ∧ fn ≠ 64
    let bad := c.stray e = true ∨ c.malformed = true ∨ ∃ x, x ∈ c.ctxs ∧ locatorOk x = false
    let other := fn ≠ 64 ∧ ∃ x, x ∈ c.ctxs ∧ s.ctxVi x ≠ fn
    (foreign → exec i s = .next (s.completeCommand fn 5)) ∧
    (¬ foreign → bad → exec i s = .next (s.completeCommand fn 4)) ∧
    (¬ foreign → ¬ bad → other → exec i s = .next (s.completeCommand fn 5)) ∧
    (¬ foreign → ¬ bad → ¬ other → (∃ x, x ∈ c.ctxs ∧ s.ctxDefined x = false) →
      exec i s = .next (s.completeCommand fn 2))) ∧
  (∀ (s : State) (fn : Nat) (e : BitVec 512), s.nextCommand fn = some e →
    decodeCommand fn e = .unassignedOpcCommand fn e → s.stopped = false →
    exec (.unassignedOpcCommand fn e) s = .next (s.completeCommand fn 4)) ∧
  (∀ (s : State) (fn status a : Nat), s.commandSlot fn = some a →
    s.completeCommand fn status = (s.flushT1.hostPut (a + 2) 2 status).setFn fn
      { s.fn fn with cmdhead := (s.fn fn).cmdhead + 1, moved := none })

/-- The table commands (R127, R128, R325): MAPNEW and MAPCHAIN take new frames; MAP and SHARE join a ring of sharers,
SHARE with COW set and W clear on both sides; RESERVE writes demand entries; UNMAP and PROTECT strand the stores that
may no longer be made, and the frame of a last mapping is free; MIGRATE puts its request into the queue of the page's
home die and completes when that is served, refused for a page that cannot move and busy where the queue or the target
is full. And what these do: a new frame is the top of a partition's free list, or of a far table the lowest free entry
(log 108); the first mapping of a frame makes a ring of one and REFS 1, each further one stands in the ring behind the
PTE that the descriptor names (log 117) and counts in REFS; a mapping taken away leaves the ring and REFS, the last one
frees an HBM frame that nothing pins (its bytes zero, at the head of the free list, its VI kept, log 71) and leaves a
pinned one draining; a stranded store, a saved team's too, is one that is not stranded yet, lies on the page and was
translated by that PTE, and it keeps the fault's cause. The model's choice: the far entry that is taken (log 108), the
place of a new PTE in its ring (log 117), VI of a freed frame (log 71), SHARE of reservations and of unmapped pages and
MAPCHAIN's HOME 0 (log 57), the STATUS of a MIGRATE in the cases that no rule states (log 53). -/
def Obligations.TableCommands : Prop :=
  (∀ (s : State) (fn : Nat) (e : BitVec 512),
    let c := cmdLoc e 8
    let va := cmdOp e 16 64
    let home := cmdOp e 24 5
    let tier := cmdOp e 25 2
    let fl := cmdOp e 26 5
    let count := cmdOp e 28 32
    let vi := s.ctxVi c
    (s.Commands (.mapnew fn e) (mapnewCommand e) fn e → pteV (s.pageEntry c va) = false →
      ∀ (a loc : Nat) (u v : State), s.makeLeaf c va = some (a, u) → u.takeFrame vi tier home = some (loc, v) →
        exec (.mapnew fn e) s = .next ((v.joinRing vi a (plainPte fl home tier loc)).completeCommand fn 1)) ∧
    (s.Commands (.mapnew fn e) (mapnewCommand e) fn e → pteV (s.pageEntry c va) = true →
        exec (.mapnew fn e) s = .next (s.completeCommand fn 2)) ∧
    (s.Commands (.map fn e) (mapCommand e) fn e → pteV (s.pageEntry c va) = false →
      s.frameExists vi tier count = true → (s.desc vi tier home count).state = 1 → (s.desc vi tier home count).vi = vi →
      (s.desc vi tier home count).refs ≠ 2 ^ 32 - 1 →
      ∀ (a : Nat) (u : State), s.makeLeaf c va = some (a, u) →
        exec (.map fn e) s = .next ((u.joinRing vi a (plainPte fl home tier count)).completeCommand fn 1)) ∧
    (s.Commands (.share fn e) (shareCommand e) fn e →
      let c' := cmdLoc e 24
      let src := pagesOf va (cmdOp e 40 32)
      let dst := pagesOf (cmdOp e 32 64) (cmdOp e 40 32)
      let mapped := (src.map (s.pageEntry c)).filter pteV
      let t := mapped.foldl State.commitPage s
      vi = s.ctxVi c' → dst.any (fun v => pteV (s.pageEntry c' v)) = false → mapped.any t.storesOn = false →
      ∀ (as bs : List Nat) (u v : State), t.makeLeaves c src = some (as, u) → u.makeLeaves c' dst = some (bs, v) →
        exec (.share fn e) s = .next (((as.zip bs).foldl (fun (s : State) p =>
          let x := setBits (setBits (s.pte p.1) 4 4 1) 3 3 0
          if pteV x then (s.setPte p.1 x).joinRing (s.ctxVi c) p.2 x
          else if pteDemand x then (s.setPte p.1 x).setPte p.2 x
          else s.setPte p.2 0) v).completeCommand fn 1)) ∧
    (s.Commands (.reserve fn e) (reserveCommand e) fn e →
      (pagesOf va count).any (fun v => pteV (s.pageEntry c v)) = false →
      ∀ (as : List Nat) (u : State), s.makeLeaves c (pagesOf va count) = some (as, u) →
        exec (.reserve fn e) s = .next ((as.foldl (fun (s : State) a =>
          s.setPte a (128 + flagBits fl + home * 2 ^ 43)) u).completeCommand fn 1)) ∧
    (s.Commands (.unmap fn e) (unmapCommand e) fn e →
      let as := (pagesOf va count).filterMap (s.leaf c)
      as.any (fun a => pteV (s.pte a) && s.underEntry (s.pte a)) = false →
      exec (.unmap fn e) s = .next ((as.foldl (fun (u : State) a =>
        if pteV (u.pte a) then (u.strand a (u.pte a) 0x10).unlink (u.ctxVi c) a else u.setPte a 0) s).completeCommand fn 1)) ∧
    (s.Commands (.protect fn e) (protectCommand e) fn e →
      let as := (pagesOf va count).filterMap (s.leaf c)
      let kept := as.filter (fun a => pteV (s.pte a) && s.keepsStores vi (withFlags (s.pte a) fl))
      let t := kept.foldl (fun (s : State) a => s.commitPage (s.pte a)) s
      (pagesOf va count).all (fun v => pteV (s.pageEntry c v) || pteDemand (s.pageEntry c v)) = true →
      as.any (fun a => pteV (t.pte a) && t.underEntry (t.pte a)) = false → kept.any (fun a => t.storesOn (t.pte a)) = false →
      exec (.protect fn e) s = .next ((as.foldl (fun (u : State) a =>
        let x := u.pte a
        (if pteV x && !u.keepsStores vi (withFlags x fl) then u.strand a x 0x11 else u).setPte a (withFlags x fl))
          t).completeCommand fn 1)) ∧
    (s.Commands (.mapchain fn e) (mapchainCommand e) fn e → pteV (s.pageEntry c va) = false →
      let flight := cmdOp e 24 6
      (s.flight flight).valid = true → (s.flight flight).owner = vi →
      ∀ (a i : Nat) (u v : State), s.makeLeaf c va = some (a, u) → u.newEntry flight vi = some (i, v) →
        exec (.mapchain fn e) s = .next
          ((v.joinRing vi a (1 + flagBits fl + i * 2 ^ 48 + 2 ^ 80 + flight * 2 ^ 82)).completeCommand fn 1)) ∧
    (s.Commands (.migrate fn e) (migrateCommand e) fn e →
      let x := s.pageEntry c va
      let die := pteHome x / 4
      let bad : Prop := pteV x = false ∨ pteClass x = 1 ∨ s.pteReserved vi x = true ∨ (s.pageDesc vi x).state ≠ 1
      let full : Prop := 1024 ≤ (s.die die).migration.length ∨
        s.takeFrame vi tier (if tier = 0 then home else pteHome x) = none
      ((s.fn 64).moved = none →
        (bad → exec (.migrate fn e) s = .next (s.completeCommand fn 2)) ∧
        (¬ bad → full → exec (.migrate fn e) s = .next (s.completeCommand fn 3)) ∧
        (¬ bad → ¬ full → exec (.migrate fn e) s = .next ((s.setDie die { s.die die with
          migration := (s.die die).migration ++ [{ ctx := c, vi := vi, va := BitVec.ofNat 64 va
                                                   target := some (tier, home) }] }).setFn 64
            { s.fn 64 with moved := some 0 }))) ∧
      ((s.fn 64).moved = some 0 → exec (.migrate fn e) s = .next s) ∧
      (∀ k, (s.fn 64).moved = some (k + 1) → exec (.migrate fn e) s = .next (s.completeCommand fn (k + 1))))) ∧
  (∀ (s : State) (vi p : Nat),
    let k := frameKey p (s.part p).freehead
    s.takeFrame vi 0 p = if (s.part p).freecnt = 0 then none
      else some ((s.part p).freehead, (s.setFrame k { s.frame k with refs := 0, state := 1, vi := vi }).setPart p
        { s.part p with freecnt := (s.part p).freecnt - 1, freehead := (s.frame k).next })) ∧
  (∀ (s : State) (vi tier p : Nat), tier = 1 ∨ tier = 2 →
    let n := if tier = 1 then (s.viEntry vi).n1 else (s.viEntry vi).n2
    (s.takeFrame vi tier p = none → ∀ i, i < n → (s.desc vi tier 0 i).state ≠ 0) ∧
    ∀ (i : Nat) (v : State), s.takeFrame vi tier p = some (i, v) → i < n ∧ (s.desc vi tier 0 i).state = 0 ∧
      (∀ j, j < i → (s.desc vi tier 0 j).state ≠ 0) ∧
      v = s.setDesc vi tier 0 i { s.desc vi tier 0 i with refs := 0, state := 1, vi := vi }) ∧
  (∀ (s : State) (vi a x : Nat), x < 2 ^ 128 → pteClass x ≠ 1 → pteTier x = 0 →
    let k := frameKey (pteHome x) (pteLoc x)
    let d := s.frame k
    let r := d.rmpart * 2 ^ 35 + d.rmpa
    let v := s.joinRing vi a x
    (∀ j, j ≠ k → v.frame j = s.frame j) ∧
    (d.refs = 0 → v.frame k = { d with refs := 1, rmpart := a / 2 ^ 35, rmpa := a % 2 ^ 35 } ∧
      v.pte a = setPteNext x a) ∧
    (d.refs ≠ 0 → (r + 16 ≤ a ∨ a + 16 ≤ r) → v.frame k = { d with refs := d.refs + 1 } ∧
      v.pte a = setPteNext x (pteNext (s.pte r)) ∧ v.pte r = setPteNext (s.pte r) a)) ∧
  (∀ (s : State) (vi a : Nat), pteClass (s.pte a) ≠ 1 → pteTier (s.pte a) = 0 →
    let x := s.pte a
    let p := pteHome x
    let k := frameKey p (pteLoc x)
    let d := s.frame k
    let v := s.unlink vi a
    v.pte a = 0 ∧ (∀ j, j ≠ k → v.frame j = s.frame j) ∧
    (d.refs ≤ 1 → d.pins = 0 →
      v.frame k = { freshFrame (pteLoc x) with next := (s.part p).freehead, vi := d.vi } ∧
      v.part p = { s.part p with freecnt := (s.part p).freecnt + 1, freehead := pteLoc x } ∧
      ∀ b, frameBase 0 p (pteLoc x) ≤ b → b < frameBase 0 p (pteLoc x) + 65536 → v.mem.read b = 0) ∧
    (d.refs ≤ 1 → d.pins ≠ 0 → v.frame k = { d with refs := 0, state := 2, rmpart := 0, rmpa := 0 } ∧ v.part p = s.part p) ∧
    (1 < d.refs →
      (d.rmpart * 2 ^ 35 + d.rmpa ≠ a → v.frame k = { d with refs := d.refs - 1 }) ∧
      (d.rmpart * 2 ^ 35 + d.rmpa = a →
        v.frame k = { d with refs := d.refs - 1, rmpart := pteNext x / 2 ^ 35, rmpa := pteNext x % 2 ^ 35 }) ∧
      ∀ b, (s.ringOf d).find? (fun b => pteNext (s.pte b) = a) = some b → b + 16 ≤ a ∨ a + 16 ≤ b →
        v.pte b = setPteNext (s.pte b) (pteNext x))) ∧
  (∀ (s : State) (a x : Nat) (cause : BitVec 8),
    let here (ctx : DWord) (st : Store) : Prop :=
      st.stranded = none ∧ onPage x st.place = true ∧ s.leaf ctx (st.va.toNat + st.off) = some a
    let v := s.strand a x cause
    v = { s with stores := v.stores, saved := v.saved } ∧ v.stores.length = s.stores.length ∧
    v.saved.length = s.saved.length ∧
    (∀ (i : Nat) (st : Store), s.stores[i]? = some st →
      (∀ t, s.team st.team = some t → here t.ctx st → v.stores[i]? = some { st with stranded := some cause }) ∧
      ((∀ t, s.team st.team = some t → ¬ here t.ctx st) → v.stores[i]? = some st)) ∧
    ∀ (i : Nat) (y : Saved), s.saved[i]? = some y → ∃ ys : List Store,
      v.saved[i]? = some { y with stores := ys } ∧ ys.length = y.stores.length ∧
      ∀ (j : Nat) (st : Store), y.stores[j]? = some st →
        (here y.team.ctx st → ys[j]? = some { st with stranded := some cause }) ∧
        (¬ here y.team.ctx st → ys[j]? = some st))

/-- The owner commands act on the halted team that CTX, CORE, position and SEQ name (R315, R324), ABORT so that no word
of the team that waits counts as issued (R146); the commands that set up and service the module: SETCTX (R119), SETPART
(R98, R105), SETFLIGHT (R132), SETVI (R131), QRESET (R114), FWSTAGE and FWACTIVATE (R330), DIEOUT and DIEIN (R331),
ATTEST (R329). A command whose DMA read or write fails is refused (R323). The model's choice: the report's layout with
the public key last (log 10), M3 of all dies by SETVI and zeros by SETFLIGHT and SETPART (log 54), when an FWACTIVATE
completes (log 55), busy while any die is switching, the named one too (log 104), and a DIEOUT that waits (log 56). -/
def Obligations.ServiceCommands : Prop :=
  ∀ (fn : Nat) (e : BitVec 512),
    let key := ownerKey e
    let die := cmdOp e 8 3
    (∀ (s : State) (t : Team) (h : Halt), s.team key = some t → t.halt = some h → t.ctx = cmdLoc e 8 →
      h.phase = .halted → h.seq = BitVec.ofNat 32 (cmdOp e 20 32) → t.saving = none → t.aborted = false →
      (s.Commands (.resume fn e) (resumeCommand e) fn e →
        exec (.resume fn e) s = .next ((((s.setTeam key (resumeTeam t false 0)).restartDeadline key t).finishBarriers
          key).completeCommand fn 1)) ∧
      (s.Commands (.resumeskip fn e) (resumeskipCommand e) fn e →
        (h.trap.bundle ≠ none → h.trap.widx ≠ 0xFFFFFFFF ∧ h.trap.info.cause ≠ 0x05) →
        exec (.resumeskip fn e) s = .next (((((s.setTeam key (resumeTeam t true h.skipLength)).restartDeadline
          key t).nextStranded key t).finishBarriers key).completeCommand fn 1)) ∧
      (s.Commands (.abort fn e) (abortCommand e) fn e →
        exec (.abort fn e) s = .next ((s.setTeam key { t.unissueAll with aborted := true }).completeCommand fn 1)) ∧
      (s.Commands (.savefull fn e) (savefullCommand e) fn e →
        exec (.savefull fn e) s = .next ((s.setTeam key { t with saving := some true }).completeCommand fn 1))) ∧
    (∀ s : State, s.Commands (.setctx fn e) (setctxCommand e) fn e →
      s.teams.all (fun kt => kt.2.ctx ≠ cmdLoc e 8) = true →
      let image := s.hostRead (cmdOp e 16 64) 128
      exec (.setctx fn e) s = .next (
        if (s.dmaRead (cmdOp e 16 64) 128).isSome = true ∧ (descriptorOk image = true ∨ ∀ b ∈ image, b = 0)
        then { s with mem := s.mem.writeBytes ((upFrom (locatorAddr (cmdLoc e 8)) 128).zip image) }.completeCommand fn 1
        else s.completeCommand fn 2)) ∧
    (let p := cmdOp e 8 5
     let owned := cmdOp e 9 1 = 1
     let vi := cmdOp e 10 6
     let shared := cmdOp e 11 1 = 1
     let mode (s : State) : Bool :=
       (s.setPart p { s.part p with owned := owned, vi := if owned then vi else 0 }).sharedMode (p / 4) shared
     Performs (.setpart fn e) (setpartCommand e) fn e
       (fun s => (∀ v, v ∈ s.residentVis (p / 4) →
           ((s.part p).owned = true → v ≠ (s.part p).vi) ∧ (owned → v ≠ vi) ∧ mode s = (s.part p).l2sh) ∧
         (s.plinthAsked p = false ∨ (((s.part p).owned = true ↔ owned) ∧ (owned → (s.part p).vi = vi))))
       (fun s => (s.givePart p owned vi shared).extendM3 (p / 4) e)) ∧
    (let fl := cmdOp e 8 6
     Performs (.setflight fn e) (setflightCommand e) fn e
       (fun s => s.stepsAllowed (cmdOp e 32 64) (cmdOp e 10 6) = true ∧ s.entriesInUse (s.flight fl) = [] ∧
         ∀ x, x ∈ (s.flight fl).stepList → x.1 = 1)
       (fun s => s.setFlight fl (if cmdOp e 9 1 = 1 then
         { pmap := cmdLoc e 16, npage := cmdOp e 24 32, copypos := 0, steps := BitVec.ofNat 64 (cmdOp e 32 64),
           owner := cmdOp e 10 6, valid := true } else {}))) ∧
    Performs (.setvi fn e) (setviCommand e) fn e (fun _ => True)
      (fun s =>
        let x : Vi := ⟨cmdLoc e 16, cmdOp e 24 32, cmdLoc e 28, cmdOp e 36 32⟩
        (upFrom 0 8).foldl (fun s d => s.extendM3 d e) { s with vis := Sparse.put s.vis {} (cmdOp e 8 6) x }) ∧
    (let prio := cmdOp e 8 2
     let reset (s : State) : State := s.setLq fn prio { s.lq fn prio with head := 0, tail := 0, stopped := false }
     Performs (.qreset fn e) (qresetCommand e fn) fn e (fun s => (s.lq fn prio).base = 0) reset ∧
     ∀ s : State, s.Commands (.qreset fn e) (qresetCommand e fn) fn e → (s.lq fn prio).base ≠ 0 → (s.fn fn).window = none →
       let q := (s.lq fn prio).base
       let u := (reset s).hostPut (q + 132) 4 0
       exec (.qreset fn e) s = .next (
         if s.linesAnswer fn q = true
         then (u.seeTail fn prio (BitVec.ofNat 32 (ofBytesLE (u.hostRead q 4)))).completeCommand fn 1
         else s.completeCommand fn 2)) ∧
    (∀ s : State, s.Commands (.fwstage fn e) (fwstageCommand e) fn e →
      let image := s.hostRead (cmdOp e 16 64) (cmdOp e 24 32)
      exec (.fwstage fn e) s = .next (
        if (s.dmaRead (cmdOp e 16 64) (cmdOp e 24 32)).isSome = true ∧ Config.firmwareSigned (s.die die).m0 image = true
        then (s.setDie die { s.die die with staged := some (Config.shake256 image) }).completeCommand fn 1
        else s.completeCommand fn 2)) ∧
    Performs (.fwactivate fn e) (fwactivateCommand e) fn e
      (fun s => (∀ d, d < 8 → (s.die d).switching = false) ∧ (s.die die).staged ≠ none)
      (fun s => { s.setDie die { s.die die with switching := true, activating := (s.die die).staged } with suspended := true }) ∧
    (∀ s : State, s.Commands (.fwactivate fn e) (fwactivateCommand e) fn e →
      ((∃ d, d < 8 ∧ (s.die d).switching = true) → exec (.fwactivate fn e) s = .next (s.completeCommand fn 3)) ∧
      ((∀ d, d < 8 → (s.die d).switching = false) → (s.die die).staged = none →
        exec (.fwactivate fn e) s = .next (s.completeCommand fn 2))) ∧
    (let cut (s : State) : State := (s.setDie die { s.die die with out := true, leaving := true }).cutDie die
     Performs (.dieout fn e) (dieoutCommand e) fn e
       (fun s => ((s.die die).leaving = true ∨ s.dieBusy die = false) ∧
         (cut s).dieHeld die = false)
       (fun s => (cut s).takeOut die e)) ∧
    Performs (.diein fn e) (dieinCommand e) fn e (fun s => (s.die die).out = false) id ∧
    Performs (.diein fn e) (dieinCommand e) fn e (fun s => (s.die die).out = true ∧ (s.die die).lost = false)
      (fun s =>
        let u := [4 * die, 4 * die + 1, 4 * die + 2, 4 * die + 3].foldl (fun s p => s.givePart p false 0 false) s
        u.setDie die { u.die die with out := false }) ∧
    (∀ s : State, s.Commands (.attest fn e) (attestCommand e fn) fn e →
      let body := s.reportBody fn (cmdOp e 8 256)
      let report := (body ++ (Config.falconSign (Config.shake256 body)).take 1462 ++ Config.publicKey).take 4096
      let out := (upFrom (cmdOp e 40 64) 4096).zip report
      let good := out.takeWhile (fun x => Config.hostAnswers s.now x.1)
      exec (.attest fn e) s = .next ({ s with hostMem := s.hostMem.writeBytes good }.completeCommand fn
        (if good.length = out.length then 1 else 2)))

/-! ### Saved teams -/

/-- What a save area holds comes back (R87, R300): of a full save every register, predicate, mark, view register, flag,
counter, tile, tag and scratch byte; of any save each live thread's rounding mode and flags, its clause address, its
word index, after an annotated save past its YIELD's literals, and whether it is parked. What a queue save block holds
comes back (R112, R117, R300): the entries of the pipes, the notices, the replies, the circular-buffer records, and the
set-aside lanes of CPYC words, each word's as one operation. What the save area does not hold is the scheduler's
record, and bundles are formed anew (logs 64, 86). -/
def Obligations.SavedComesBack : Prop :=
  (∀ x : Team, x.decl.ok = true → x.threads.length = x.decl.threads → x.groups.length = x.decl.groups →
     x.scratchKB ≤ 512 →
     (let w := x.strip.load (x.areaImage true (x.liveSet true) ((upFrom 0 x.threads.length).map x.threadState))
      (∀ th n, th < x.threads.length →
        (n < x.decl.vregs → w.vreg th n = x.vreg th n) ∧
        (n < x.decl.preds → (w.thread th).pred n = (x.thread th).pred n)) ∧
      (∀ g n, g < x.groups.length →
        (n < x.decl.sregs → w.ureg g n = x.ureg g n) ∧
        (n < 16 → Sparse.get (w.group g).views {} n = Sparse.get (x.group g).views {} n) ∧
        (n < 12 → (x.group g).flag n < 256 → (w.group g).flag n = (x.group g).flag n) ∧
        (n < 4 → (x.group g).counter n < 65536 → (w.group g).counter n = (x.group g).counter n)) ∧
      (∀ a i j, a < x.decl.acc → i < 32 → j < 32 →
        w.tileElem a i j = x.tileElem a i j ∧ w.tileTag a = x.tileTag a) ∧
      (∀ a, a < 1024 * x.scratchKB → w.scratch.read a = x.scratch.read a ∧
        (x.decl.pair = true → w.scratch.read (2 ^ 20 + a) = x.scratch.read (2 ^ 20 + a)))) ∧
     (∀ (full : Bool) (faulter handlers : List Nat) (th : Nat),
       let area := x.areaImage full (x.liveSet full) ((upFrom 0 x.threads.length).map x.threadState)
       let w := x.strip.load area
       th < x.threads.length →
       (w.thread th).live = (x.thread th).live ∧ (w.thread th).rm = (x.thread th).rm ∧
       (w.thread th).fstat = (x.thread th).fstat ∧
       ∀ b, (x.thread th).live = true → x.bundleOf th = some b →
         w.positionIn area full faulter handlers th = ⟨x.groupOf th, b.pc,
           if b.widx = 0xFFFFFFFF then none else some (if full then b.widx.toNat else b.widx.toNat + 3), b.parked,
           faulter.contains th, handlers.contains th⟩)) ∧
  (∀ x : Team, (x.decl.width = 16 ∨ x.decl.width = 32 ∨ x.decl.width = 64) → (∀ q, q < 16 → (x.pipe q).length ≤ 8) →
     x.notices.length ≤ 32 → (∀ q, 17 ≤ q → q < 24 → (x.repliesOn q).length ≤ 8) →
     (let w := x.strip.loadQueues (x.queueImage [])
      (∀ q, q < 16 → (w.pipe q).length = (x.pipe q).length ∧
        ∀ i l, i < (x.pipe q).length → l < x.decl.width →
          Sparse.get ((w.pipe q).getD i []) 0 l = Sparse.get ((x.pipe q).getD i []) 0 l) ∧
      w.notices = x.notices ∧
      (∀ q, 17 ≤ q → q < 24 → (∀ r, r ∈ x.replies → r.2.1 < 65536) →
        (w.repliesOn q).map (fun r => r.2.1) = (x.repliesOn q).map (fun r => r.2.1) ∧
        ∀ i l, i < (x.repliesOn q).length → l < x.decl.width →
          Sparse.get (((w.repliesOn q).map (fun r => r.2.2)).getD i []) 0 l =
            Sparse.get (((x.repliesOn q).map (fun r => r.2.2)).getD i []) 0 l) ∧
      (∀ i, i < 16 → let c := x.cbuf i
        c.nslot < 128 → c.slotsz < 512 → c.base < 2 ^ 21 → c.wix < 64 → c.rix < 64 → c.resv < 128 → c.filled < 128 →
        c.acq < 128 → c.done = [] → w.cbuf i = c)) ∧
     (∀ (os : List Op) (id tk : Nat), (os.map (fun o => (o.group, o.clause, o.widx))).Nodup →
       (os.flatMap Op.waitingLanes).length < 2 ^ 32 →
       (∀ o, o ∈ os → o.hint < 4 ∧ o.group < 65536 ∧ o.cls = 0 ∧ o.done = false ∧ o.lanes = [] ∧
         ∃ (buf : Nat) (ls : List CopyLane), o.kind = .cpyc buf ls ∧ ls ≠ [] ∧ buf < 16 ∧
           ∀ (k : Nat) (l : CopyLane), ls[k]? = some l → l.count < 2 ^ 32 ∧
           l = { thread := l.thread, src := l.src, srcScratch := l.srcScratch, dst := 0, dstScratch := true,
                 count := l.count, nth := ((ls.take k).filter (fun y => y.thread = l.thread)).length }) →
       x.strip.asideOps (x.queueImage os) ((os.flatMap Op.waitingLanes).map (·.thread)) id tk =
         os.zipIdx.map (fun y => { y.1 with id := id + y.2, team := tk })))
end

