-- ==== Sys2Proof/Laws/Memory.lean ====
section
/-!
SUPPORT. Laws of sparse data and of memories: a read after a write, writes elsewhere, and the canonical form, which
every operation keeps.
-/
namespace Sys2Proof.Machine

variable {α : Type}

/-! ### Reads after writes -/

theorem Sparse.get_insert_self (m : Sparse α) (d : α) (k : Nat) (v : α) : Sparse.get (m.insert k v) d k = v := by
  induction m with
  | nil => simp [Sparse.insert, Sparse.get]
  | cons e rest ih =>
    obtain ⟨j, x⟩ := e
    simp only [Sparse.insert]
    split
    · simp [Sparse.get]
    · split
      · simp [Sparse.get]
      · simp_all [Sparse.get]

theorem Sparse.get_insert_ne (m : Sparse α) (d : α) {k i : Nat} (v : α) (h : i ≠ k) :
    Sparse.get (m.insert k v) d i = Sparse.get m d i := by
  induction m with
  | nil => simp [Sparse.insert, Sparse.get, Ne.symm h]
  | cons e rest ih =>
    obtain ⟨j, x⟩ := e
    simp only [Sparse.insert]
    split
    · simp_all [Sparse.get, Ne.symm h]
    · split
      · simp [Sparse.get, Ne.symm h]
      · simp only [Sparse.get, ih]

theorem Sparse.find_insert_self (m : Sparse α) (k : Nat) (v : α) : Sparse.find (m.insert k v) k = some v := by
  induction m with
  | nil => simp [Sparse.insert, Sparse.find]
  | cons e rest ih =>
    obtain ⟨j, x⟩ := e
    simp only [Sparse.insert]
    split
    · simp [Sparse.find]
    · split
      · simp [Sparse.find]
      · simp_all [Sparse.find]

theorem Sparse.find_insert_ne (m : Sparse α) {k i : Nat} (v : α) (h : i ≠ k) :
    Sparse.find (m.insert k v) i = Sparse.find m i := by
  induction m with
  | nil => simp [Sparse.insert, Sparse.find, Ne.symm h]
  | cons e rest ih =>
    obtain ⟨j, x⟩ := e
    simp only [Sparse.insert]
    split
    · simp_all [Sparse.find, Ne.symm h]
    · split
      · simp [Sparse.find, Ne.symm h]
      · simp only [Sparse.find, ih]

theorem Sparse.get_erase_self (m : Sparse α) (d : α) (k : Nat) : Sparse.get (m.erase k) d k = d := by
  induction m with
  | nil => simp [Sparse.erase, Sparse.get]
  | cons e rest ih =>
    obtain ⟨j, x⟩ := e
    simp only [Sparse.erase]
    split
    · exact ih
    · simp_all [Sparse.get]

theorem Sparse.get_erase_ne (m : Sparse α) (d : α) {k i : Nat} (h : i ≠ k) :
    Sparse.get (m.erase k) d i = Sparse.get m d i := by
  induction m with
  | nil => simp [Sparse.erase]
  | cons e rest ih =>
    obtain ⟨j, x⟩ := e
    simp only [Sparse.erase]
    split
    · simp_all [Sparse.get, Ne.symm h]
    · simp only [Sparse.get, ih]

theorem Sparse.find_erase_self (m : Sparse α) (k : Nat) : Sparse.find (m.erase k) k = none := by
  induction m with
  | nil => simp [Sparse.erase, Sparse.find]
  | cons e rest ih =>
    obtain ⟨j, x⟩ := e
    simp only [Sparse.erase]
    split
    · exact ih
    · simp_all [Sparse.find]

theorem Sparse.find_erase_ne (m : Sparse α) {k i : Nat} (h : i ≠ k) :
    Sparse.find (m.erase k) i = Sparse.find m i := by
  induction m with
  | nil => simp [Sparse.erase]
  | cons e rest ih =>
    obtain ⟨j, x⟩ := e
    simp only [Sparse.erase]
    split
    · simp_all [Sparse.find, Ne.symm h]
    · simp only [Sparse.find, ih]

@[simp] theorem Sparse.get_put_self [DecidableEq α] (m : Sparse α) (d : α) (k : Nat) (v : α) :
    Sparse.get (m.put d k v) d k = v := by
  unfold Sparse.put
  split
  · simp_all [Sparse.get_erase_self]
  · exact Sparse.get_insert_self m d k v

theorem Sparse.get_put_ne [DecidableEq α] (m : Sparse α) (d : α) {k i : Nat} (v : α) (h : i ≠ k) :
    Sparse.get (m.put d k v) d i = Sparse.get m d i := by
  unfold Sparse.put
  split
  · exact Sparse.get_erase_ne m d h
  · exact Sparse.get_insert_ne m d v h

theorem Sparse.get_put [DecidableEq α] (m : Sparse α) (d : α) (k i : Nat) (v : α) :
    Sparse.get (m.put d k v) d i = if i = k then v else Sparse.get m d i := by
  split
  · subst i; simp
  · exact Sparse.get_put_ne m d v ‹_›

/-! ### The canonical form -/

/-- A list rises from a bound. -/
theorem Sparse.sorted_cons {i : Nat} {x : α} {m : Sparse α} :
    Sparse.sorted ((i, x) :: m) = true ↔ (∀ e ∈ m, i < e.1) ∧ Sparse.sorted m = true := by
  induction m generalizing i x with
  | nil => simp [Sparse.sorted]
  | cons e rest ih =>
    obtain ⟨j, y⟩ := e
    simp only [Sparse.sorted, Bool.and_eq_true, decide_eq_true_eq, List.mem_cons, forall_eq_or_imp]
    constructor
    · rintro ⟨h, hs⟩
      exact ⟨⟨h, fun e he => lt_trans h ((ih.mp hs).1 e he)⟩, hs⟩
    · rintro ⟨⟨h, _⟩, hs⟩
      exact ⟨h, hs⟩

theorem Sparse.mem_insert {m : Sparse α} {k : Nat} {v : α} {e : Nat × α} (h : e ∈ m.insert k v) :
    e = (k, v) ∨ e ∈ m := by
  induction m with
  | nil => simpa [Sparse.insert] using h
  | cons f rest ih =>
    obtain ⟨j, x⟩ := f
    simp only [Sparse.insert] at h
    split at h
    · rcases List.mem_cons.mp h with h | h <;> simp [h]
    · split at h
      · rcases List.mem_cons.mp h with h | h
        · exact .inl h
        · exact .inr h
      · rcases List.mem_cons.mp h with h | h
        · simp [h]
        · rcases ih h with h | h
          · exact .inl h
          · exact .inr (List.mem_cons_of_mem _ h)

theorem Sparse.mem_erase {m : Sparse α} {k : Nat} {e : Nat × α} (h : e ∈ m.erase k) : e ∈ m := by
  induction m with
  | nil => simp [Sparse.erase] at h
  | cons f rest ih =>
    obtain ⟨j, x⟩ := f
    simp only [Sparse.erase] at h
    split at h
    · exact List.mem_cons_of_mem _ (ih h)
    · rcases List.mem_cons.mp h with h | h
      · simp [h]
      · exact List.mem_cons_of_mem _ (ih h)

theorem Sparse.sorted_insert {m : Sparse α} (k : Nat) (v : α) (h : m.sorted = true) :
    (m.insert k v).sorted = true := by
  induction m with
  | nil => simp [Sparse.insert, Sparse.sorted]
  | cons f rest ih =>
    obtain ⟨j, x⟩ := f
    have hs := Sparse.sorted_cons.mp h
    simp only [Sparse.insert]
    split
    · subst j; exact Sparse.sorted_cons.mpr hs
    · split
      · refine Sparse.sorted_cons.mpr ⟨?_, h⟩
        intro e he
        rcases List.mem_cons.mp he with rfl | he
        · assumption
        · exact lt_trans ‹_› (hs.1 e he)
      · refine Sparse.sorted_cons.mpr ⟨?_, ih hs.2⟩
        intro e he
        rcases Sparse.mem_insert he with rfl | he
        · simp only; omega
        · exact hs.1 e he

theorem Sparse.sorted_erase {m : Sparse α} (k : Nat) (h : m.sorted = true) : (m.erase k).sorted = true := by
  induction m with
  | nil => simp [Sparse.erase, Sparse.sorted]
  | cons f rest ih =>
    obtain ⟨j, x⟩ := f
    have hs := Sparse.sorted_cons.mp h
    simp only [Sparse.erase]
    split
    · exact ih hs.2
    · exact Sparse.sorted_cons.mpr ⟨fun e he => hs.1 e (Sparse.mem_erase he), ih hs.2⟩

theorem Sparse.sorted_filter {m : Sparse α} (p : Nat × α → Bool) (h : m.sorted = true) :
    Sparse.sorted (m.filter p) = true := by
  induction m with
  | nil => simp [Sparse.sorted]
  | cons f rest ih =>
    obtain ⟨j, x⟩ := f
    have hs := Sparse.sorted_cons.mp h
    rw [List.filter_cons]
    split
    · exact Sparse.sorted_cons.mpr ⟨fun e he => hs.1 e (List.mem_filter.mp he).1, ih hs.2⟩
    · exact ih hs.2

theorem Sparse.wf_iff [DecidableEq α] {m : Sparse α} {d : α} :
    m.wf d = true ↔ m.sorted = true ∧ ∀ e ∈ m, e.2 ≠ d := by
  simp [Sparse.wf, List.all_eq_true]

/-- Writing keeps the canonical form. -/
theorem Sparse.wf_put [DecidableEq α] {m : Sparse α} {d : α} (k : Nat) (v : α) (h : m.wf d = true) :
    (m.put d k v).wf d = true := by
  obtain ⟨hs, hd⟩ := Sparse.wf_iff.mp h
  unfold Sparse.put
  split
  · exact Sparse.wf_iff.mpr ⟨Sparse.sorted_erase k hs, fun e he => hd e (Sparse.mem_erase he)⟩
  · refine Sparse.wf_iff.mpr ⟨Sparse.sorted_insert k v hs, fun e he => ?_⟩
    rcases Sparse.mem_insert he with rfl | he
    · assumption
    · exact hd e he

/-- Dropping a stretch of keys keeps the canonical form. -/
theorem Sparse.wf_clear [DecidableEq α] {m : Sparse α} {d : α} (lo hi : Nat) (h : m.wf d = true) :
    (m.clear lo hi).wf d = true := by
  obtain ⟨hs, hd⟩ := Sparse.wf_iff.mp h
  exact Sparse.wf_iff.mpr ⟨Sparse.sorted_filter _ hs, fun e he => hd e (List.mem_filter.mp he).1⟩

/-! ### Memories -/

@[simp] theorem Memory.read_write_self (m : Memory) (a : Nat) (b : BitVec 8) : (m.write a b).read a = b := by
  simp [Memory.read, Memory.write]

theorem Memory.read_write_ne (m : Memory) {a x : Nat} (b : BitVec 8) (h : x ≠ a) :
    (m.write a b).read x = m.read x := Sparse.get_put_ne m _ b h

theorem Memory.wf_write {m : Memory} (a : Nat) (b : BitVec 8) (h : m.wf = true) : (m.write a b).wf = true :=
  Sparse.wf_put a b h

theorem Memory.wf_zero {m : Memory} (lo hi : Nat) (h : m.wf = true) : (m.zero lo hi).wf = true :=
  Sparse.wf_clear lo hi h

theorem Memory.wf_foldl_write {β : Type} (l : List β) (f : β → Nat) (g : β → BitVec 8) {m : Memory}
    (h : m.wf = true) : (l.foldl (fun m x => m.write (f x) (g x)) m).wf = true := by
  induction l generalizing m with
  | nil => exact h
  | cons x xs ih => exact ih (Memory.wf_write _ _ h)

theorem Memory.wf_writeBytes {m : Memory} (ps : List (Nat × BitVec 8)) (h : m.wf = true) :
    (m.writeBytes ps).wf = true := Memory.wf_foldl_write ps (·.1) (·.2) h

theorem Memory.wf_writeLE {m : Memory} (n : Nat) : ∀ (a x : Nat), m.wf = true → (m.writeLE a n x).wf = true := by
  induction n generalizing m with
  | zero => intro a x h; exact h
  | succ n ih => intro a x h; exact ih _ _ (Memory.wf_write _ _ h)

/-- Bytes that are not written read as before. -/
theorem Memory.read_writeBytes_ne (ps : List (Nat × BitVec 8)) (m : Memory) (a : Nat) (h : ∀ p ∈ ps, p.1 ≠ a) :
    (m.writeBytes ps).read a = m.read a := by
  induction ps generalizing m with
  | nil => rfl
  | cons p ps ih =>
    have := ih (m.write p.1 p.2) (fun q hq => h q (List.mem_cons_of_mem _ hq))
    rw [show (m.writeBytes (p :: ps)) = (m.write p.1 p.2).writeBytes ps from rfl, this]
    exact Memory.read_write_ne m p.2 (Ne.symm (h p (by simp)))

/-- Bytes at distinct addresses read as they were written. -/
theorem Memory.read_writeBytes_mem (ps : List (Nat × BitVec 8)) (m : Memory) (hd : (ps.map (·.1)).Nodup)
    (p : Nat × BitVec 8) (hp : p ∈ ps) : (m.writeBytes ps).read p.1 = p.2 := by
  induction ps generalizing m with
  | nil => simp at hp
  | cons q ps ih =>
    have hq : q.1 ∉ ps.map (·.1) := (List.nodup_cons.mp (by simpa using hd)).1
    have hd' : (ps.map (·.1)).Nodup := (List.nodup_cons.mp (by simpa using hd)).2
    rw [show (m.writeBytes (q :: ps)) = (m.write q.1 q.2).writeBytes ps from rfl]
    rcases List.mem_cons.mp hp with rfl | hp
    · rw [Memory.read_writeBytes_ne ps _ _ (fun r hr h => hq (List.mem_map.mpr ⟨r, hr, h⟩))]
      exact Memory.read_write_self m p.1 p.2
    · exact ih _ hd' hp

theorem Memory.read_writeLE_ne (n : Nat) : ∀ (m : Memory) (a x b : Nat), (b < a ∨ a + n ≤ b) →
    (m.writeLE a n x).read b = m.read b := by
  induction n with
  | zero => intro m a x b _; rfl
  | succ n ih =>
    intro m a x b h
    rw [Memory.writeLE, ih _ _ _ _ (by omega), Memory.read_write_ne _ _ (by omega)]

/-- A number reads back as it was written, modulo its size. -/
theorem Memory.readLE_writeLE (n : Nat) : ∀ (m : Memory) (a x : Nat),
    (m.writeLE a n x).readLE a n = x % 256 ^ n := by
  induction n with
  | zero => intro m a x; simp [Memory.readLE, Nat.mod_one]
  | succ n ih =>
    intro m a x
    rw [Memory.readLE, Memory.writeLE, ih, Memory.read_writeLE_ne _ _ _ _ _ (by omega), Memory.read_write_self]
    rw [Nat.pow_succ, Nat.mul_comm (256 ^ n), Nat.mod_mul]
    simp [BitVec.toNat_ofNat]

theorem Memory.readLE_congr (n : Nat) : ∀ (m m' : Memory) (a : Nat),
    (∀ b, a ≤ b → b < a + n → m'.read b = m.read b) → m'.readLE a n = m.readLE a n := by
  induction n with
  | zero => intros; rfl
  | succ n ih =>
    intro m m' a h
    rw [Memory.readLE, Memory.readLE, h a (by omega) (by omega),
      ih m m' (a + 1) (fun b h1 h2 => h b (by omega) (by omega))]

end Sys2Proof.Machine
end

