-- ==== Sys2Proof/Laws/State.lean ====
section
/-!
SUPPORT. One law per field per update: what each update of the state, a team, a thread or a group leaves as it is.
-/
namespace Sys2Proof.Machine

/-! ### State.setTeam -/

@[simp] theorem State.setTeam_mem (s : State) (k : Nat) (x : Team) : (s.setTeam k x).mem = s.mem := rfl
@[simp] theorem State.setTeam_pool (s : State) (k : Nat) (x : Team) : (s.setTeam k x).pool = s.pool := rfl
@[simp] theorem State.setTeam_hostMem (s : State) (k : Nat) (x : Team) : (s.setTeam k x).hostMem = s.hostMem := rfl
@[simp] theorem State.setTeam_l2 (s : State) (k : Nat) (x : Team) : (s.setTeam k x).l2 = s.l2 := rfl
@[simp] theorem State.setTeam_poison (s : State) (k : Nat) (x : Team) : (s.setTeam k x).poison = s.poison := rfl
@[simp] theorem State.setTeam_frames (s : State) (k : Nat) (x : Team) : (s.setTeam k x).frames = s.frames := rfl
@[simp] theorem State.setTeam_parts (s : State) (k : Nat) (x : Team) : (s.setTeam k x).parts = s.parts := rfl
@[simp] theorem State.setTeam_tableNext (s : State) (k : Nat) (x : Team) : (s.setTeam k x).tableNext = s.tableNext := rfl
@[simp] theorem State.setTeam_vis (s : State) (k : Nat) (x : Team) : (s.setTeam k x).vis = s.vis := rfl
@[simp] theorem State.setTeam_flights (s : State) (k : Nat) (x : Team) : (s.setTeam k x).flights = s.flights := rfl
@[simp] theorem State.setTeam_landing (s : State) (k : Nat) (x : Team) : (s.setTeam k x).landing = s.landing := rfl
@[simp] theorem State.setTeam_chainDirty (s : State) (k : Nat) (x : Team) : (s.setTeam k x).chainDirty = s.chainDirty := rfl
@[simp] theorem State.setTeam_acks (s : State) (k : Nat) (x : Team) : (s.setTeam k x).acks = s.acks := rfl
@[simp] theorem State.setTeam_arrays (s : State) (k : Nat) (x : Team) : (s.setTeam k x).arrays = s.arrays := rfl
@[simp] theorem State.setTeam_vcache (s : State) (k : Nat) (x : Team) : (s.setTeam k x).vcache = s.vcache := rfl
@[simp] theorem State.setTeam_dies (s : State) (k : Nat) (x : Team) : (s.setTeam k x).dies = s.dies := rfl
@[simp] theorem State.setTeam_fns (s : State) (k : Nat) (x : Team) : (s.setTeam k x).fns = s.fns := rfl
@[simp] theorem State.setTeam_ready (s : State) (k : Nat) (x : Team) : (s.setTeam k x).ready = s.ready := rfl
@[simp] theorem State.setTeam_suspended (s : State) (k : Nat) (x : Team) : (s.setTeam k x).suspended = s.suspended := rfl
@[simp] theorem State.setTeam_stopped (s : State) (k : Nat) (x : Team) : (s.setTeam k x).stopped = s.stopped := rfl
@[simp] theorem State.setTeam_throttled (s : State) (k : Nat) (x : Team) : (s.setTeam k x).throttled = s.throttled := rfl
@[simp] theorem State.setTeam_links (s : State) (k : Nat) (x : Team) : (s.setTeam k x).links = s.links := rfl
@[simp] theorem State.setTeam_launches (s : State) (k : Nat) (x : Team) : (s.setTeam k x).launches = s.launches := rfl
@[simp] theorem State.setTeam_saved (s : State) (k : Nat) (x : Team) : (s.setTeam k x).saved = s.saved := rfl
@[simp] theorem State.setTeam_ctxSeq (s : State) (k : Nat) (x : Team) : (s.setTeam k x).ctxSeq = s.ctxSeq := rfl
@[simp] theorem State.setTeam_cores (s : State) (k : Nat) (x : Team) : (s.setTeam k x).cores = s.cores := rfl
@[simp] theorem State.setTeam_stores (s : State) (k : Nat) (x : Team) : (s.setTeam k x).stores = s.stores := rfl
@[simp] theorem State.setTeam_resWrites (s : State) (k : Nat) (x : Team) : (s.setTeam k x).resWrites = s.resWrites := rfl
@[simp] theorem State.setTeam_words (s : State) (k : Nat) (x : Team) : (s.setTeam k x).words = s.words := rfl
@[simp] theorem State.setTeam_ops (s : State) (k : Nat) (x : Team) : (s.setTeam k x).ops = s.ops := rfl
@[simp] theorem State.setTeam_now (s : State) (k : Nat) (x : Team) : (s.setTeam k x).now = s.now := rfl
@[simp] theorem State.setTeam_nextId (s : State) (k : Nat) (x : Team) : (s.setTeam k x).nextId = s.nextId := rfl
@[simp] theorem State.setTeam_freeIx (s : State) (k : Nat) (x : Team) : (s.setTeam k x).freeIx = s.freeIx := rfl
@[simp] theorem State.setTeam_cur (s : State) (k : Nat) (x : Team) : (s.setTeam k x).cur = s.cur := rfl
@[simp] theorem State.setTeam_sched (s : State) (k : Nat) (x : Team) : (s.setTeam k x).sched = s.sched := rfl

/-! ### State.setCore -/

@[simp] theorem State.setCore_mem (s : State) (k : Nat) (x : Core) : (s.setCore k x).mem = s.mem := rfl
@[simp] theorem State.setCore_pool (s : State) (k : Nat) (x : Core) : (s.setCore k x).pool = s.pool := rfl
@[simp] theorem State.setCore_hostMem (s : State) (k : Nat) (x : Core) : (s.setCore k x).hostMem = s.hostMem := rfl
@[simp] theorem State.setCore_l2 (s : State) (k : Nat) (x : Core) : (s.setCore k x).l2 = s.l2 := rfl
@[simp] theorem State.setCore_poison (s : State) (k : Nat) (x : Core) : (s.setCore k x).poison = s.poison := rfl
@[simp] theorem State.setCore_frames (s : State) (k : Nat) (x : Core) : (s.setCore k x).frames = s.frames := rfl
@[simp] theorem State.setCore_parts (s : State) (k : Nat) (x : Core) : (s.setCore k x).parts = s.parts := rfl
@[simp] theorem State.setCore_tableNext (s : State) (k : Nat) (x : Core) : (s.setCore k x).tableNext = s.tableNext := rfl
@[simp] theorem State.setCore_vis (s : State) (k : Nat) (x : Core) : (s.setCore k x).vis = s.vis := rfl
@[simp] theorem State.setCore_flights (s : State) (k : Nat) (x : Core) : (s.setCore k x).flights = s.flights := rfl
@[simp] theorem State.setCore_landing (s : State) (k : Nat) (x : Core) : (s.setCore k x).landing = s.landing := rfl
@[simp] theorem State.setCore_chainDirty (s : State) (k : Nat) (x : Core) : (s.setCore k x).chainDirty = s.chainDirty := rfl
@[simp] theorem State.setCore_acks (s : State) (k : Nat) (x : Core) : (s.setCore k x).acks = s.acks := rfl
@[simp] theorem State.setCore_arrays (s : State) (k : Nat) (x : Core) : (s.setCore k x).arrays = s.arrays := rfl
@[simp] theorem State.setCore_vcache (s : State) (k : Nat) (x : Core) : (s.setCore k x).vcache = s.vcache := rfl
@[simp] theorem State.setCore_dies (s : State) (k : Nat) (x : Core) : (s.setCore k x).dies = s.dies := rfl
@[simp] theorem State.setCore_fns (s : State) (k : Nat) (x : Core) : (s.setCore k x).fns = s.fns := rfl
@[simp] theorem State.setCore_ready (s : State) (k : Nat) (x : Core) : (s.setCore k x).ready = s.ready := rfl
@[simp] theorem State.setCore_suspended (s : State) (k : Nat) (x : Core) : (s.setCore k x).suspended = s.suspended := rfl
@[simp] theorem State.setCore_stopped (s : State) (k : Nat) (x : Core) : (s.setCore k x).stopped = s.stopped := rfl
@[simp] theorem State.setCore_throttled (s : State) (k : Nat) (x : Core) : (s.setCore k x).throttled = s.throttled := rfl
@[simp] theorem State.setCore_links (s : State) (k : Nat) (x : Core) : (s.setCore k x).links = s.links := rfl
@[simp] theorem State.setCore_launches (s : State) (k : Nat) (x : Core) : (s.setCore k x).launches = s.launches := rfl
@[simp] theorem State.setCore_saved (s : State) (k : Nat) (x : Core) : (s.setCore k x).saved = s.saved := rfl
@[simp] theorem State.setCore_ctxSeq (s : State) (k : Nat) (x : Core) : (s.setCore k x).ctxSeq = s.ctxSeq := rfl
@[simp] theorem State.setCore_teams (s : State) (k : Nat) (x : Core) : (s.setCore k x).teams = s.teams := rfl
@[simp] theorem State.setCore_stores (s : State) (k : Nat) (x : Core) : (s.setCore k x).stores = s.stores := rfl
@[simp] theorem State.setCore_resWrites (s : State) (k : Nat) (x : Core) : (s.setCore k x).resWrites = s.resWrites := rfl
@[simp] theorem State.setCore_words (s : State) (k : Nat) (x : Core) : (s.setCore k x).words = s.words := rfl
@[simp] theorem State.setCore_ops (s : State) (k : Nat) (x : Core) : (s.setCore k x).ops = s.ops := rfl
@[simp] theorem State.setCore_now (s : State) (k : Nat) (x : Core) : (s.setCore k x).now = s.now := rfl
@[simp] theorem State.setCore_nextId (s : State) (k : Nat) (x : Core) : (s.setCore k x).nextId = s.nextId := rfl
@[simp] theorem State.setCore_freeIx (s : State) (k : Nat) (x : Core) : (s.setCore k x).freeIx = s.freeIx := rfl
@[simp] theorem State.setCore_cur (s : State) (k : Nat) (x : Core) : (s.setCore k x).cur = s.cur := rfl
@[simp] theorem State.setCore_sched (s : State) (k : Nat) (x : Core) : (s.setCore k x).sched = s.sched := rfl

/-! ### State.setFrame -/

@[simp] theorem State.setFrame_mem (s : State) (k : Nat) (x : Frame) : (s.setFrame k x).mem = s.mem := rfl
@[simp] theorem State.setFrame_pool (s : State) (k : Nat) (x : Frame) : (s.setFrame k x).pool = s.pool := rfl
@[simp] theorem State.setFrame_hostMem (s : State) (k : Nat) (x : Frame) : (s.setFrame k x).hostMem = s.hostMem := rfl
@[simp] theorem State.setFrame_l2 (s : State) (k : Nat) (x : Frame) : (s.setFrame k x).l2 = s.l2 := rfl
@[simp] theorem State.setFrame_poison (s : State) (k : Nat) (x : Frame) : (s.setFrame k x).poison = s.poison := rfl
@[simp] theorem State.setFrame_parts (s : State) (k : Nat) (x : Frame) : (s.setFrame k x).parts = s.parts := rfl
@[simp] theorem State.setFrame_tableNext (s : State) (k : Nat) (x : Frame) : (s.setFrame k x).tableNext = s.tableNext := rfl
@[simp] theorem State.setFrame_vis (s : State) (k : Nat) (x : Frame) : (s.setFrame k x).vis = s.vis := rfl
@[simp] theorem State.setFrame_flights (s : State) (k : Nat) (x : Frame) : (s.setFrame k x).flights = s.flights := rfl
@[simp] theorem State.setFrame_landing (s : State) (k : Nat) (x : Frame) : (s.setFrame k x).landing = s.landing := rfl
@[simp] theorem State.setFrame_chainDirty (s : State) (k : Nat) (x : Frame) : (s.setFrame k x).chainDirty = s.chainDirty := rfl
@[simp] theorem State.setFrame_acks (s : State) (k : Nat) (x : Frame) : (s.setFrame k x).acks = s.acks := rfl
@[simp] theorem State.setFrame_arrays (s : State) (k : Nat) (x : Frame) : (s.setFrame k x).arrays = s.arrays := rfl
@[simp] theorem State.setFrame_vcache (s : State) (k : Nat) (x : Frame) : (s.setFrame k x).vcache = s.vcache := rfl
@[simp] theorem State.setFrame_dies (s : State) (k : Nat) (x : Frame) : (s.setFrame k x).dies = s.dies := rfl
@[simp] theorem State.setFrame_fns (s : State) (k : Nat) (x : Frame) : (s.setFrame k x).fns = s.fns := rfl
@[simp] theorem State.setFrame_ready (s : State) (k : Nat) (x : Frame) : (s.setFrame k x).ready = s.ready := rfl
@[simp] theorem State.setFrame_suspended (s : State) (k : Nat) (x : Frame) : (s.setFrame k x).suspended = s.suspended := rfl
@[simp] theorem State.setFrame_stopped (s : State) (k : Nat) (x : Frame) : (s.setFrame k x).stopped = s.stopped := rfl
@[simp] theorem State.setFrame_throttled (s : State) (k : Nat) (x : Frame) : (s.setFrame k x).throttled = s.throttled := rfl
@[simp] theorem State.setFrame_links (s : State) (k : Nat) (x : Frame) : (s.setFrame k x).links = s.links := rfl
@[simp] theorem State.setFrame_launches (s : State) (k : Nat) (x : Frame) : (s.setFrame k x).launches = s.launches := rfl
@[simp] theorem State.setFrame_saved (s : State) (k : Nat) (x : Frame) : (s.setFrame k x).saved = s.saved := rfl
@[simp] theorem State.setFrame_ctxSeq (s : State) (k : Nat) (x : Frame) : (s.setFrame k x).ctxSeq = s.ctxSeq := rfl
@[simp] theorem State.setFrame_teams (s : State) (k : Nat) (x : Frame) : (s.setFrame k x).teams = s.teams := rfl
@[simp] theorem State.setFrame_cores (s : State) (k : Nat) (x : Frame) : (s.setFrame k x).cores = s.cores := rfl
@[simp] theorem State.setFrame_stores (s : State) (k : Nat) (x : Frame) : (s.setFrame k x).stores = s.stores := rfl
@[simp] theorem State.setFrame_resWrites (s : State) (k : Nat) (x : Frame) : (s.setFrame k x).resWrites = s.resWrites := rfl
@[simp] theorem State.setFrame_words (s : State) (k : Nat) (x : Frame) : (s.setFrame k x).words = s.words := rfl
@[simp] theorem State.setFrame_ops (s : State) (k : Nat) (x : Frame) : (s.setFrame k x).ops = s.ops := rfl
@[simp] theorem State.setFrame_now (s : State) (k : Nat) (x : Frame) : (s.setFrame k x).now = s.now := rfl
@[simp] theorem State.setFrame_nextId (s : State) (k : Nat) (x : Frame) : (s.setFrame k x).nextId = s.nextId := rfl
@[simp] theorem State.setFrame_freeIx (s : State) (k : Nat) (x : Frame) : (s.setFrame k x).freeIx = s.freeIx := rfl
@[simp] theorem State.setFrame_cur (s : State) (k : Nat) (x : Frame) : (s.setFrame k x).cur = s.cur := rfl
@[simp] theorem State.setFrame_sched (s : State) (k : Nat) (x : Frame) : (s.setFrame k x).sched = s.sched := rfl

/-! ### State.setPart -/

@[simp] theorem State.setPart_mem (s : State) (k : Nat) (x : Part) : (s.setPart k x).mem = s.mem := rfl
@[simp] theorem State.setPart_pool (s : State) (k : Nat) (x : Part) : (s.setPart k x).pool = s.pool := rfl
@[simp] theorem State.setPart_hostMem (s : State) (k : Nat) (x : Part) : (s.setPart k x).hostMem = s.hostMem := rfl
@[simp] theorem State.setPart_l2 (s : State) (k : Nat) (x : Part) : (s.setPart k x).l2 = s.l2 := rfl
@[simp] theorem State.setPart_poison (s : State) (k : Nat) (x : Part) : (s.setPart k x).poison = s.poison := rfl
@[simp] theorem State.setPart_frames (s : State) (k : Nat) (x : Part) : (s.setPart k x).frames = s.frames := rfl
@[simp] theorem State.setPart_tableNext (s : State) (k : Nat) (x : Part) : (s.setPart k x).tableNext = s.tableNext := rfl
@[simp] theorem State.setPart_vis (s : State) (k : Nat) (x : Part) : (s.setPart k x).vis = s.vis := rfl
@[simp] theorem State.setPart_flights (s : State) (k : Nat) (x : Part) : (s.setPart k x).flights = s.flights := rfl
@[simp] theorem State.setPart_landing (s : State) (k : Nat) (x : Part) : (s.setPart k x).landing = s.landing := rfl
@[simp] theorem State.setPart_chainDirty (s : State) (k : Nat) (x : Part) : (s.setPart k x).chainDirty = s.chainDirty := rfl
@[simp] theorem State.setPart_acks (s : State) (k : Nat) (x : Part) : (s.setPart k x).acks = s.acks := rfl
@[simp] theorem State.setPart_arrays (s : State) (k : Nat) (x : Part) : (s.setPart k x).arrays = s.arrays := rfl
@[simp] theorem State.setPart_vcache (s : State) (k : Nat) (x : Part) : (s.setPart k x).vcache = s.vcache := rfl
@[simp] theorem State.setPart_dies (s : State) (k : Nat) (x : Part) : (s.setPart k x).dies = s.dies := rfl
@[simp] theorem State.setPart_fns (s : State) (k : Nat) (x : Part) : (s.setPart k x).fns = s.fns := rfl
@[simp] theorem State.setPart_ready (s : State) (k : Nat) (x : Part) : (s.setPart k x).ready = s.ready := rfl
@[simp] theorem State.setPart_suspended (s : State) (k : Nat) (x : Part) : (s.setPart k x).suspended = s.suspended := rfl
@[simp] theorem State.setPart_stopped (s : State) (k : Nat) (x : Part) : (s.setPart k x).stopped = s.stopped := rfl
@[simp] theorem State.setPart_throttled (s : State) (k : Nat) (x : Part) : (s.setPart k x).throttled = s.throttled := rfl
@[simp] theorem State.setPart_links (s : State) (k : Nat) (x : Part) : (s.setPart k x).links = s.links := rfl
@[simp] theorem State.setPart_launches (s : State) (k : Nat) (x : Part) : (s.setPart k x).launches = s.launches := rfl
@[simp] theorem State.setPart_saved (s : State) (k : Nat) (x : Part) : (s.setPart k x).saved = s.saved := rfl
@[simp] theorem State.setPart_ctxSeq (s : State) (k : Nat) (x : Part) : (s.setPart k x).ctxSeq = s.ctxSeq := rfl
@[simp] theorem State.setPart_teams (s : State) (k : Nat) (x : Part) : (s.setPart k x).teams = s.teams := rfl
@[simp] theorem State.setPart_cores (s : State) (k : Nat) (x : Part) : (s.setPart k x).cores = s.cores := rfl
@[simp] theorem State.setPart_stores (s : State) (k : Nat) (x : Part) : (s.setPart k x).stores = s.stores := rfl
@[simp] theorem State.setPart_resWrites (s : State) (k : Nat) (x : Part) : (s.setPart k x).resWrites = s.resWrites := rfl
@[simp] theorem State.setPart_words (s : State) (k : Nat) (x : Part) : (s.setPart k x).words = s.words := rfl
@[simp] theorem State.setPart_ops (s : State) (k : Nat) (x : Part) : (s.setPart k x).ops = s.ops := rfl
@[simp] theorem State.setPart_now (s : State) (k : Nat) (x : Part) : (s.setPart k x).now = s.now := rfl
@[simp] theorem State.setPart_nextId (s : State) (k : Nat) (x : Part) : (s.setPart k x).nextId = s.nextId := rfl
@[simp] theorem State.setPart_freeIx (s : State) (k : Nat) (x : Part) : (s.setPart k x).freeIx = s.freeIx := rfl
@[simp] theorem State.setPart_cur (s : State) (k : Nat) (x : Part) : (s.setPart k x).cur = s.cur := rfl
@[simp] theorem State.setPart_sched (s : State) (k : Nat) (x : Part) : (s.setPart k x).sched = s.sched := rfl

/-! ### State.setFlight -/

@[simp] theorem State.setFlight_mem (s : State) (k : Nat) (x : Flight) : (s.setFlight k x).mem = s.mem := rfl
@[simp] theorem State.setFlight_pool (s : State) (k : Nat) (x : Flight) : (s.setFlight k x).pool = s.pool := rfl
@[simp] theorem State.setFlight_hostMem (s : State) (k : Nat) (x : Flight) : (s.setFlight k x).hostMem = s.hostMem := rfl
@[simp] theorem State.setFlight_l2 (s : State) (k : Nat) (x : Flight) : (s.setFlight k x).l2 = s.l2 := rfl
@[simp] theorem State.setFlight_poison (s : State) (k : Nat) (x : Flight) : (s.setFlight k x).poison = s.poison := rfl
@[simp] theorem State.setFlight_frames (s : State) (k : Nat) (x : Flight) : (s.setFlight k x).frames = s.frames := rfl
@[simp] theorem State.setFlight_parts (s : State) (k : Nat) (x : Flight) : (s.setFlight k x).parts = s.parts := rfl
@[simp] theorem State.setFlight_tableNext (s : State) (k : Nat) (x : Flight) : (s.setFlight k x).tableNext = s.tableNext := rfl
@[simp] theorem State.setFlight_vis (s : State) (k : Nat) (x : Flight) : (s.setFlight k x).vis = s.vis := rfl
@[simp] theorem State.setFlight_landing (s : State) (k : Nat) (x : Flight) : (s.setFlight k x).landing = s.landing := rfl
@[simp] theorem State.setFlight_chainDirty (s : State) (k : Nat) (x : Flight) : (s.setFlight k x).chainDirty = s.chainDirty := rfl
@[simp] theorem State.setFlight_acks (s : State) (k : Nat) (x : Flight) : (s.setFlight k x).acks = s.acks := rfl
@[simp] theorem State.setFlight_arrays (s : State) (k : Nat) (x : Flight) : (s.setFlight k x).arrays = s.arrays := rfl
@[simp] theorem State.setFlight_vcache (s : State) (k : Nat) (x : Flight) : (s.setFlight k x).vcache = s.vcache := rfl
@[simp] theorem State.setFlight_dies (s : State) (k : Nat) (x : Flight) : (s.setFlight k x).dies = s.dies := rfl
@[simp] theorem State.setFlight_fns (s : State) (k : Nat) (x : Flight) : (s.setFlight k x).fns = s.fns := rfl
@[simp] theorem State.setFlight_ready (s : State) (k : Nat) (x : Flight) : (s.setFlight k x).ready = s.ready := rfl
@[simp] theorem State.setFlight_suspended (s : State) (k : Nat) (x : Flight) : (s.setFlight k x).suspended = s.suspended := rfl
@[simp] theorem State.setFlight_stopped (s : State) (k : Nat) (x : Flight) : (s.setFlight k x).stopped = s.stopped := rfl
@[simp] theorem State.setFlight_throttled (s : State) (k : Nat) (x : Flight) : (s.setFlight k x).throttled = s.throttled := rfl
@[simp] theorem State.setFlight_links (s : State) (k : Nat) (x : Flight) : (s.setFlight k x).links = s.links := rfl
@[simp] theorem State.setFlight_launches (s : State) (k : Nat) (x : Flight) : (s.setFlight k x).launches = s.launches := rfl
@[simp] theorem State.setFlight_saved (s : State) (k : Nat) (x : Flight) : (s.setFlight k x).saved = s.saved := rfl
@[simp] theorem State.setFlight_ctxSeq (s : State) (k : Nat) (x : Flight) : (s.setFlight k x).ctxSeq = s.ctxSeq := rfl
@[simp] theorem State.setFlight_teams (s : State) (k : Nat) (x : Flight) : (s.setFlight k x).teams = s.teams := rfl
@[simp] theorem State.setFlight_cores (s : State) (k : Nat) (x : Flight) : (s.setFlight k x).cores = s.cores := rfl
@[simp] theorem State.setFlight_stores (s : State) (k : Nat) (x : Flight) : (s.setFlight k x).stores = s.stores := rfl
@[simp] theorem State.setFlight_resWrites (s : State) (k : Nat) (x : Flight) : (s.setFlight k x).resWrites = s.resWrites := rfl
@[simp] theorem State.setFlight_words (s : State) (k : Nat) (x : Flight) : (s.setFlight k x).words = s.words := rfl
@[simp] theorem State.setFlight_ops (s : State) (k : Nat) (x : Flight) : (s.setFlight k x).ops = s.ops := rfl
@[simp] theorem State.setFlight_now (s : State) (k : Nat) (x : Flight) : (s.setFlight k x).now = s.now := rfl
@[simp] theorem State.setFlight_nextId (s : State) (k : Nat) (x : Flight) : (s.setFlight k x).nextId = s.nextId := rfl
@[simp] theorem State.setFlight_freeIx (s : State) (k : Nat) (x : Flight) : (s.setFlight k x).freeIx = s.freeIx := rfl
@[simp] theorem State.setFlight_cur (s : State) (k : Nat) (x : Flight) : (s.setFlight k x).cur = s.cur := rfl
@[simp] theorem State.setFlight_sched (s : State) (k : Nat) (x : Flight) : (s.setFlight k x).sched = s.sched := rfl

/-! ### State.setDie -/

@[simp] theorem State.setDie_mem (s : State) (k : Nat) (x : Die) : (s.setDie k x).mem = s.mem := rfl
@[simp] theorem State.setDie_pool (s : State) (k : Nat) (x : Die) : (s.setDie k x).pool = s.pool := rfl
@[simp] theorem State.setDie_hostMem (s : State) (k : Nat) (x : Die) : (s.setDie k x).hostMem = s.hostMem := rfl
@[simp] theorem State.setDie_l2 (s : State) (k : Nat) (x : Die) : (s.setDie k x).l2 = s.l2 := rfl
@[simp] theorem State.setDie_poison (s : State) (k : Nat) (x : Die) : (s.setDie k x).poison = s.poison := rfl
@[simp] theorem State.setDie_frames (s : State) (k : Nat) (x : Die) : (s.setDie k x).frames = s.frames := rfl
@[simp] theorem State.setDie_parts (s : State) (k : Nat) (x : Die) : (s.setDie k x).parts = s.parts := rfl
@[simp] theorem State.setDie_tableNext (s : State) (k : Nat) (x : Die) : (s.setDie k x).tableNext = s.tableNext := rfl
@[simp] theorem State.setDie_vis (s : State) (k : Nat) (x : Die) : (s.setDie k x).vis = s.vis := rfl
@[simp] theorem State.setDie_flights (s : State) (k : Nat) (x : Die) : (s.setDie k x).flights = s.flights := rfl
@[simp] theorem State.setDie_landing (s : State) (k : Nat) (x : Die) : (s.setDie k x).landing = s.landing := rfl
@[simp] theorem State.setDie_chainDirty (s : State) (k : Nat) (x : Die) : (s.setDie k x).chainDirty = s.chainDirty := rfl
@[simp] theorem State.setDie_acks (s : State) (k : Nat) (x : Die) : (s.setDie k x).acks = s.acks := rfl
@[simp] theorem State.setDie_arrays (s : State) (k : Nat) (x : Die) : (s.setDie k x).arrays = s.arrays := rfl
@[simp] theorem State.setDie_vcache (s : State) (k : Nat) (x : Die) : (s.setDie k x).vcache = s.vcache := rfl
@[simp] theorem State.setDie_fns (s : State) (k : Nat) (x : Die) : (s.setDie k x).fns = s.fns := rfl
@[simp] theorem State.setDie_ready (s : State) (k : Nat) (x : Die) : (s.setDie k x).ready = s.ready := rfl
@[simp] theorem State.setDie_suspended (s : State) (k : Nat) (x : Die) : (s.setDie k x).suspended = s.suspended := rfl
@[simp] theorem State.setDie_stopped (s : State) (k : Nat) (x : Die) : (s.setDie k x).stopped = s.stopped := rfl
@[simp] theorem State.setDie_throttled (s : State) (k : Nat) (x : Die) : (s.setDie k x).throttled = s.throttled := rfl
@[simp] theorem State.setDie_links (s : State) (k : Nat) (x : Die) : (s.setDie k x).links = s.links := rfl
@[simp] theorem State.setDie_launches (s : State) (k : Nat) (x : Die) : (s.setDie k x).launches = s.launches := rfl
@[simp] theorem State.setDie_saved (s : State) (k : Nat) (x : Die) : (s.setDie k x).saved = s.saved := rfl
@[simp] theorem State.setDie_ctxSeq (s : State) (k : Nat) (x : Die) : (s.setDie k x).ctxSeq = s.ctxSeq := rfl
@[simp] theorem State.setDie_teams (s : State) (k : Nat) (x : Die) : (s.setDie k x).teams = s.teams := rfl
@[simp] theorem State.setDie_cores (s : State) (k : Nat) (x : Die) : (s.setDie k x).cores = s.cores := rfl
@[simp] theorem State.setDie_stores (s : State) (k : Nat) (x : Die) : (s.setDie k x).stores = s.stores := rfl
@[simp] theorem State.setDie_resWrites (s : State) (k : Nat) (x : Die) : (s.setDie k x).resWrites = s.resWrites := rfl
@[simp] theorem State.setDie_words (s : State) (k : Nat) (x : Die) : (s.setDie k x).words = s.words := rfl
@[simp] theorem State.setDie_ops (s : State) (k : Nat) (x : Die) : (s.setDie k x).ops = s.ops := rfl
@[simp] theorem State.setDie_now (s : State) (k : Nat) (x : Die) : (s.setDie k x).now = s.now := rfl
@[simp] theorem State.setDie_nextId (s : State) (k : Nat) (x : Die) : (s.setDie k x).nextId = s.nextId := rfl
@[simp] theorem State.setDie_freeIx (s : State) (k : Nat) (x : Die) : (s.setDie k x).freeIx = s.freeIx := rfl
@[simp] theorem State.setDie_cur (s : State) (k : Nat) (x : Die) : (s.setDie k x).cur = s.cur := rfl
@[simp] theorem State.setDie_sched (s : State) (k : Nat) (x : Die) : (s.setDie k x).sched = s.sched := rfl

/-! ### State.setFn -/

@[simp] theorem State.setFn_mem (s : State) (k : Nat) (x : Fn) : (s.setFn k x).mem = s.mem := rfl
@[simp] theorem State.setFn_pool (s : State) (k : Nat) (x : Fn) : (s.setFn k x).pool = s.pool := rfl
@[simp] theorem State.setFn_hostMem (s : State) (k : Nat) (x : Fn) : (s.setFn k x).hostMem = s.hostMem := rfl
@[simp] theorem State.setFn_l2 (s : State) (k : Nat) (x : Fn) : (s.setFn k x).l2 = s.l2 := rfl
@[simp] theorem State.setFn_poison (s : State) (k : Nat) (x : Fn) : (s.setFn k x).poison = s.poison := rfl
@[simp] theorem State.setFn_frames (s : State) (k : Nat) (x : Fn) : (s.setFn k x).frames = s.frames := rfl
@[simp] theorem State.setFn_parts (s : State) (k : Nat) (x : Fn) : (s.setFn k x).parts = s.parts := rfl
@[simp] theorem State.setFn_tableNext (s : State) (k : Nat) (x : Fn) : (s.setFn k x).tableNext = s.tableNext := rfl
@[simp] theorem State.setFn_vis (s : State) (k : Nat) (x : Fn) : (s.setFn k x).vis = s.vis := rfl
@[simp] theorem State.setFn_flights (s : State) (k : Nat) (x : Fn) : (s.setFn k x).flights = s.flights := rfl
@[simp] theorem State.setFn_landing (s : State) (k : Nat) (x : Fn) : (s.setFn k x).landing = s.landing := rfl
@[simp] theorem State.setFn_chainDirty (s : State) (k : Nat) (x : Fn) : (s.setFn k x).chainDirty = s.chainDirty := rfl
@[simp] theorem State.setFn_acks (s : State) (k : Nat) (x : Fn) : (s.setFn k x).acks = s.acks := rfl
@[simp] theorem State.setFn_arrays (s : State) (k : Nat) (x : Fn) : (s.setFn k x).arrays = s.arrays := rfl
@[simp] theorem State.setFn_vcache (s : State) (k : Nat) (x : Fn) : (s.setFn k x).vcache = s.vcache := rfl
@[simp] theorem State.setFn_dies (s : State) (k : Nat) (x : Fn) : (s.setFn k x).dies = s.dies := rfl
@[simp] theorem State.setFn_ready (s : State) (k : Nat) (x : Fn) : (s.setFn k x).ready = s.ready := rfl
@[simp] theorem State.setFn_suspended (s : State) (k : Nat) (x : Fn) : (s.setFn k x).suspended = s.suspended := rfl
@[simp] theorem State.setFn_stopped (s : State) (k : Nat) (x : Fn) : (s.setFn k x).stopped = s.stopped := rfl
@[simp] theorem State.setFn_throttled (s : State) (k : Nat) (x : Fn) : (s.setFn k x).throttled = s.throttled := rfl
@[simp] theorem State.setFn_links (s : State) (k : Nat) (x : Fn) : (s.setFn k x).links = s.links := rfl
@[simp] theorem State.setFn_launches (s : State) (k : Nat) (x : Fn) : (s.setFn k x).launches = s.launches := rfl
@[simp] theorem State.setFn_saved (s : State) (k : Nat) (x : Fn) : (s.setFn k x).saved = s.saved := rfl
@[simp] theorem State.setFn_ctxSeq (s : State) (k : Nat) (x : Fn) : (s.setFn k x).ctxSeq = s.ctxSeq := rfl
@[simp] theorem State.setFn_teams (s : State) (k : Nat) (x : Fn) : (s.setFn k x).teams = s.teams := rfl
@[simp] theorem State.setFn_cores (s : State) (k : Nat) (x : Fn) : (s.setFn k x).cores = s.cores := rfl
@[simp] theorem State.setFn_stores (s : State) (k : Nat) (x : Fn) : (s.setFn k x).stores = s.stores := rfl
@[simp] theorem State.setFn_resWrites (s : State) (k : Nat) (x : Fn) : (s.setFn k x).resWrites = s.resWrites := rfl
@[simp] theorem State.setFn_words (s : State) (k : Nat) (x : Fn) : (s.setFn k x).words = s.words := rfl
@[simp] theorem State.setFn_ops (s : State) (k : Nat) (x : Fn) : (s.setFn k x).ops = s.ops := rfl
@[simp] theorem State.setFn_now (s : State) (k : Nat) (x : Fn) : (s.setFn k x).now = s.now := rfl
@[simp] theorem State.setFn_nextId (s : State) (k : Nat) (x : Fn) : (s.setFn k x).nextId = s.nextId := rfl
@[simp] theorem State.setFn_freeIx (s : State) (k : Nat) (x : Fn) : (s.setFn k x).freeIx = s.freeIx := rfl
@[simp] theorem State.setFn_cur (s : State) (k : Nat) (x : Fn) : (s.setFn k x).cur = s.cur := rfl
@[simp] theorem State.setFn_sched (s : State) (k : Nat) (x : Fn) : (s.setFn k x).sched = s.sched := rfl

/-! ### State.setArray -/

@[simp] theorem State.setArray_mem (s : State) (k : Nat) (x : ArrayEntry) : (s.setArray k x).mem = s.mem := rfl
@[simp] theorem State.setArray_pool (s : State) (k : Nat) (x : ArrayEntry) : (s.setArray k x).pool = s.pool := rfl
@[simp] theorem State.setArray_hostMem (s : State) (k : Nat) (x : ArrayEntry) : (s.setArray k x).hostMem = s.hostMem := rfl
@[simp] theorem State.setArray_l2 (s : State) (k : Nat) (x : ArrayEntry) : (s.setArray k x).l2 = s.l2 := rfl
@[simp] theorem State.setArray_poison (s : State) (k : Nat) (x : ArrayEntry) : (s.setArray k x).poison = s.poison := rfl
@[simp] theorem State.setArray_frames (s : State) (k : Nat) (x : ArrayEntry) : (s.setArray k x).frames = s.frames := rfl
@[simp] theorem State.setArray_parts (s : State) (k : Nat) (x : ArrayEntry) : (s.setArray k x).parts = s.parts := rfl
@[simp] theorem State.setArray_tableNext (s : State) (k : Nat) (x : ArrayEntry) : (s.setArray k x).tableNext = s.tableNext := rfl
@[simp] theorem State.setArray_vis (s : State) (k : Nat) (x : ArrayEntry) : (s.setArray k x).vis = s.vis := rfl
@[simp] theorem State.setArray_flights (s : State) (k : Nat) (x : ArrayEntry) : (s.setArray k x).flights = s.flights := rfl
@[simp] theorem State.setArray_landing (s : State) (k : Nat) (x : ArrayEntry) : (s.setArray k x).landing = s.landing := rfl
@[simp] theorem State.setArray_chainDirty (s : State) (k : Nat) (x : ArrayEntry) : (s.setArray k x).chainDirty = s.chainDirty := rfl
@[simp] theorem State.setArray_acks (s : State) (k : Nat) (x : ArrayEntry) : (s.setArray k x).acks = s.acks := rfl
@[simp] theorem State.setArray_vcache (s : State) (k : Nat) (x : ArrayEntry) : (s.setArray k x).vcache = s.vcache := rfl
@[simp] theorem State.setArray_dies (s : State) (k : Nat) (x : ArrayEntry) : (s.setArray k x).dies = s.dies := rfl
@[simp] theorem State.setArray_fns (s : State) (k : Nat) (x : ArrayEntry) : (s.setArray k x).fns = s.fns := rfl
@[simp] theorem State.setArray_ready (s : State) (k : Nat) (x : ArrayEntry) : (s.setArray k x).ready = s.ready := rfl
@[simp] theorem State.setArray_suspended (s : State) (k : Nat) (x : ArrayEntry) : (s.setArray k x).suspended = s.suspended := rfl
@[simp] theorem State.setArray_stopped (s : State) (k : Nat) (x : ArrayEntry) : (s.setArray k x).stopped = s.stopped := rfl
@[simp] theorem State.setArray_throttled (s : State) (k : Nat) (x : ArrayEntry) : (s.setArray k x).throttled = s.throttled := rfl
@[simp] theorem State.setArray_links (s : State) (k : Nat) (x : ArrayEntry) : (s.setArray k x).links = s.links := rfl
@[simp] theorem State.setArray_launches (s : State) (k : Nat) (x : ArrayEntry) : (s.setArray k x).launches = s.launches := rfl
@[simp] theorem State.setArray_saved (s : State) (k : Nat) (x : ArrayEntry) : (s.setArray k x).saved = s.saved := rfl
@[simp] theorem State.setArray_ctxSeq (s : State) (k : Nat) (x : ArrayEntry) : (s.setArray k x).ctxSeq = s.ctxSeq := rfl
@[simp] theorem State.setArray_teams (s : State) (k : Nat) (x : ArrayEntry) : (s.setArray k x).teams = s.teams := rfl
@[simp] theorem State.setArray_cores (s : State) (k : Nat) (x : ArrayEntry) : (s.setArray k x).cores = s.cores := rfl
@[simp] theorem State.setArray_stores (s : State) (k : Nat) (x : ArrayEntry) : (s.setArray k x).stores = s.stores := rfl
@[simp] theorem State.setArray_resWrites (s : State) (k : Nat) (x : ArrayEntry) : (s.setArray k x).resWrites = s.resWrites := rfl
@[simp] theorem State.setArray_words (s : State) (k : Nat) (x : ArrayEntry) : (s.setArray k x).words = s.words := rfl
@[simp] theorem State.setArray_ops (s : State) (k : Nat) (x : ArrayEntry) : (s.setArray k x).ops = s.ops := rfl
@[simp] theorem State.setArray_now (s : State) (k : Nat) (x : ArrayEntry) : (s.setArray k x).now = s.now := rfl
@[simp] theorem State.setArray_nextId (s : State) (k : Nat) (x : ArrayEntry) : (s.setArray k x).nextId = s.nextId := rfl
@[simp] theorem State.setArray_freeIx (s : State) (k : Nat) (x : ArrayEntry) : (s.setArray k x).freeIx = s.freeIx := rfl
@[simp] theorem State.setArray_cur (s : State) (k : Nat) (x : ArrayEntry) : (s.setArray k x).cur = s.cur := rfl
@[simp] theorem State.setArray_sched (s : State) (k : Nat) (x : ArrayEntry) : (s.setArray k x).sched = s.sched := rfl

/-! ### State.setWord -/

@[simp] theorem State.setWord_mem (s : State) (x : CWord) : (s.setWord x).mem = s.mem := rfl
@[simp] theorem State.setWord_pool (s : State) (x : CWord) : (s.setWord x).pool = s.pool := rfl
@[simp] theorem State.setWord_hostMem (s : State) (x : CWord) : (s.setWord x).hostMem = s.hostMem := rfl
@[simp] theorem State.setWord_l2 (s : State) (x : CWord) : (s.setWord x).l2 = s.l2 := rfl
@[simp] theorem State.setWord_poison (s : State) (x : CWord) : (s.setWord x).poison = s.poison := rfl
@[simp] theorem State.setWord_frames (s : State) (x : CWord) : (s.setWord x).frames = s.frames := rfl
@[simp] theorem State.setWord_parts (s : State) (x : CWord) : (s.setWord x).parts = s.parts := rfl
@[simp] theorem State.setWord_tableNext (s : State) (x : CWord) : (s.setWord x).tableNext = s.tableNext := rfl
@[simp] theorem State.setWord_vis (s : State) (x : CWord) : (s.setWord x).vis = s.vis := rfl
@[simp] theorem State.setWord_flights (s : State) (x : CWord) : (s.setWord x).flights = s.flights := rfl
@[simp] theorem State.setWord_landing (s : State) (x : CWord) : (s.setWord x).landing = s.landing := rfl
@[simp] theorem State.setWord_chainDirty (s : State) (x : CWord) : (s.setWord x).chainDirty = s.chainDirty := rfl
@[simp] theorem State.setWord_acks (s : State) (x : CWord) : (s.setWord x).acks = s.acks := rfl
@[simp] theorem State.setWord_arrays (s : State) (x : CWord) : (s.setWord x).arrays = s.arrays := rfl
@[simp] theorem State.setWord_vcache (s : State) (x : CWord) : (s.setWord x).vcache = s.vcache := rfl
@[simp] theorem State.setWord_dies (s : State) (x : CWord) : (s.setWord x).dies = s.dies := rfl
@[simp] theorem State.setWord_fns (s : State) (x : CWord) : (s.setWord x).fns = s.fns := rfl
@[simp] theorem State.setWord_ready (s : State) (x : CWord) : (s.setWord x).ready = s.ready := rfl
@[simp] theorem State.setWord_suspended (s : State) (x : CWord) : (s.setWord x).suspended = s.suspended := rfl
@[simp] theorem State.setWord_stopped (s : State) (x : CWord) : (s.setWord x).stopped = s.stopped := rfl
@[simp] theorem State.setWord_throttled (s : State) (x : CWord) : (s.setWord x).throttled = s.throttled := rfl
@[simp] theorem State.setWord_links (s : State) (x : CWord) : (s.setWord x).links = s.links := rfl
@[simp] theorem State.setWord_launches (s : State) (x : CWord) : (s.setWord x).launches = s.launches := rfl
@[simp] theorem State.setWord_saved (s : State) (x : CWord) : (s.setWord x).saved = s.saved := rfl
@[simp] theorem State.setWord_ctxSeq (s : State) (x : CWord) : (s.setWord x).ctxSeq = s.ctxSeq := rfl
@[simp] theorem State.setWord_teams (s : State) (x : CWord) : (s.setWord x).teams = s.teams := rfl
@[simp] theorem State.setWord_cores (s : State) (x : CWord) : (s.setWord x).cores = s.cores := rfl
@[simp] theorem State.setWord_stores (s : State) (x : CWord) : (s.setWord x).stores = s.stores := rfl
@[simp] theorem State.setWord_resWrites (s : State) (x : CWord) : (s.setWord x).resWrites = s.resWrites := rfl
@[simp] theorem State.setWord_ops (s : State) (x : CWord) : (s.setWord x).ops = s.ops := rfl
@[simp] theorem State.setWord_now (s : State) (x : CWord) : (s.setWord x).now = s.now := rfl
@[simp] theorem State.setWord_nextId (s : State) (x : CWord) : (s.setWord x).nextId = s.nextId := rfl
@[simp] theorem State.setWord_freeIx (s : State) (x : CWord) : (s.setWord x).freeIx = s.freeIx := rfl
@[simp] theorem State.setWord_cur (s : State) (x : CWord) : (s.setWord x).cur = s.cur := rfl
@[simp] theorem State.setWord_sched (s : State) (x : CWord) : (s.setWord x).sched = s.sched := rfl

/-! ### State.setOp -/

@[simp] theorem State.setOp_mem (s : State) (x : Op) : (s.setOp x).mem = s.mem := rfl
@[simp] theorem State.setOp_pool (s : State) (x : Op) : (s.setOp x).pool = s.pool := rfl
@[simp] theorem State.setOp_hostMem (s : State) (x : Op) : (s.setOp x).hostMem = s.hostMem := rfl
@[simp] theorem State.setOp_l2 (s : State) (x : Op) : (s.setOp x).l2 = s.l2 := rfl
@[simp] theorem State.setOp_poison (s : State) (x : Op) : (s.setOp x).poison = s.poison := rfl
@[simp] theorem State.setOp_frames (s : State) (x : Op) : (s.setOp x).frames = s.frames := rfl
@[simp] theorem State.setOp_parts (s : State) (x : Op) : (s.setOp x).parts = s.parts := rfl
@[simp] theorem State.setOp_tableNext (s : State) (x : Op) : (s.setOp x).tableNext = s.tableNext := rfl
@[simp] theorem State.setOp_vis (s : State) (x : Op) : (s.setOp x).vis = s.vis := rfl
@[simp] theorem State.setOp_flights (s : State) (x : Op) : (s.setOp x).flights = s.flights := rfl
@[simp] theorem State.setOp_landing (s : State) (x : Op) : (s.setOp x).landing = s.landing := rfl
@[simp] theorem State.setOp_chainDirty (s : State) (x : Op) : (s.setOp x).chainDirty = s.chainDirty := rfl
@[simp] theorem State.setOp_acks (s : State) (x : Op) : (s.setOp x).acks = s.acks := rfl
@[simp] theorem State.setOp_arrays (s : State) (x : Op) : (s.setOp x).arrays = s.arrays := rfl
@[simp] theorem State.setOp_vcache (s : State) (x : Op) : (s.setOp x).vcache = s.vcache := rfl
@[simp] theorem State.setOp_dies (s : State) (x : Op) : (s.setOp x).dies = s.dies := rfl
@[simp] theorem State.setOp_fns (s : State) (x : Op) : (s.setOp x).fns = s.fns := rfl
@[simp] theorem State.setOp_ready (s : State) (x : Op) : (s.setOp x).ready = s.ready := rfl
@[simp] theorem State.setOp_suspended (s : State) (x : Op) : (s.setOp x).suspended = s.suspended := rfl
@[simp] theorem State.setOp_stopped (s : State) (x : Op) : (s.setOp x).stopped = s.stopped := rfl
@[simp] theorem State.setOp_throttled (s : State) (x : Op) : (s.setOp x).throttled = s.throttled := rfl
@[simp] theorem State.setOp_links (s : State) (x : Op) : (s.setOp x).links = s.links := rfl
@[simp] theorem State.setOp_launches (s : State) (x : Op) : (s.setOp x).launches = s.launches := rfl
@[simp] theorem State.setOp_saved (s : State) (x : Op) : (s.setOp x).saved = s.saved := rfl
@[simp] theorem State.setOp_ctxSeq (s : State) (x : Op) : (s.setOp x).ctxSeq = s.ctxSeq := rfl
@[simp] theorem State.setOp_teams (s : State) (x : Op) : (s.setOp x).teams = s.teams := rfl
@[simp] theorem State.setOp_cores (s : State) (x : Op) : (s.setOp x).cores = s.cores := rfl
@[simp] theorem State.setOp_stores (s : State) (x : Op) : (s.setOp x).stores = s.stores := rfl
@[simp] theorem State.setOp_resWrites (s : State) (x : Op) : (s.setOp x).resWrites = s.resWrites := rfl
@[simp] theorem State.setOp_words (s : State) (x : Op) : (s.setOp x).words = s.words := rfl
@[simp] theorem State.setOp_now (s : State) (x : Op) : (s.setOp x).now = s.now := rfl
@[simp] theorem State.setOp_nextId (s : State) (x : Op) : (s.setOp x).nextId = s.nextId := rfl
@[simp] theorem State.setOp_freeIx (s : State) (x : Op) : (s.setOp x).freeIx = s.freeIx := rfl
@[simp] theorem State.setOp_cur (s : State) (x : Op) : (s.setOp x).cur = s.cur := rfl
@[simp] theorem State.setOp_sched (s : State) (x : Op) : (s.setOp x).sched = s.sched := rfl

/-! ### State.setPte -/

@[simp] theorem State.setPte_pool (s : State) (k x : Nat) : (s.setPte k x).pool = s.pool := rfl
@[simp] theorem State.setPte_hostMem (s : State) (k x : Nat) : (s.setPte k x).hostMem = s.hostMem := rfl
@[simp] theorem State.setPte_l2 (s : State) (k x : Nat) : (s.setPte k x).l2 = s.l2 := rfl
@[simp] theorem State.setPte_poison (s : State) (k x : Nat) : (s.setPte k x).poison = s.poison := rfl
@[simp] theorem State.setPte_frames (s : State) (k x : Nat) : (s.setPte k x).frames = s.frames := rfl
@[simp] theorem State.setPte_parts (s : State) (k x : Nat) : (s.setPte k x).parts = s.parts := rfl
@[simp] theorem State.setPte_tableNext (s : State) (k x : Nat) : (s.setPte k x).tableNext = s.tableNext := rfl
@[simp] theorem State.setPte_vis (s : State) (k x : Nat) : (s.setPte k x).vis = s.vis := rfl
@[simp] theorem State.setPte_flights (s : State) (k x : Nat) : (s.setPte k x).flights = s.flights := rfl
@[simp] theorem State.setPte_landing (s : State) (k x : Nat) : (s.setPte k x).landing = s.landing := rfl
@[simp] theorem State.setPte_chainDirty (s : State) (k x : Nat) : (s.setPte k x).chainDirty = s.chainDirty := rfl
@[simp] theorem State.setPte_acks (s : State) (k x : Nat) : (s.setPte k x).acks = s.acks := rfl
@[simp] theorem State.setPte_arrays (s : State) (k x : Nat) : (s.setPte k x).arrays = s.arrays := rfl
@[simp] theorem State.setPte_vcache (s : State) (k x : Nat) : (s.setPte k x).vcache = s.vcache := rfl
@[simp] theorem State.setPte_dies (s : State) (k x : Nat) : (s.setPte k x).dies = s.dies := rfl
@[simp] theorem State.setPte_fns (s : State) (k x : Nat) : (s.setPte k x).fns = s.fns := rfl
@[simp] theorem State.setPte_ready (s : State) (k x : Nat) : (s.setPte k x).ready = s.ready := rfl
@[simp] theorem State.setPte_suspended (s : State) (k x : Nat) : (s.setPte k x).suspended = s.suspended := rfl
@[simp] theorem State.setPte_stopped (s : State) (k x : Nat) : (s.setPte k x).stopped = s.stopped := rfl
@[simp] theorem State.setPte_throttled (s : State) (k x : Nat) : (s.setPte k x).throttled = s.throttled := rfl
@[simp] theorem State.setPte_links (s : State) (k x : Nat) : (s.setPte k x).links = s.links := rfl
@[simp] theorem State.setPte_launches (s : State) (k x : Nat) : (s.setPte k x).launches = s.launches := rfl
@[simp] theorem State.setPte_saved (s : State) (k x : Nat) : (s.setPte k x).saved = s.saved := rfl
@[simp] theorem State.setPte_ctxSeq (s : State) (k x : Nat) : (s.setPte k x).ctxSeq = s.ctxSeq := rfl
@[simp] theorem State.setPte_teams (s : State) (k x : Nat) : (s.setPte k x).teams = s.teams := rfl
@[simp] theorem State.setPte_cores (s : State) (k x : Nat) : (s.setPte k x).cores = s.cores := rfl
@[simp] theorem State.setPte_stores (s : State) (k x : Nat) : (s.setPte k x).stores = s.stores := rfl
@[simp] theorem State.setPte_resWrites (s : State) (k x : Nat) : (s.setPte k x).resWrites = s.resWrites := rfl
@[simp] theorem State.setPte_words (s : State) (k x : Nat) : (s.setPte k x).words = s.words := rfl
@[simp] theorem State.setPte_ops (s : State) (k x : Nat) : (s.setPte k x).ops = s.ops := rfl
@[simp] theorem State.setPte_now (s : State) (k x : Nat) : (s.setPte k x).now = s.now := rfl
@[simp] theorem State.setPte_nextId (s : State) (k x : Nat) : (s.setPte k x).nextId = s.nextId := rfl
@[simp] theorem State.setPte_freeIx (s : State) (k x : Nat) : (s.setPte k x).freeIx = s.freeIx := rfl
@[simp] theorem State.setPte_cur (s : State) (k x : Nat) : (s.setPte k x).cur = s.cur := rfl
@[simp] theorem State.setPte_sched (s : State) (k x : Nat) : (s.setPte k x).sched = s.sched := rfl

/-! ### State.addWord -/

@[simp] theorem State.addWord_mem (s : State) (w : CWord) : (s.addWord w).mem = s.mem := rfl
@[simp] theorem State.addWord_pool (s : State) (w : CWord) : (s.addWord w).pool = s.pool := rfl
@[simp] theorem State.addWord_hostMem (s : State) (w : CWord) : (s.addWord w).hostMem = s.hostMem := rfl
@[simp] theorem State.addWord_l2 (s : State) (w : CWord) : (s.addWord w).l2 = s.l2 := rfl
@[simp] theorem State.addWord_poison (s : State) (w : CWord) : (s.addWord w).poison = s.poison := rfl
@[simp] theorem State.addWord_frames (s : State) (w : CWord) : (s.addWord w).frames = s.frames := rfl
@[simp] theorem State.addWord_parts (s : State) (w : CWord) : (s.addWord w).parts = s.parts := rfl
@[simp] theorem State.addWord_tableNext (s : State) (w : CWord) : (s.addWord w).tableNext = s.tableNext := rfl
@[simp] theorem State.addWord_vis (s : State) (w : CWord) : (s.addWord w).vis = s.vis := rfl
@[simp] theorem State.addWord_flights (s : State) (w : CWord) : (s.addWord w).flights = s.flights := rfl
@[simp] theorem State.addWord_landing (s : State) (w : CWord) : (s.addWord w).landing = s.landing := rfl
@[simp] theorem State.addWord_chainDirty (s : State) (w : CWord) : (s.addWord w).chainDirty = s.chainDirty := rfl
@[simp] theorem State.addWord_acks (s : State) (w : CWord) : (s.addWord w).acks = s.acks := rfl
@[simp] theorem State.addWord_arrays (s : State) (w : CWord) : (s.addWord w).arrays = s.arrays := rfl
@[simp] theorem State.addWord_vcache (s : State) (w : CWord) : (s.addWord w).vcache = s.vcache := rfl
@[simp] theorem State.addWord_dies (s : State) (w : CWord) : (s.addWord w).dies = s.dies := rfl
@[simp] theorem State.addWord_fns (s : State) (w : CWord) : (s.addWord w).fns = s.fns := rfl
@[simp] theorem State.addWord_ready (s : State) (w : CWord) : (s.addWord w).ready = s.ready := rfl
@[simp] theorem State.addWord_suspended (s : State) (w : CWord) : (s.addWord w).suspended = s.suspended := rfl
@[simp] theorem State.addWord_stopped (s : State) (w : CWord) : (s.addWord w).stopped = s.stopped := rfl
@[simp] theorem State.addWord_throttled (s : State) (w : CWord) : (s.addWord w).throttled = s.throttled := rfl
@[simp] theorem State.addWord_links (s : State) (w : CWord) : (s.addWord w).links = s.links := rfl
@[simp] theorem State.addWord_launches (s : State) (w : CWord) : (s.addWord w).launches = s.launches := rfl
@[simp] theorem State.addWord_saved (s : State) (w : CWord) : (s.addWord w).saved = s.saved := rfl
@[simp] theorem State.addWord_ctxSeq (s : State) (w : CWord) : (s.addWord w).ctxSeq = s.ctxSeq := rfl
@[simp] theorem State.addWord_teams (s : State) (w : CWord) : (s.addWord w).teams = s.teams := rfl
@[simp] theorem State.addWord_cores (s : State) (w : CWord) : (s.addWord w).cores = s.cores := rfl
@[simp] theorem State.addWord_stores (s : State) (w : CWord) : (s.addWord w).stores = s.stores := rfl
@[simp] theorem State.addWord_resWrites (s : State) (w : CWord) : (s.addWord w).resWrites = s.resWrites := rfl
@[simp] theorem State.addWord_ops (s : State) (w : CWord) : (s.addWord w).ops = s.ops := rfl
@[simp] theorem State.addWord_now (s : State) (w : CWord) : (s.addWord w).now = s.now := rfl
@[simp] theorem State.addWord_freeIx (s : State) (w : CWord) : (s.addWord w).freeIx = s.freeIx := rfl
@[simp] theorem State.addWord_cur (s : State) (w : CWord) : (s.addWord w).cur = s.cur := rfl
@[simp] theorem State.addWord_sched (s : State) (w : CWord) : (s.addWord w).sched = s.sched := rfl

/-! ### State.mapTeam -/

@[simp] theorem State.mapTeam_mem (s : State) (k : Nat) (g : Team → Team) : (s.mapTeam k g).mem = s.mem := by
  unfold State.mapTeam; split <;> rfl
@[simp] theorem State.mapTeam_pool (s : State) (k : Nat) (g : Team → Team) : (s.mapTeam k g).pool = s.pool := by
  unfold State.mapTeam; split <;> rfl
@[simp] theorem State.mapTeam_hostMem (s : State) (k : Nat) (g : Team → Team) : (s.mapTeam k g).hostMem = s.hostMem := by
  unfold State.mapTeam; split <;> rfl
@[simp] theorem State.mapTeam_l2 (s : State) (k : Nat) (g : Team → Team) : (s.mapTeam k g).l2 = s.l2 := by
  unfold State.mapTeam; split <;> rfl
@[simp] theorem State.mapTeam_poison (s : State) (k : Nat) (g : Team → Team) : (s.mapTeam k g).poison = s.poison := by
  unfold State.mapTeam; split <;> rfl
@[simp] theorem State.mapTeam_frames (s : State) (k : Nat) (g : Team → Team) : (s.mapTeam k g).frames = s.frames := by
  unfold State.mapTeam; split <;> rfl
@[simp] theorem State.mapTeam_parts (s : State) (k : Nat) (g : Team → Team) : (s.mapTeam k g).parts = s.parts := by
  unfold State.mapTeam; split <;> rfl
@[simp] theorem State.mapTeam_tableNext (s : State) (k : Nat) (g : Team → Team) : (s.mapTeam k g).tableNext = s.tableNext := by
  unfold State.mapTeam; split <;> rfl
@[simp] theorem State.mapTeam_vis (s : State) (k : Nat) (g : Team → Team) : (s.mapTeam k g).vis = s.vis := by
  unfold State.mapTeam; split <;> rfl
@[simp] theorem State.mapTeam_flights (s : State) (k : Nat) (g : Team → Team) : (s.mapTeam k g).flights = s.flights := by
  unfold State.mapTeam; split <;> rfl
@[simp] theorem State.mapTeam_landing (s : State) (k : Nat) (g : Team → Team) : (s.mapTeam k g).landing = s.landing := by
  unfold State.mapTeam; split <;> rfl
@[simp] theorem State.mapTeam_chainDirty (s : State) (k : Nat) (g : Team → Team) : (s.mapTeam k g).chainDirty = s.chainDirty := by
  unfold State.mapTeam; split <;> rfl
@[simp] theorem State.mapTeam_acks (s : State) (k : Nat) (g : Team → Team) : (s.mapTeam k g).acks = s.acks := by
  unfold State.mapTeam; split <;> rfl
@[simp] theorem State.mapTeam_arrays (s : State) (k : Nat) (g : Team → Team) : (s.mapTeam k g).arrays = s.arrays := by
  unfold State.mapTeam; split <;> rfl
@[simp] theorem State.mapTeam_vcache (s : State) (k : Nat) (g : Team → Team) : (s.mapTeam k g).vcache = s.vcache := by
  unfold State.mapTeam; split <;> rfl
@[simp] theorem State.mapTeam_dies (s : State) (k : Nat) (g : Team → Team) : (s.mapTeam k g).dies = s.dies := by
  unfold State.mapTeam; split <;> rfl
@[simp] theorem State.mapTeam_fns (s : State) (k : Nat) (g : Team → Team) : (s.mapTeam k g).fns = s.fns := by
  unfold State.mapTeam; split <;> rfl
@[simp] theorem State.mapTeam_ready (s : State) (k : Nat) (g : Team → Team) : (s.mapTeam k g).ready = s.ready := by
  unfold State.mapTeam; split <;> rfl
@[simp] theorem State.mapTeam_suspended (s : State) (k : Nat) (g : Team → Team) : (s.mapTeam k g).suspended = s.suspended := by
  unfold State.mapTeam; split <;> rfl
@[simp] theorem State.mapTeam_stopped (s : State) (k : Nat) (g : Team → Team) : (s.mapTeam k g).stopped = s.stopped := by
  unfold State.mapTeam; split <;> rfl
@[simp] theorem State.mapTeam_throttled (s : State) (k : Nat) (g : Team → Team) : (s.mapTeam k g).throttled = s.throttled := by
  unfold State.mapTeam; split <;> rfl
@[simp] theorem State.mapTeam_links (s : State) (k : Nat) (g : Team → Team) : (s.mapTeam k g).links = s.links := by
  unfold State.mapTeam; split <;> rfl
@[simp] theorem State.mapTeam_launches (s : State) (k : Nat) (g : Team → Team) : (s.mapTeam k g).launches = s.launches := by
  unfold State.mapTeam; split <;> rfl
@[simp] theorem State.mapTeam_saved (s : State) (k : Nat) (g : Team → Team) : (s.mapTeam k g).saved = s.saved := by
  unfold State.mapTeam; split <;> rfl
@[simp] theorem State.mapTeam_ctxSeq (s : State) (k : Nat) (g : Team → Team) : (s.mapTeam k g).ctxSeq = s.ctxSeq := by
  unfold State.mapTeam; split <;> rfl
@[simp] theorem State.mapTeam_cores (s : State) (k : Nat) (g : Team → Team) : (s.mapTeam k g).cores = s.cores := by
  unfold State.mapTeam; split <;> rfl
@[simp] theorem State.mapTeam_stores (s : State) (k : Nat) (g : Team → Team) : (s.mapTeam k g).stores = s.stores := by
  unfold State.mapTeam; split <;> rfl
@[simp] theorem State.mapTeam_resWrites (s : State) (k : Nat) (g : Team → Team) : (s.mapTeam k g).resWrites = s.resWrites := by
  unfold State.mapTeam; split <;> rfl
@[simp] theorem State.mapTeam_words (s : State) (k : Nat) (g : Team → Team) : (s.mapTeam k g).words = s.words := by
  unfold State.mapTeam; split <;> rfl
@[simp] theorem State.mapTeam_ops (s : State) (k : Nat) (g : Team → Team) : (s.mapTeam k g).ops = s.ops := by
  unfold State.mapTeam; split <;> rfl
@[simp] theorem State.mapTeam_now (s : State) (k : Nat) (g : Team → Team) : (s.mapTeam k g).now = s.now := by
  unfold State.mapTeam; split <;> rfl
@[simp] theorem State.mapTeam_nextId (s : State) (k : Nat) (g : Team → Team) : (s.mapTeam k g).nextId = s.nextId := by
  unfold State.mapTeam; split <;> rfl
@[simp] theorem State.mapTeam_freeIx (s : State) (k : Nat) (g : Team → Team) : (s.mapTeam k g).freeIx = s.freeIx := by
  unfold State.mapTeam; split <;> rfl
@[simp] theorem State.mapTeam_cur (s : State) (k : Nat) (g : Team → Team) : (s.mapTeam k g).cur = s.cur := by
  unfold State.mapTeam; split <;> rfl
@[simp] theorem State.mapTeam_sched (s : State) (k : Nat) (g : Team → Team) : (s.mapTeam k g).sched = s.sched := by
  unfold State.mapTeam; split <;> rfl

/-! ### Team.mapThread -/

@[simp] theorem Team.mapThread_decl (t : Team) (k : Nat) (g : Thread → Thread) : (t.mapThread k g).decl = t.decl := rfl
@[simp] theorem Team.mapThread_vi (t : Team) (k : Nat) (g : Thread → Thread) : (t.mapThread k g).vi = t.vi := rfl
@[simp] theorem Team.mapThread_ctx (t : Team) (k : Nat) (g : Thread → Thread) : (t.mapThread k g).ctx = t.ctx := rfl
@[simp] theorem Team.mapThread_launch (t : Team) (k : Nat) (g : Thread → Thread) : (t.mapThread k g).launch = t.launch := rfl
@[simp] theorem Team.mapThread_prio (t : Team) (k : Nat) (g : Thread → Thread) : (t.mapThread k g).prio = t.prio := rfl
@[simp] theorem Team.mapThread_core (t : Team) (k : Nat) (g : Thread → Thread) : (t.mapThread k g).core = t.core := rfl
@[simp] theorem Team.mapThread_pos (t : Team) (k : Nat) (g : Thread → Thread) : (t.mapThread k g).pos = t.pos := rfl
@[simp] theorem Team.mapThread_teamX (t : Team) (k : Nat) (g : Thread → Thread) : (t.mapThread k g).teamX = t.teamX := rfl
@[simp] theorem Team.mapThread_teamY (t : Team) (k : Nat) (g : Thread → Thread) : (t.mapThread k g).teamY = t.teamY := rfl
@[simp] theorem Team.mapThread_teamZ (t : Team) (k : Nat) (g : Thread → Thread) : (t.mapThread k g).teamZ = t.teamZ := rfl
@[simp] theorem Team.mapThread_gridX (t : Team) (k : Nat) (g : Thread → Thread) : (t.mapThread k g).gridX = t.gridX := rfl
@[simp] theorem Team.mapThread_gridY (t : Team) (k : Nat) (g : Thread → Thread) : (t.mapThread k g).gridY = t.gridY := rfl
@[simp] theorem Team.mapThread_gridZ (t : Team) (k : Nat) (g : Thread → Thread) : (t.mapThread k g).gridZ = t.gridZ := rfl
@[simp] theorem Team.mapThread_args (t : Team) (k : Nat) (g : Thread → Thread) : (t.mapThread k g).args = t.args := rfl
@[simp] theorem Team.mapThread_scratchKB (t : Team) (k : Nat) (g : Thread → Thread) : (t.mapThread k g).scratchKB = t.scratchKB := rfl
@[simp] theorem Team.mapThread_scratch (t : Team) (k : Nat) (g : Thread → Thread) : (t.mapThread k g).scratch = t.scratch := rfl
@[simp] theorem Team.mapThread_tiles (t : Team) (k : Nat) (g : Thread → Thread) : (t.mapThread k g).tiles = t.tiles := rfl
@[simp] theorem Team.mapThread_tileTags (t : Team) (k : Nat) (g : Thread → Thread) : (t.mapThread k g).tileTags = t.tileTags := rfl
@[simp] theorem Team.mapThread_groups (t : Team) (k : Nat) (g : Thread → Thread) : (t.mapThread k g).groups = t.groups := rfl
@[simp] theorem Team.mapThread_bundles (t : Team) (k : Nat) (g : Thread → Thread) : (t.mapThread k g).bundles = t.bundles := rfl
@[simp] theorem Team.mapThread_pipes (t : Team) (k : Nat) (g : Thread → Thread) : (t.mapThread k g).pipes = t.pipes := rfl
@[simp] theorem Team.mapThread_notices (t : Team) (k : Nat) (g : Thread → Thread) : (t.mapThread k g).notices = t.notices := rfl
@[simp] theorem Team.mapThread_replies (t : Team) (k : Nat) (g : Thread → Thread) : (t.mapThread k g).replies = t.replies := rfl
@[simp] theorem Team.mapThread_pipeUsed (t : Team) (k : Nat) (g : Thread → Thread) : (t.mapThread k g).pipeUsed = t.pipeUsed := rfl
@[simp] theorem Team.mapThread_ranks (t : Team) (k : Nat) (g : Thread → Thread) : (t.mapThread k g).ranks = t.ranks := rfl
@[simp] theorem Team.mapThread_nextRank (t : Team) (k : Nat) (g : Thread → Thread) : (t.mapThread k g).nextRank = t.nextRank := rfl
@[simp] theorem Team.mapThread_cbufs (t : Team) (k : Nat) (g : Thread → Thread) : (t.mapThread k g).cbufs = t.cbufs := rfl
@[simp] theorem Team.mapThread_yieldreq (t : Team) (k : Nat) (g : Thread → Thread) : (t.mapThread k g).yieldreq = t.yieldreq := rfl
@[simp] theorem Team.mapThread_deadline (t : Team) (k : Nat) (g : Thread → Thread) : (t.mapThread k g).deadline = t.deadline := rfl
@[simp] theorem Team.mapThread_raised (t : Team) (k : Nat) (g : Thread → Thread) : (t.mapThread k g).raised = t.raised := rfl
@[simp] theorem Team.mapThread_halt (t : Team) (k : Nat) (g : Thread → Thread) : (t.mapThread k g).halt = t.halt := rfl
@[simp] theorem Team.mapThread_held (t : Team) (k : Nat) (g : Thread → Thread) : (t.mapThread k g).held = t.held := rfl
@[simp] theorem Team.mapThread_emulated (t : Team) (k : Nat) (g : Thread → Thread) : (t.mapThread k g).emulated = t.emulated := rfl
@[simp] theorem Team.mapThread_saving (t : Team) (k : Nat) (g : Thread → Thread) : (t.mapThread k g).saving = t.saving := rfl
@[simp] theorem Team.mapThread_aborted (t : Team) (k : Nat) (g : Thread → Thread) : (t.mapThread k g).aborted = t.aborted := rfl
@[simp] theorem Team.mapThread_requested (t : Team) (k : Nat) (g : Thread → Thread) : (t.mapThread k g).requested = t.requested := rfl
@[simp] theorem Team.mapThread_withdrawing (t : Team) (k : Nat) (g : Thread → Thread) : (t.mapThread k g).withdrawing = t.withdrawing := rfl
@[simp] theorem Team.mapThread_badScratch (t : Team) (k : Nat) (g : Thread → Thread) : (t.mapThread k g).badScratch = t.badScratch := rfl
@[simp] theorem Team.mapThread_badTiles (t : Team) (k : Nat) (g : Thread → Thread) : (t.mapThread k g).badTiles = t.badTiles := rfl
@[simp] theorem Team.mapThread_placedAt (t : Team) (k : Nat) (g : Thread → Thread) : (t.mapThread k g).placedAt = t.placedAt := rfl

/-! ### Team.mapGroup -/

@[simp] theorem Team.mapGroup_decl (t : Team) (k : Nat) (g : Group → Group) : (t.mapGroup k g).decl = t.decl := rfl
@[simp] theorem Team.mapGroup_vi (t : Team) (k : Nat) (g : Group → Group) : (t.mapGroup k g).vi = t.vi := rfl
@[simp] theorem Team.mapGroup_ctx (t : Team) (k : Nat) (g : Group → Group) : (t.mapGroup k g).ctx = t.ctx := rfl
@[simp] theorem Team.mapGroup_launch (t : Team) (k : Nat) (g : Group → Group) : (t.mapGroup k g).launch = t.launch := rfl
@[simp] theorem Team.mapGroup_prio (t : Team) (k : Nat) (g : Group → Group) : (t.mapGroup k g).prio = t.prio := rfl
@[simp] theorem Team.mapGroup_core (t : Team) (k : Nat) (g : Group → Group) : (t.mapGroup k g).core = t.core := rfl
@[simp] theorem Team.mapGroup_pos (t : Team) (k : Nat) (g : Group → Group) : (t.mapGroup k g).pos = t.pos := rfl
@[simp] theorem Team.mapGroup_teamX (t : Team) (k : Nat) (g : Group → Group) : (t.mapGroup k g).teamX = t.teamX := rfl
@[simp] theorem Team.mapGroup_teamY (t : Team) (k : Nat) (g : Group → Group) : (t.mapGroup k g).teamY = t.teamY := rfl
@[simp] theorem Team.mapGroup_teamZ (t : Team) (k : Nat) (g : Group → Group) : (t.mapGroup k g).teamZ = t.teamZ := rfl
@[simp] theorem Team.mapGroup_gridX (t : Team) (k : Nat) (g : Group → Group) : (t.mapGroup k g).gridX = t.gridX := rfl
@[simp] theorem Team.mapGroup_gridY (t : Team) (k : Nat) (g : Group → Group) : (t.mapGroup k g).gridY = t.gridY := rfl
@[simp] theorem Team.mapGroup_gridZ (t : Team) (k : Nat) (g : Group → Group) : (t.mapGroup k g).gridZ = t.gridZ := rfl
@[simp] theorem Team.mapGroup_args (t : Team) (k : Nat) (g : Group → Group) : (t.mapGroup k g).args = t.args := rfl
@[simp] theorem Team.mapGroup_scratchKB (t : Team) (k : Nat) (g : Group → Group) : (t.mapGroup k g).scratchKB = t.scratchKB := rfl
@[simp] theorem Team.mapGroup_scratch (t : Team) (k : Nat) (g : Group → Group) : (t.mapGroup k g).scratch = t.scratch := rfl
@[simp] theorem Team.mapGroup_tiles (t : Team) (k : Nat) (g : Group → Group) : (t.mapGroup k g).tiles = t.tiles := rfl
@[simp] theorem Team.mapGroup_tileTags (t : Team) (k : Nat) (g : Group → Group) : (t.mapGroup k g).tileTags = t.tileTags := rfl
@[simp] theorem Team.mapGroup_threads (t : Team) (k : Nat) (g : Group → Group) : (t.mapGroup k g).threads = t.threads := rfl
@[simp] theorem Team.mapGroup_bundles (t : Team) (k : Nat) (g : Group → Group) : (t.mapGroup k g).bundles = t.bundles := rfl
@[simp] theorem Team.mapGroup_pipes (t : Team) (k : Nat) (g : Group → Group) : (t.mapGroup k g).pipes = t.pipes := rfl
@[simp] theorem Team.mapGroup_notices (t : Team) (k : Nat) (g : Group → Group) : (t.mapGroup k g).notices = t.notices := rfl
@[simp] theorem Team.mapGroup_replies (t : Team) (k : Nat) (g : Group → Group) : (t.mapGroup k g).replies = t.replies := rfl
@[simp] theorem Team.mapGroup_pipeUsed (t : Team) (k : Nat) (g : Group → Group) : (t.mapGroup k g).pipeUsed = t.pipeUsed := rfl
@[simp] theorem Team.mapGroup_ranks (t : Team) (k : Nat) (g : Group → Group) : (t.mapGroup k g).ranks = t.ranks := rfl
@[simp] theorem Team.mapGroup_nextRank (t : Team) (k : Nat) (g : Group → Group) : (t.mapGroup k g).nextRank = t.nextRank := rfl
@[simp] theorem Team.mapGroup_cbufs (t : Team) (k : Nat) (g : Group → Group) : (t.mapGroup k g).cbufs = t.cbufs := rfl
@[simp] theorem Team.mapGroup_yieldreq (t : Team) (k : Nat) (g : Group → Group) : (t.mapGroup k g).yieldreq = t.yieldreq := rfl
@[simp] theorem Team.mapGroup_deadline (t : Team) (k : Nat) (g : Group → Group) : (t.mapGroup k g).deadline = t.deadline := rfl
@[simp] theorem Team.mapGroup_raised (t : Team) (k : Nat) (g : Group → Group) : (t.mapGroup k g).raised = t.raised := rfl
@[simp] theorem Team.mapGroup_halt (t : Team) (k : Nat) (g : Group → Group) : (t.mapGroup k g).halt = t.halt := rfl
@[simp] theorem Team.mapGroup_held (t : Team) (k : Nat) (g : Group → Group) : (t.mapGroup k g).held = t.held := rfl
@[simp] theorem Team.mapGroup_emulated (t : Team) (k : Nat) (g : Group → Group) : (t.mapGroup k g).emulated = t.emulated := rfl
@[simp] theorem Team.mapGroup_saving (t : Team) (k : Nat) (g : Group → Group) : (t.mapGroup k g).saving = t.saving := rfl
@[simp] theorem Team.mapGroup_aborted (t : Team) (k : Nat) (g : Group → Group) : (t.mapGroup k g).aborted = t.aborted := rfl
@[simp] theorem Team.mapGroup_requested (t : Team) (k : Nat) (g : Group → Group) : (t.mapGroup k g).requested = t.requested := rfl
@[simp] theorem Team.mapGroup_withdrawing (t : Team) (k : Nat) (g : Group → Group) : (t.mapGroup k g).withdrawing = t.withdrawing := rfl
@[simp] theorem Team.mapGroup_badScratch (t : Team) (k : Nat) (g : Group → Group) : (t.mapGroup k g).badScratch = t.badScratch := rfl
@[simp] theorem Team.mapGroup_badTiles (t : Team) (k : Nat) (g : Group → Group) : (t.mapGroup k g).badTiles = t.badTiles := rfl
@[simp] theorem Team.mapGroup_placedAt (t : Team) (k : Nat) (g : Group → Group) : (t.mapGroup k g).placedAt = t.placedAt := rfl

/-! ### Team.mapBundle -/

@[simp] theorem Team.mapBundle_decl (t : Team) (k : Nat) (g : Bundle → Bundle) : (t.mapBundle k g).decl = t.decl := rfl
@[simp] theorem Team.mapBundle_vi (t : Team) (k : Nat) (g : Bundle → Bundle) : (t.mapBundle k g).vi = t.vi := rfl
@[simp] theorem Team.mapBundle_ctx (t : Team) (k : Nat) (g : Bundle → Bundle) : (t.mapBundle k g).ctx = t.ctx := rfl
@[simp] theorem Team.mapBundle_launch (t : Team) (k : Nat) (g : Bundle → Bundle) : (t.mapBundle k g).launch = t.launch := rfl
@[simp] theorem Team.mapBundle_prio (t : Team) (k : Nat) (g : Bundle → Bundle) : (t.mapBundle k g).prio = t.prio := rfl
@[simp] theorem Team.mapBundle_core (t : Team) (k : Nat) (g : Bundle → Bundle) : (t.mapBundle k g).core = t.core := rfl
@[simp] theorem Team.mapBundle_pos (t : Team) (k : Nat) (g : Bundle → Bundle) : (t.mapBundle k g).pos = t.pos := rfl
@[simp] theorem Team.mapBundle_teamX (t : Team) (k : Nat) (g : Bundle → Bundle) : (t.mapBundle k g).teamX = t.teamX := rfl
@[simp] theorem Team.mapBundle_teamY (t : Team) (k : Nat) (g : Bundle → Bundle) : (t.mapBundle k g).teamY = t.teamY := rfl
@[simp] theorem Team.mapBundle_teamZ (t : Team) (k : Nat) (g : Bundle → Bundle) : (t.mapBundle k g).teamZ = t.teamZ := rfl
@[simp] theorem Team.mapBundle_gridX (t : Team) (k : Nat) (g : Bundle → Bundle) : (t.mapBundle k g).gridX = t.gridX := rfl
@[simp] theorem Team.mapBundle_gridY (t : Team) (k : Nat) (g : Bundle → Bundle) : (t.mapBundle k g).gridY = t.gridY := rfl
@[simp] theorem Team.mapBundle_gridZ (t : Team) (k : Nat) (g : Bundle → Bundle) : (t.mapBundle k g).gridZ = t.gridZ := rfl
@[simp] theorem Team.mapBundle_args (t : Team) (k : Nat) (g : Bundle → Bundle) : (t.mapBundle k g).args = t.args := rfl
@[simp] theorem Team.mapBundle_scratchKB (t : Team) (k : Nat) (g : Bundle → Bundle) : (t.mapBundle k g).scratchKB = t.scratchKB := rfl
@[simp] theorem Team.mapBundle_scratch (t : Team) (k : Nat) (g : Bundle → Bundle) : (t.mapBundle k g).scratch = t.scratch := rfl
@[simp] theorem Team.mapBundle_tiles (t : Team) (k : Nat) (g : Bundle → Bundle) : (t.mapBundle k g).tiles = t.tiles := rfl
@[simp] theorem Team.mapBundle_tileTags (t : Team) (k : Nat) (g : Bundle → Bundle) : (t.mapBundle k g).tileTags = t.tileTags := rfl
@[simp] theorem Team.mapBundle_threads (t : Team) (k : Nat) (g : Bundle → Bundle) : (t.mapBundle k g).threads = t.threads := rfl
@[simp] theorem Team.mapBundle_groups (t : Team) (k : Nat) (g : Bundle → Bundle) : (t.mapBundle k g).groups = t.groups := rfl
@[simp] theorem Team.mapBundle_pipes (t : Team) (k : Nat) (g : Bundle → Bundle) : (t.mapBundle k g).pipes = t.pipes := rfl
@[simp] theorem Team.mapBundle_notices (t : Team) (k : Nat) (g : Bundle → Bundle) : (t.mapBundle k g).notices = t.notices := rfl
@[simp] theorem Team.mapBundle_replies (t : Team) (k : Nat) (g : Bundle → Bundle) : (t.mapBundle k g).replies = t.replies := rfl
@[simp] theorem Team.mapBundle_pipeUsed (t : Team) (k : Nat) (g : Bundle → Bundle) : (t.mapBundle k g).pipeUsed = t.pipeUsed := rfl
@[simp] theorem Team.mapBundle_ranks (t : Team) (k : Nat) (g : Bundle → Bundle) : (t.mapBundle k g).ranks = t.ranks := rfl
@[simp] theorem Team.mapBundle_nextRank (t : Team) (k : Nat) (g : Bundle → Bundle) : (t.mapBundle k g).nextRank = t.nextRank := rfl
@[simp] theorem Team.mapBundle_cbufs (t : Team) (k : Nat) (g : Bundle → Bundle) : (t.mapBundle k g).cbufs = t.cbufs := rfl
@[simp] theorem Team.mapBundle_yieldreq (t : Team) (k : Nat) (g : Bundle → Bundle) : (t.mapBundle k g).yieldreq = t.yieldreq := rfl
@[simp] theorem Team.mapBundle_deadline (t : Team) (k : Nat) (g : Bundle → Bundle) : (t.mapBundle k g).deadline = t.deadline := rfl
@[simp] theorem Team.mapBundle_raised (t : Team) (k : Nat) (g : Bundle → Bundle) : (t.mapBundle k g).raised = t.raised := rfl
@[simp] theorem Team.mapBundle_halt (t : Team) (k : Nat) (g : Bundle → Bundle) : (t.mapBundle k g).halt = t.halt := rfl
@[simp] theorem Team.mapBundle_held (t : Team) (k : Nat) (g : Bundle → Bundle) : (t.mapBundle k g).held = t.held := rfl
@[simp] theorem Team.mapBundle_emulated (t : Team) (k : Nat) (g : Bundle → Bundle) : (t.mapBundle k g).emulated = t.emulated := rfl
@[simp] theorem Team.mapBundle_saving (t : Team) (k : Nat) (g : Bundle → Bundle) : (t.mapBundle k g).saving = t.saving := rfl
@[simp] theorem Team.mapBundle_aborted (t : Team) (k : Nat) (g : Bundle → Bundle) : (t.mapBundle k g).aborted = t.aborted := rfl
@[simp] theorem Team.mapBundle_requested (t : Team) (k : Nat) (g : Bundle → Bundle) : (t.mapBundle k g).requested = t.requested := rfl
@[simp] theorem Team.mapBundle_withdrawing (t : Team) (k : Nat) (g : Bundle → Bundle) : (t.mapBundle k g).withdrawing = t.withdrawing := rfl
@[simp] theorem Team.mapBundle_badScratch (t : Team) (k : Nat) (g : Bundle → Bundle) : (t.mapBundle k g).badScratch = t.badScratch := rfl
@[simp] theorem Team.mapBundle_badTiles (t : Team) (k : Nat) (g : Bundle → Bundle) : (t.mapBundle k g).badTiles = t.badTiles := rfl
@[simp] theorem Team.mapBundle_placedAt (t : Team) (k : Nat) (g : Bundle → Bundle) : (t.mapBundle k g).placedAt = t.placedAt := rfl

/-! ### Thread.setV -/

@[simp] theorem Thread.setV_p (x : Thread) (n : Nat) (v : Word) (g : Bool) : (x.setV n v g).p = x.p := rfl
@[simp] theorem Thread.setV_rm (x : Thread) (n : Nat) (v : Word) (g : Bool) : (x.setV n v g).rm = x.rm := rfl
@[simp] theorem Thread.setV_fstat (x : Thread) (n : Nat) (v : Word) (g : Bool) : (x.setV n v g).fstat = x.fstat := rfl
@[simp] theorem Thread.setV_live (x : Thread) (n : Nat) (v : Word) (g : Bool) : (x.setV n v g).live = x.live := rfl
@[simp] theorem Thread.setV_monitor (x : Thread) (n : Nat) (v : Word) (g : Bool) : (x.setV n v g).monitor = x.monitor := rfl

/-! ### Thread.setP -/

@[simp] theorem Thread.setP_v (x : Thread) (n : Nat) (v : Bool) : (x.setP n v).v = x.v := rfl
@[simp] theorem Thread.setP_vt (x : Thread) (n : Nat) (v : Bool) : (x.setP n v).vt = x.vt := rfl
@[simp] theorem Thread.setP_rm (x : Thread) (n : Nat) (v : Bool) : (x.setP n v).rm = x.rm := rfl
@[simp] theorem Thread.setP_fstat (x : Thread) (n : Nat) (v : Bool) : (x.setP n v).fstat = x.fstat := rfl
@[simp] theorem Thread.setP_live (x : Thread) (n : Nat) (v : Bool) : (x.setP n v).live = x.live := rfl
@[simp] theorem Thread.setP_monitor (x : Thread) (n : Nat) (v : Bool) : (x.setP n v).monitor = x.monitor := rfl
@[simp] theorem Thread.setP_bad (x : Thread) (n : Nat) (v : Bool) : (x.setP n v).bad = x.bad.filter (· ≠ n + 1152) := rfl

/-! ### Group.setS -/

@[simp] theorem Group.setS_views (x : Group) (n : Nat) (v : Word) : (x.setS n v).views = x.views := rfl
@[simp] theorem Group.setS_flags (x : Group) (n : Nat) (v : Word) : (x.setS n v).flags = x.flags := rfl
@[simp] theorem Group.setS_counters (x : Group) (n : Nat) (v : Word) : (x.setS n v).counters = x.counters := rfl
@[simp] theorem Group.setS_trapcause (x : Group) (n : Nat) (v : Word) : (x.setS n v).trapcause = x.trapcause := rfl
@[simp] theorem Group.setS_trapidx (x : Group) (n : Nat) (v : Word) : (x.setS n v).trapidx = x.trapidx := rfl
@[simp] theorem Group.setS_skidReg (x : Group) (n : Nat) (v : Word) : (x.setS n v).skidReg = x.skidReg := rfl
@[simp] theorem Group.setS_trapaddr (x : Group) (n : Nat) (v : Word) : (x.setS n v).trapaddr = x.trapaddr := rfl
@[simp] theorem Group.setS_skid (x : Group) (n : Nat) (v : Word) : (x.setS n v).skid = x.skid := rfl

/-! ### Group.addFlag -/

@[simp] theorem Group.addFlag_s (x : Group) (n : Nat) : (x.addFlag n).s = x.s := rfl
@[simp] theorem Group.addFlag_views (x : Group) (n : Nat) : (x.addFlag n).views = x.views := rfl
@[simp] theorem Group.addFlag_counters (x : Group) (n : Nat) : (x.addFlag n).counters = x.counters := rfl
@[simp] theorem Group.addFlag_trapcause (x : Group) (n : Nat) : (x.addFlag n).trapcause = x.trapcause := rfl
@[simp] theorem Group.addFlag_trapidx (x : Group) (n : Nat) : (x.addFlag n).trapidx = x.trapidx := rfl
@[simp] theorem Group.addFlag_skidReg (x : Group) (n : Nat) : (x.addFlag n).skidReg = x.skidReg := rfl
@[simp] theorem Group.addFlag_trapaddr (x : Group) (n : Nat) : (x.addFlag n).trapaddr = x.trapaddr := rfl
@[simp] theorem Group.addFlag_skid (x : Group) (n : Nat) : (x.addFlag n).skid = x.skid := rfl
@[simp] theorem Group.addFlag_bad (x : Group) (n : Nat) : (x.addFlag n).bad = x.bad := rfl

/-! ### Group.subFlag -/

@[simp] theorem Group.subFlag_s (x : Group) (n : Nat) : (x.subFlag n).s = x.s := rfl
@[simp] theorem Group.subFlag_views (x : Group) (n : Nat) : (x.subFlag n).views = x.views := rfl
@[simp] theorem Group.subFlag_counters (x : Group) (n : Nat) : (x.subFlag n).counters = x.counters := rfl
@[simp] theorem Group.subFlag_trapcause (x : Group) (n : Nat) : (x.subFlag n).trapcause = x.trapcause := rfl
@[simp] theorem Group.subFlag_trapidx (x : Group) (n : Nat) : (x.subFlag n).trapidx = x.trapidx := rfl
@[simp] theorem Group.subFlag_skidReg (x : Group) (n : Nat) : (x.subFlag n).skidReg = x.skidReg := rfl
@[simp] theorem Group.subFlag_trapaddr (x : Group) (n : Nat) : (x.subFlag n).trapaddr = x.trapaddr := rfl
@[simp] theorem Group.subFlag_skid (x : Group) (n : Nat) : (x.subFlag n).skid = x.skid := rfl
@[simp] theorem Group.subFlag_bad (x : Group) (n : Nat) : (x.subFlag n).bad = x.bad := rfl

/-! ### Group.addCounter -/

@[simp] theorem Group.addCounter_s (x : Group) (n : Nat) : (x.addCounter n).s = x.s := rfl
@[simp] theorem Group.addCounter_views (x : Group) (n : Nat) : (x.addCounter n).views = x.views := rfl
@[simp] theorem Group.addCounter_flags (x : Group) (n : Nat) : (x.addCounter n).flags = x.flags := rfl
@[simp] theorem Group.addCounter_trapcause (x : Group) (n : Nat) : (x.addCounter n).trapcause = x.trapcause := rfl
@[simp] theorem Group.addCounter_trapidx (x : Group) (n : Nat) : (x.addCounter n).trapidx = x.trapidx := rfl
@[simp] theorem Group.addCounter_skidReg (x : Group) (n : Nat) : (x.addCounter n).skidReg = x.skidReg := rfl
@[simp] theorem Group.addCounter_trapaddr (x : Group) (n : Nat) : (x.addCounter n).trapaddr = x.trapaddr := rfl
@[simp] theorem Group.addCounter_skid (x : Group) (n : Nat) : (x.addCounter n).skid = x.skid := rfl
@[simp] theorem Group.addCounter_bad (x : Group) (n : Nat) : (x.addCounter n).bad = x.bad := rfl

/-! ### Group.subCounter -/

@[simp] theorem Group.subCounter_s (x : Group) (n : Nat) : (x.subCounter n).s = x.s := rfl
@[simp] theorem Group.subCounter_views (x : Group) (n : Nat) : (x.subCounter n).views = x.views := rfl
@[simp] theorem Group.subCounter_flags (x : Group) (n : Nat) : (x.subCounter n).flags = x.flags := rfl
@[simp] theorem Group.subCounter_trapcause (x : Group) (n : Nat) : (x.subCounter n).trapcause = x.trapcause := rfl
@[simp] theorem Group.subCounter_trapidx (x : Group) (n : Nat) : (x.subCounter n).trapidx = x.trapidx := rfl
@[simp] theorem Group.subCounter_skidReg (x : Group) (n : Nat) : (x.subCounter n).skidReg = x.skidReg := rfl
@[simp] theorem Group.subCounter_trapaddr (x : Group) (n : Nat) : (x.subCounter n).trapaddr = x.trapaddr := rfl
@[simp] theorem Group.subCounter_skid (x : Group) (n : Nat) : (x.subCounter n).skid = x.skid := rfl
@[simp] theorem Group.subCounter_bad (x : Group) (n : Nat) : (x.subCounter n).bad = x.bad := rfl

end Sys2Proof.Machine
end

