-- ==== Sys2Proof/Laws/Ops.lean ====
section
/-!
SUPPORT. What each shared operation does, said once: the issue of a word, the tables, the writing of a destination,
the popping of ports, and the move past a word.
-/
namespace Sys2Proof.Machine

/-! ### The issue of a word (R179) -/

/-- Every word's meaning is the issue of its description. -/
theorem exec_eq_issue {s : State} {i : Instr} {w : WordSpec} (h : s.specOf i = some w) : exec i s = issue w s := by
  cases i <;> simp only [State.specOf, Option.some.injEq, reduceCtorEq] at h <;> subst h <;> rfl

theorem issue_run {w : WordSpec} {s : State} {c : Ctx} (hc : s.ctx w.guard = some c) (hk : c.check w = none)
    (hr : c.stalls w = false) (ha : w.access c = .pass) : issue w s = .next (w.run c) := by
  simp [issue, hc, hk, hr, ha]

theorem issue_trap {w : WordSpec} {s : State} {c : Ctx} {x : TrapInfo} (hc : s.ctx w.guard = some c)
    (hk : c.check w = some x) : issue w s = .next (raiseTrap s c.tk c.bi x) := by
  simp [issue, hc, hk]

theorem issue_stall {w : WordSpec} {s : State} {c : Ctx} (hc : s.ctx w.guard = some c) (hk : c.check w = none)
    (hr : c.stalls w = true) : issue w s = .next (c.hold .stalled) := by
  simp [issue, hc, hk, hr]

theorem issue_accessTrap {w : WordSpec} {s : State} {c : Ctx} {x : TrapInfo} (hc : s.ctx w.guard = some c)
    (hk : c.check w = none) (hr : c.stalls w = false) (ha : w.access c = .trap x) :
    issue w s = .next (raiseTrap (w.touch c) c.tk c.bi x) := by
  simp [issue, hc, hk, hr, ha]

theorem issue_park {w : WordSpec} {s : State} {c : Ctx} {k : Nat} {ths : List Nat} {a : Nat} {wr : Bool}
    (hc : s.ctx w.guard = some c) (hk : c.check w = none) (hr : c.stalls w = false)
    (ha : w.access c = .replay k ths a wr) : issue w s = .next ((c.touched w).park w k ths a wr) := by
  simp [issue, hc, hk, hr, ha]

/-- Everything the issue of a word can answer where a bundle stands at it. -/
theorem issue_cases {w : WordSpec} {s : State} {c : Ctx} (hc : s.ctx w.guard = some c) :
    (∃ x, c.check w = some x ∧ issue w s = .next (raiseTrap s c.tk c.bi x)) ∨
    (∃ x, c.check w = none ∧ c.stalls w = false ∧ w.access c = .trap x ∧
      issue w s = .next (raiseTrap (w.touch c) c.tk c.bi x)) ∨
    (c.check w = none ∧ c.stalls w = true ∧ issue w s = .next (c.hold .stalled)) ∨
    (∃ k ths a wr, c.check w = none ∧ c.stalls w = false ∧ w.access c = .replay k ths a wr ∧
      issue w s = .next ((c.touched w).park w k ths a wr)) ∨
    (c.check w = none ∧ c.stalls w = false ∧ w.access c = .pass ∧ issue w s = .next (w.run c)) := by
  rcases hk : c.check w with _ | x
  · rcases hr : c.stalls w with _ | _
    · rcases ha : w.access c with _ | x | ⟨k, ths, a, wr⟩
      · exact .inr (.inr (.inr (.inr ⟨rfl, rfl, rfl, issue_run hc hk hr ha⟩)))
      · exact .inr (.inl ⟨x, rfl, rfl, rfl, issue_accessTrap hc hk hr ha⟩)
      · exact .inr (.inr (.inr (.inl ⟨k, ths, a, wr, rfl, rfl, rfl, issue_park hc hk hr ha⟩)))
    · exact .inr (.inr (.inl ⟨rfl, rfl, issue_stall hc hk hr⟩))
  · exact .inl ⟨x, rfl, issue_trap hc hk⟩

/-- A word that issues has its effect. -/
theorem State.Issues.runs {s : State} {i : Instr} {w : WordSpec} {c : Ctx} (h : s.Issues i w c) :
    exec i s = .next (w.run c) := by
  rw [exec_eq_issue h.spec, issue_run h.ctx h.check h.ready h.access]

theorem does_of {i : Instr} {f : Ctx → State}
    (h : ∀ (s : State) (w : WordSpec) (c : Ctx), s.Issues i w c → w.run c = f c) : Does i f :=
  fun s w c hi => by rw [hi.runs, h s w c hi]

/-- A word whose description runs to a change does that change wherever it issues. -/
theorem does_run {i : Instr} {f : Ctx → State} (w : WordSpec)
    (hs : ∀ s : State, s.specOf i = some w) (hr : ∀ c : Ctx, w.run c = f c) : Does i f :=
  does_of fun s w' c h => by
    have := h.spec; rw [hs] at this; cases this; exact hr c

/-- The whole of what a context holds. -/
theorem State.ctx_spec {s : State} {gd : Guard} {c : Ctx} (h : s.ctx gd = some c) :
    c.s = s ∧ s.cur = some (c.tk, c.bi) ∧ s.team c.tk = some c.t ∧ c.t.bundle c.bi = some c.b ∧
      c.act = c.t.active c.b gd := by
  unfold State.ctx at h
  split at h
  · simp at h
  · rename_i tk bi hcur
    split at h
    · simp at h
    · rename_i t ht
      split at h
      · simp at h
      · rename_i b hb
        obtain rfl := (Option.some.injEq _ _).mp h
        exact ⟨rfl, hcur, ht, hb, rfl⟩

theorem State.decl_of_ctx {s : State} {gd : Guard} {c : Ctx} (h : s.ctx gd = some c) : s.decl = c.t.decl := by
  obtain ⟨_, hcur, ht, _, _⟩ := State.ctx_spec h
  simp [State.decl, hcur, ht]

/-- A word whose description depends on the kernel's declarations runs under its own team's. -/
theorem exec_run {i : Instr} (w : Decl → WordSpec) (hs : ∀ s : State, s.specOf i = some (w s.decl)) {s : State}
    {sp : WordSpec} {c : Ctx} (h : s.Issues i sp c) : exec i s = .next ((w c.t.decl).run c) := by
  have := h.spec; rw [hs] at this; cases this
  rw [h.runs, State.decl_of_ctx h.ctx]

theorem where_run {i : Instr} {p : Ctx → Prop} {f : Ctx → State} (w : Decl → WordSpec)
    (hs : ∀ s : State, s.specOf i = some (w s.decl)) (hr : ∀ c : Ctx, p c → (w c.t.decl).run c = f c) :
    DoesWhere i p f := fun _ _ c h hp => by rw [exec_run w hs h, hr c hp]

@[simp] theorem Ctx.pop_nil (c : Ctx) (t : Team) : c.pop t [] = t := by
  simp [Ctx.pop, portsOf, sortUp]

theorem State.issues_of_now {s : State} {i : Instr} (h : s.issuesNow i = true) : ∃ w c, s.Issues i w c := by
  unfold State.issuesNow at h
  split at h
  · simp at h
  · rename_i w hw
    split at h
    · simp at h
    · rename_i c hc
      simp only [Bool.and_eq_true, Bool.not_eq_true', Option.isNone_iff_eq_none] at h
      refine ⟨w, c, ⟨⟨hw, hc⟩, h.1.1, h.1.2, ?_⟩⟩
      have := h.2
      split at this
      · assumption
      · simp at this

/-! ### Tables -/

@[simp] theorem State.team_setTeam_self (s : State) (k : Nat) (t : Team) : (s.setTeam k t).team k = some t :=
  Sparse.find_insert_self s.teams k t

theorem State.team_setTeam_ne (s : State) {k i : Nat} (t : Team) (h : i ≠ k) : (s.setTeam k t).team i = s.team i :=
  Sparse.find_insert_ne s.teams t h

theorem State.mapTeam_eq {s : State} {k : Nat} {t : Team} (f : Team → Team) (h : s.team k = some t) :
    s.mapTeam k f = s.setTeam k (f t) := by
  simp [State.mapTeam, h]

theorem State.team_mapTeam_self {s : State} {k : Nat} {t : Team} (f : Team → Team) (h : s.team k = some t) :
    (s.mapTeam k f).team k = some (f t) := by
  rw [State.mapTeam_eq f h, State.team_setTeam_self]

theorem State.team_mapTeam_ne (s : State) {k i : Nat} (f : Team → Team) (h : i ≠ k) :
    (s.mapTeam k f).team i = s.team i := by
  unfold State.mapTeam
  split
  · exact State.team_setTeam_ne s _ h
  · rfl

/-- Changing one team changes nothing else. -/
theorem State.sameOutside_setTeam (s : State) (k : Nat) (t : Team) : s.SameOutside (s.setTeam k t) k :=
  ⟨rfl, fun _ h => State.team_setTeam_ne s t h⟩

theorem State.sameOutside_mapTeam (s : State) (k : Nat) (f : Team → Team) : s.SameOutside (s.mapTeam k f) k := by
  unfold State.mapTeam
  split
  · exact State.sameOutside_setTeam s k _
  · exact ⟨rfl, fun _ _ => rfl⟩

theorem State.SameOutside.refl (s : State) (k : Nat) : s.SameOutside s k := ⟨rfl, fun _ _ => rfl⟩

/-! ### Lists -/

@[simp] theorem length_updateAt {α : Type} (l : List α) (i : Nat) (f : α → α) :
    (updateAt l i f).length = l.length := by
  induction l generalizing i with
  | nil => rfl
  | cons x xs ih => cases i <;> simp [updateAt, ih]

theorem getElem?_updateAt {α : Type} (l : List α) (i j : Nat) (f : α → α) :
    (updateAt l i f)[j]? = if j = i then l[j]?.map f else l[j]? := by
  induction l generalizing i j with
  | nil => simp [updateAt]
  | cons x xs ih =>
    cases i with
    | zero => cases j <;> simp [updateAt]
    | succ i => cases j <;> simp [updateAt, ih]

theorem mem_upFrom {n k x : Nat} : x ∈ upFrom n k ↔ n ≤ x ∧ x < n + k := by
  induction k generalizing n with
  | zero => simp [upFrom]
  | succ k ih => simp only [upFrom, List.mem_cons, ih]; omega

theorem mem_insertUp {l : List Nat} {x y : Nat} : y ∈ insertUp l x ↔ y = x ∨ y ∈ l := by
  induction l with
  | nil => simp [insertUp]
  | cons z zs ih =>
    simp only [insertUp]
    split
    · simp
    · split
      · subst x; simp
      · simp only [List.mem_cons, ih]; tauto

theorem mem_sortUp {l : List Nat} {y : Nat} : y ∈ sortUp l ↔ y ∈ l := by
  suffices h : ∀ m : List Nat, y ∈ l.foldl insertUp m ↔ y ∈ m ∨ y ∈ l by simpa [sortUp] using h []
  induction l with
  | nil => simp
  | cons x xs ih => intro m; simp only [List.foldl_cons, ih, mem_insertUp, List.mem_cons]; tauto

/-! ### Threads, groups and bundles of a team -/

theorem Team.thread_mapThread (t : Team) (i j : Nat) (f : Thread → Thread) :
    (t.mapThread i f).thread j = if j = i ∧ i < t.threads.length then f (t.thread j) else t.thread j := by
  unfold Team.thread Team.mapThread
  simp only [List.getD_eq_getElem?_getD, getElem?_updateAt]
  split
  · subst j
    by_cases h : i < t.threads.length <;> simp [h]
  · simp_all

theorem Team.group_mapGroup (t : Team) (i j : Nat) (f : Group → Group) :
    (t.mapGroup i f).group j = if j = i ∧ i < t.groups.length then f (t.group j) else t.group j := by
  unfold Team.group Team.mapGroup
  simp only [List.getD_eq_getElem?_getD, getElem?_updateAt]
  split
  · subst j
    by_cases h : i < t.groups.length <;> simp [h]
  · simp_all

theorem Team.bundle_mapBundle (t : Team) (i j : Nat) (f : Bundle → Bundle) :
    (t.mapBundle i f).bundle j = if j = i then (t.bundle j).map f else t.bundle j := by
  unfold Team.bundle Team.mapBundle
  simp only [getElem?_updateAt]

@[simp] theorem Team.thread_mapGroup (t : Team) (i j : Nat) (f : Group → Group) :
    (t.mapGroup i f).thread j = t.thread j := rfl
@[simp] theorem Team.thread_mapBundle (t : Team) (i j : Nat) (f : Bundle → Bundle) :
    (t.mapBundle i f).thread j = t.thread j := rfl
@[simp] theorem Team.group_mapThread (t : Team) (i j : Nat) (f : Thread → Thread) :
    (t.mapThread i f).group j = t.group j := rfl
@[simp] theorem Team.group_mapBundle (t : Team) (i j : Nat) (f : Bundle → Bundle) :
    (t.mapBundle i f).group j = t.group j := rfl
@[simp] theorem Team.bundle_mapThread (t : Team) (i j : Nat) (f : Thread → Thread) :
    (t.mapThread i f).bundle j = t.bundle j := rfl
@[simp] theorem Team.bundle_mapGroup (t : Team) (i j : Nat) (f : Group → Group) :
    (t.mapGroup i f).bundle j = t.bundle j := rfl

/-! ### Commands -/

/-- A command that can be performed is answered by its own rule (R323). -/
theorem State.Commands.answer {i : Instr} {c : Command} {fn : Nat} {e : BitVec 512} {s : State}
    (h : s.Commands i c fn e) : c.answer s fn e = c.run s := by
  have h1 := h.function
  have h2 := h.form
  have h3 := h.contexts
  unfold Command.answer
  rw [if_neg (by simp; exact h1), if_neg (by simp [h2]; exact fun x hx => (h3 x hx).1),
    if_neg (by simp; exact fun hf x hx => (h3 x hx).2.2 hf), if_neg (by simp; exact fun x hx => (h3 x hx).2.1)]

/-- STATUS 1 where its rule is done. -/
theorem State.Commands.done {i : Instr} {c : Command} {fn : Nat} {e : BitVec 512} {s u : State}
    (h : s.Commands i c fn e) (hr : c.run s = .done u) :
    s.perform' i fn e (c.answer s fn e) = u.completeCommand fn 1 := by
  rw [h.answer, hr, State.perform', if_neg]
  simp [h.next, h.reads, h.runs]

/-- Another STATUS, and nothing else. -/
theorem State.Commands.status {i : Instr} {c : Command} {fn : Nat} {e : BitVec 512} {s : State} {n : Nat}
    (h : s.Commands i c fn e) (hr : c.run s = .status n) :
    s.perform' i fn e (c.answer s fn e) = s.completeCommand fn n := by
  rw [h.answer, hr, State.perform', if_neg]
  simp [h.next, h.reads, h.runs]

/-! ### Taking a trap and trying a word again -/

/-- Taking a trap on a bundle of a resident team. -/
theorem raiseTrap_eq {s : State} {tk bi : Nat} {t : Team} {b : Bundle} (info : TrapInfo) (ht : s.team tk = some t)
    (hb : t.bundle bi = some b) : raiseTrap s tk bi info = raiseTrapAt s tk bi info b.widx b.stopWord := by
  simp [raiseTrap, ht, hb]

/-- A word that is issued always answers a next state where a bundle stands at it. -/
theorem issue_next {w : WordSpec} {s : State} {c : Ctx} (hc : s.ctx w.guard = some c) : ∃ u, issue w s = .next u := by
  unfold issue
  rw [hc]
  dsimp only
  split
  · exact ⟨_, rfl⟩
  · split
    · exact ⟨_, rfl⟩
    · split <;> exact ⟨_, rfl⟩

/-- Trying the word of a bundle again is its execution with that bundle as the current one. -/
theorem State.reissue_eq {s u : State} {tk bi : Nat} {w : WordSpec}
    (h : issue w { s with cur := some (tk, bi) } = .next u) : s.reissue tk bi w = { u with cur := s.cur } := by
  simp [State.reissue, h]

end Sys2Proof.Machine
end

