-- ==== Sys2Proof/Laws/Gen.lean ====
section
/-!
SUPPORT. What the integer and bit computations of the general instructions are, said once over integers and bits.
-/
namespace Sys2Proof.Machine

/-! ### Sums of bits -/

theorem foldl_add_eq {α : Type} (l : List α) (f : α → Nat) (n : Nat) :
    l.foldl (fun m x => m + f x) n = n + (l.map f).sum := by
  induction l generalizing n with
  | nil => simp
  | cons x xs ih => simp [ih, Nat.add_assoc]

theorem upFrom_succ (n k : Nat) : upFrom n (k + 1) = upFrom n k ++ [n + k] := by
  induction k generalizing n with
  | zero => simp [upFrom]
  | succ k ih =>
    rw [upFrom, ih (n + 1)]
    simp only [upFrom, List.cons_append, List.cons.injEq, true_and]
    congr 2; omega

/-- The number whose bits are a function's values. -/
def bitsNat (f : Nat → Bool) (n : Nat) : Nat := ((upFrom 0 n).map (fun i => (f i).toNat * 2 ^ i)).sum

theorem bitsNat_succ (f : Nat → Bool) (n : Nat) : bitsNat f (n + 1) = bitsNat f n + (f n).toNat * 2 ^ n := by
  simp [bitsNat, upFrom_succ]

theorem bitsNat_lt (f : Nat → Bool) (n : Nat) : bitsNat f n < 2 ^ n := by
  induction n with
  | zero => simp [bitsNat, upFrom]
  | succ n ih =>
    rw [bitsNat_succ, Nat.pow_succ]
    cases f n <;> simp <;> omega

theorem testBit_bitsNat (f : Nat → Bool) (n i : Nat) : (bitsNat f n).testBit i = (decide (i < n) && f i) := by
  induction n with
  | zero => simp [bitsNat, upFrom]
  | succ n ih =>
    rw [bitsNat_succ]
    have hlt := bitsNat_lt f n
    have : bitsNat f n + (f n).toNat * 2 ^ n = 2 ^ n * (f n).toNat + bitsNat f n := by ring
    rw [this, Nat.testBit_two_pow_mul_add _ hlt]
    split
    · rw [ih]; simp [*]; intro; omega
    · rename_i h
      by_cases e : i = n
      · subst e; cases f i <;> simp
      · have h1 : ¬ i < n + 1 := by clear this hlt; omega
        obtain ⟨k, hk⟩ : ∃ k, i - n = k + 1 := ⟨i - n - 1, by clear this hlt; omega⟩
        cases f n <;> simp [h1, hk, Nat.testBit_succ]

theorem getLsbD_ofNat_bitsNat (f : Nat → Bool) (i : Nat) (h : i < 32) :
    (BitVec.ofNat 32 (bitsNat f 32)).getLsbD i = f i := by
  rw [BitVec.getLsbD_ofNat, testBit_bitsNat]
  simp [h]

theorem bitf3_getLsbD (t a b d : Word) (i : Nat) (h : i < 32) : (bitf3 t a b d).getLsbD i =
    t.getLsbD ((a.getLsbD i).toNat + 2 * (b.getLsbD i).toNat + 4 * (d.getLsbD i).toNat) := by
  have : bitf3 t a b d = BitVec.ofNat 32 (bitsNat (fun i => t.getLsbD
      ((a.getLsbD i).toNat + 2 * (b.getLsbD i).toNat + 4 * (d.getLsbD i).toNat)) 32) := by
    simp [bitf3, bitsNat, foldl_add_eq, bitf3Bit]
  rw [this, getLsbD_ofNat_bitsNat _ _ h]

theorem brev_getLsbD (a : Word) (i : Nat) (h : i < 32) : (brev a).getLsbD i = a.getLsbD (31 - i) := by
  have : brev a = BitVec.ofNat 32 (bitsNat (fun i => a.getLsbD (31 - i)) 32) := by
    simp [brev, bitsNat, foldl_add_eq]
  rw [this, getLsbD_ofNat_bitsNat _ _ h]

theorem predWord_getLsbD (c : Ctx) (th k i : Nat) (h : i < 32) : (c.predWord th k).getLsbD i =
    (decide (k + i < c.t.decl.preds) && (c.t.thread th).pred (k + i)) := by
  have : c.predWord th k = BitVec.ofNat 32 (bitsNat (fun i =>
      (decide (k + i < c.t.decl.preds) && (c.t.thread th).pred (k + i))) 32) := by
    unfold Ctx.predWord bitsNat
    rw [foldl_add_eq, Nat.zero_add]
    refine congrArg (fun l => BitVec.ofNat 32 (List.sum l)) (List.map_congr_left fun x _ => ?_)
    cases hh : (decide (k + x < c.t.decl.preds) && (c.t.thread th).pred (k + x)) <;> simp <;> simpa using hh
  rw [this, getLsbD_ofNat_bitsNat _ _ h]

theorem sum_toNat_eq {α : Type} (l : List α) (f : α → Bool) :
    (l.map (fun i => (f i).toNat)).sum = (l.filter f).length := by
  induction l with
  | nil => rfl
  | cons x xs ih => cases h : f x <;> simp [h, ih, Nat.add_comm]

theorem popc_eq (a : Word) : popc a = BitVec.ofNat 32 (((List.range 32).filter a.getLsbD).length) := by
  have hu : upFrom 0 32 = List.range 32 := by decide
  rw [popc, foldl_add_eq, hu, Nat.zero_add, sum_toNat_eq]

theorem rot_getLsbD (r : Bool) (a b : Word) (i : Nat) (h : i < 32) : (rot r a b).getLsbD i =
    a.getLsbD ((if r then i + b.toNat % 32 else i + 32 - b.toNat % 32) % 32) := by
  have hb : b.toNat % 32 < 32 := Nat.mod_lt _ (by omega)
  unfold rot
  cases r
  · simp only [Bool.false_eq_true, if_false]
    rw [BitVec.getLsbD_rotateLeft]
    rw [Nat.mod_mod]
    rw [Bool.cond_decide]; split_ifs with hc
    · congr 1; omega
    · simp [h]; congr 1; omega
  · simp only [if_true]
    rw [BitVec.getLsbD_rotateRight]
    rw [Nat.mod_mod]
    rw [Bool.cond_decide]; split_ifs with hc
    · congr 1; omega
    · simp [h]; congr 1; omega

theorem clzFrom_spec (a : Word) (n : Nat) (hn : n ≤ 32) (h : a.toNat < 2 ^ n) (h0 : a ≠ 0) :
    clzFrom a n = n - 1 - Nat.log2 a.toNat := by
  induction n with
  | zero =>
    exact absurd (BitVec.eq_of_toNat_eq (by simp at h ⊢; exact h)) h0
  | succ n ih =>
    have hne : a.toNat ≠ 0 := fun e => h0 (BitVec.eq_of_toNat_eq (by simpa using e))
    simp only [clzFrom]
    by_cases hb : a.getLsbD n = true
    · have hge : 2 ^ n ≤ a.toNat := by
        by_contra hc
        have : a.toNat.testBit n = false := Nat.testBit_lt_two_pow (by omega)
        simp [BitVec.getLsbD, this] at hb
      have : Nat.log2 a.toNat = n := (Nat.log2_eq_iff hne).mpr ⟨hge, h⟩
      simp [hb, this]
    · have hlt : a.toNat < 2 ^ n := by
        by_contra hc
        push Not at hc
        apply hb
        have := Nat.testBit_two_pow_add_eq (a.toNat - 2 ^ n) n
        rw [Nat.add_sub_cancel' hc] at this
        rw [BitVec.getLsbD, this]
        have : (a.toNat - 2 ^ n).testBit n = false := Nat.testBit_lt_two_pow (by rw [Nat.pow_succ] at h; omega)
        simp [this]
      rw [if_neg hb, ih (by omega) hlt]
      have : Nat.log2 a.toNat < n := (Nat.log2_lt hne).mpr hlt
      omega

theorem clz_eq (a : Word) : clz a = BitVec.ofInt 32 (if a = 0 then 32 else 31 - (Nat.log2 a.toNat : Int)) := by
  unfold clz
  split
  · subst a; decide
  · rename_i h
    have hne : a.toNat ≠ 0 := fun e => h (BitVec.eq_of_toNat_eq (by simpa using e))
    rw [clzFrom_spec a 32 (by omega) a.isLt h]
    have : Nat.log2 a.toNat < 32 := (Nat.log2_lt hne).mpr a.isLt
    rw [show (31 - (Nat.log2 a.toNat : Int)) = ((32 - 1 - Nat.log2 a.toNat : Nat) : Int) by omega]
    simp

/-! ### Integers -/

theorem ofInt_mul_toNat (a b : Word) : BitVec.ofInt 32 ((a.toNat : Int) * b.toNat) = a * b := by
  apply BitVec.eq_of_toNat_eq
  rw [← Int.natCast_mul, BitVec.ofInt_natCast]
  simp [BitVec.toNat_mul]

theorem ofInt_add_toNat (a b : Word) : BitVec.ofInt 32 ((a.toNat : Int) + b.toNat) = a + b := by
  apply BitVec.eq_of_toNat_eq
  rw [← Int.natCast_add, BitVec.ofInt_natCast]
  simp [BitVec.toNat_add]

theorem ofInt_sub_toNat (a b : Word) : BitVec.ofInt 32 ((a.toNat : Int) - b.toNat) = a - b := by
  apply BitVec.eq_of_toInt_eq
  rw [BitVec.toInt_sub, BitVec.toInt_ofInt, BitVec.toInt_eq_toNat_bmod, BitVec.toInt_eq_toNat_bmod]
  simp [Int.bmod_sub_bmod, Int.sub_bmod_bmod]

theorem ofInt_toNat (a : Word) : BitVec.ofInt 32 (a.toNat : Int) = a := by simp

theorem ofInt_toInt (a : Word) : BitVec.ofInt 32 a.toInt = a := by simp

end Sys2Proof.Machine
end

