-- ==== Sys2Proof/Laws/PerInstr.lean ====
section
/-!
SUPPORT. What encoding keeps, said once per word format and once per constructor: the fields of a packed word read back, the
first word of an encoding carries its row's opcode, and as many words follow it as that opcode has literals (R168 to R171,
R175, R176).
-/
namespace Sys2Proof

theorem extract_append_low {n m k l : Nat} (x : BitVec n) (y : BitVec m) (h : k + l ≤ m) :
    (x ++ y).extractLsb' k l = y.extractLsb' k l := by
  ext i hi
  simp only [BitVec.getElem_extractLsb', BitVec.getLsbD_append]
  rw [if_pos (by omega)]

theorem extract_append_high {n m k l : Nat} (x : BitVec n) (y : BitVec m) (h : m ≤ k) :
    (x ++ y).extractLsb' k l = x.extractLsb' (k - m) l := by
  ext i hi
  simp only [BitVec.getElem_extractLsb', BitVec.getLsbD_append]
  rw [if_neg (by omega), Nat.sub_add_comm h]

theorem extract_whole {n : Nat} (x : BitVec n) : x.extractLsb' 0 n = x := by simp

theorem getLsbD_bit (b : Bool) : (bit b).getLsbD 0 = b := by cases b <;> rfl

theorem RWord.opcodeOf_pack (w : RWord) (op : BitVec 8) : opcodeOf (w.pack op) = op := by
  simp only [opcodeOf, RWord.pack]
  simp (disch := omega) only [extract_append_high, Nat.reduceSub, extract_whole]

theorem rFields_pack (w : RWord) (op : BitVec 8) : rFields (w.pack op) = w := by
  simp only [rFields, RWord.pack]
  cases w
  simp (disch := omega) only [extract_append_low, extract_append_high, Nat.reduceSub, BitVec.getLsbD_append,
    Nat.reduceLT, if_true, if_false, getLsbD_bit, extract_whole]

theorem IWord.opcodeOf_pack (w : IWord) (op : BitVec 8) : opcodeOf (w.pack op) = op := by
  simp only [opcodeOf, IWord.pack]
  simp (disch := omega) only [extract_append_high, Nat.reduceSub, extract_whole]

theorem iFields_pack (w : IWord) (op : BitVec 8) : iFields (w.pack op) = w := by
  simp only [iFields, IWord.pack]
  cases w
  simp (disch := omega) only [extract_append_low, extract_append_high, Nat.reduceSub, BitVec.getLsbD_append,
    Nat.reduceLT, if_true, if_false, getLsbD_bit, extract_whole]

theorem MWord.opcodeOf_pack (w : MWord) (op : BitVec 8) : opcodeOf (w.pack op) = op := by
  simp only [opcodeOf, MWord.pack]
  simp (disch := omega) only [extract_append_high, Nat.reduceSub, extract_whole]

theorem mFields_pack (w : MWord) (op : BitVec 8) : mFields (w.pack op) = w := by
  simp only [mFields, MWord.pack]
  cases w
  simp (disch := omega) only [extract_append_low, extract_append_high, Nat.reduceSub, BitVec.getLsbD_append,
    Nat.reduceLT, if_true, if_false, getLsbD_bit, extract_whole]

namespace Laws.Words

/-- The first word of an encoding carries the row's opcode, or one that has no row; the literals follow it. -/
def Statement (i : Instr) : Prop :=
  WellFormed i → ∀ w ws, encodeWords i = w :: ws →
    (opcodeOf w = i.opcode ∨ opcodeAssigned (opcodeOf w).toNat = false) ∧ ws.length = literalCount (opcodeOf w)

theorem of_word {i : Instr} {x : BitVec 64} {xs : List (BitVec 64)} (h : encodeWords i = x :: xs)
    (ho : opcodeOf x = i.opcode) (hl : xs.length = literalCount i.opcode) : Statement i := by
  intro _ w ws hw
  obtain ⟨rfl, rfl⟩ := List.cons_eq_cons.mp (h.symm.trans hw)
  exact ⟨.inl ho, by rw [ho, hl]⟩

theorem of_none {i : Instr} (h : encodeWords i = []) : Statement i := fun _ w ws hw => by simp [h] at hw

theorem nop (w : RWord) : Statement (.nop w) :=
  of_word rfl (w.opcodeOf_pack _) rfl
theorem mov (w : RWord) : Statement (.mov w) :=
  of_word rfl (w.opcodeOf_pack _) rfl
theorem movi (w : IWord) : Statement (.movi w) :=
  of_word rfl (w.opcodeOf_pack _) rfl
theorem movw (w : RWord) (lit : BitVec 64) : Statement (.movw w lit) :=
  of_word rfl (w.opcodeOf_pack _) rfl
theorem movs (w : RWord) : Statement (.movs w) :=
  of_word rfl (w.opcodeOf_pack _) rfl
theorem movx (w : RWord) : Statement (.movx w) :=
  of_word rfl (w.opcodeOf_pack _) rfl
theorem movxs (w : RWord) : Statement (.movxs w) :=
  of_word rfl (w.opcodeOf_pack _) rfl
theorem ubcast (w : RWord) : Statement (.ubcast w) :=
  of_word rfl (w.opcodeOf_pack _) rfl
theorem lanex (w : RWord) : Statement (.lanex w) :=
  of_word rfl (w.opcodeOf_pack _) rfl
theorem sel (w : RWord) : Statement (.sel w) :=
  of_word rfl (w.opcodeOf_pack _) rfl
theorem bysel (w : RWord) : Statement (.bysel w) :=
  of_word rfl (w.opcodeOf_pack _) rfl
theorem iadd (w : RWord) : Statement (.iadd w) :=
  of_word rfl (w.opcodeOf_pack _) rfl
theorem isub (w : RWord) : Statement (.isub w) :=
  of_word rfl (w.opcodeOf_pack _) rfl
theorem imul (w : RWord) : Statement (.imul w) :=
  of_word rfl (w.opcodeOf_pack _) rfl
theorem imulh (w : RWord) : Statement (.imulh w) :=
  of_word rfl (w.opcodeOf_pack _) rfl
theorem imad (w : RWord) : Statement (.imad w) :=
  of_word rfl (w.opcodeOf_pack _) rfl
theorem idiv (w : RWord) : Statement (.idiv w) :=
  of_word rfl (w.opcodeOf_pack _) rfl
theorem irem (w : RWord) : Statement (.irem w) :=
  of_word rfl (w.opcodeOf_pack _) rfl
theorem imin (w : RWord) : Statement (.imin w) :=
  of_word rfl (w.opcodeOf_pack _) rfl
theorem imax (w : RWord) : Statement (.imax w) :=
  of_word rfl (w.opcodeOf_pack _) rfl
theorem iabs (w : RWord) : Statement (.iabs w) :=
  of_word rfl (w.opcodeOf_pack _) rfl
theorem ineg (w : RWord) : Statement (.ineg w) :=
  of_word rfl (w.opcodeOf_pack _) rfl
theorem lea (w : RWord) : Statement (.lea w) :=
  of_word rfl (w.opcodeOf_pack _) rfl
theorem iaddc (w : RWord) : Statement (.iaddc w) :=
  of_word rfl (w.opcodeOf_pack _) rfl
theorem and (w : RWord) : Statement (.and w) :=
  of_word rfl (w.opcodeOf_pack _) rfl
theorem or (w : RWord) : Statement (.or w) :=
  of_word rfl (w.opcodeOf_pack _) rfl
theorem xor (w : RWord) : Statement (.xor w) :=
  of_word rfl (w.opcodeOf_pack _) rfl
theorem andn (w : RWord) : Statement (.andn w) :=
  of_word rfl (w.opcodeOf_pack _) rfl
theorem bitf3 (w : RWord) : Statement (.bitf3 w) :=
  of_word rfl (w.opcodeOf_pack _) rfl
theorem shl (w : RWord) : Statement (.shl w) :=
  of_word rfl (w.opcodeOf_pack _) rfl
theorem shr (w : RWord) : Statement (.shr w) :=
  of_word rfl (w.opcodeOf_pack _) rfl
theorem rot (w : RWord) : Statement (.rot w) :=
  of_word rfl (w.opcodeOf_pack _) rfl
theorem bfx (w : RWord) : Statement (.bfx w) :=
  of_word rfl (w.opcodeOf_pack _) rfl
theorem bfi (w : RWord) : Statement (.bfi w) :=
  of_word rfl (w.opcodeOf_pack _) rfl
theorem popc (w : RWord) : Statement (.popc w) :=
  of_word rfl (w.opcodeOf_pack _) rfl
theorem clz (w : RWord) : Statement (.clz w) :=
  of_word rfl (w.opcodeOf_pack _) rfl
theorem brev (w : RWord) : Statement (.brev w) :=
  of_word rfl (w.opcodeOf_pack _) rfl
theorem icmp (w : RWord) : Statement (.icmp w) :=
  of_word rfl (w.opcodeOf_pack _) rfl
theorem plop (w : RWord) : Statement (.plop w) :=
  of_word rfl (w.opcodeOf_pack _) rfl
theorem pmov (w : RWord) : Statement (.pmov w) :=
  of_word rfl (w.opcodeOf_pack _) rfl
theorem pvote (w : RWord) : Statement (.pvote w) :=
  of_word rfl (w.opcodeOf_pack _) rfl
theorem elect (w : RWord) : Statement (.elect w) :=
  of_word rfl (w.opcodeOf_pack _) rfl
theorem bra (w : IWord) : Statement (.bra w) :=
  of_word rfl (w.opcodeOf_pack _) rfl
theorem brx (w : RWord) : Statement (.brx w) :=
  of_word rfl (w.opcodeOf_pack _) rfl
theorem jmp (w : RWord) : Statement (.jmp w) :=
  of_word rfl (w.opcodeOf_pack _) rfl
theorem call (w : IWord) : Statement (.call w) :=
  of_word rfl (w.opcodeOf_pack _) rfl
theorem ret (w : RWord) : Statement (.ret w) :=
  of_word rfl (w.opcodeOf_pack _) rfl
theorem exit (w : RWord) : Statement (.exit w) :=
  of_word rfl (w.opcodeOf_pack _) rfl
theorem regrp (w : RWord) : Statement (.regrp w) :=
  of_word rfl (w.opcodeOf_pack _) rfl
theorem fadd (w : RWord) : Statement (.fadd w) :=
  of_word rfl (w.opcodeOf_pack _) rfl
theorem fsub (w : RWord) : Statement (.fsub w) :=
  of_word rfl (w.opcodeOf_pack _) rfl
theorem fmul (w : RWord) : Statement (.fmul w) :=
  of_word rfl (w.opcodeOf_pack _) rfl
theorem ffma (w : RWord) : Statement (.ffma w) :=
  of_word rfl (w.opcodeOf_pack _) rfl
theorem fmin (w : RWord) : Statement (.fmin w) :=
  of_word rfl (w.opcodeOf_pack _) rfl
theorem fmax (w : RWord) : Statement (.fmax w) :=
  of_word rfl (w.opcodeOf_pack _) rfl
theorem fabs (w : RWord) : Statement (.fabs w) :=
  of_word rfl (w.opcodeOf_pack _) rfl
theorem fneg (w : RWord) : Statement (.fneg w) :=
  of_word rfl (w.opcodeOf_pack _) rfl
theorem fcmp (w : RWord) : Statement (.fcmp w) :=
  of_word rfl (w.opcodeOf_pack _) rfl
theorem fclass (w : RWord) : Statement (.fclass w) :=
  of_word rfl (w.opcodeOf_pack _) rfl
theorem frnd (w : RWord) : Statement (.frnd w) :=
  of_word rfl (w.opcodeOf_pack _) rfl
theorem frcp (w : RWord) : Statement (.frcp w) :=
  of_word rfl (w.opcodeOf_pack _) rfl
theorem frsq (w : RWord) : Statement (.frsq w) :=
  of_word rfl (w.opcodeOf_pack _) rfl
theorem fsqrt (w : RWord) : Statement (.fsqrt w) :=
  of_word rfl (w.opcodeOf_pack _) rfl
theorem fexp2 (w : RWord) : Statement (.fexp2 w) :=
  of_word rfl (w.opcodeOf_pack _) rfl
theorem flog2 (w : RWord) : Statement (.flog2 w) :=
  of_word rfl (w.opcodeOf_pack _) rfl
theorem fsin (w : RWord) : Statement (.fsin w) :=
  of_word rfl (w.opcodeOf_pack _) rfl
theorem fcos (w : RWord) : Statement (.fcos w) :=
  of_word rfl (w.opcodeOf_pack _) rfl
theorem fdiv (w : RWord) : Statement (.fdiv w) :=
  of_word rfl (w.opcodeOf_pack _) rfl
theorem cvt (w : RWord) : Statement (.cvt w) :=
  of_word rfl (w.opcodeOf_pack _) rfl
theorem rqnt (w : RWord) : Statement (.rqnt w) :=
  of_word rfl (w.opcodeOf_pack _) rfl
theorem redg (w : RWord) : Statement (.redg w) :=
  of_word rfl (w.opcodeOf_pack _) rfl
theorem scang (w : RWord) : Statement (.scang w) :=
  of_word rfl (w.opcodeOf_pack _) rfl
theorem admitWord (w : RWord) : Statement (.admitWord w) :=
  of_word rfl (w.opcodeOf_pack _) rfl
theorem btag (w : RWord) : Statement (.btag w) :=
  of_word rfl (w.opcodeOf_pack _) rfl
theorem bsmax (w : RWord) : Statement (.bsmax w) :=
  of_word rfl (w.opcodeOf_pack _) rfl
theorem mma (w : RWord) : Statement (.mma w) :=
  of_word rfl (w.opcodeOf_pack _) rfl
theorem mmaz (w : RWord) : Statement (.mmaz w) :=
  of_word rfl (w.opcodeOf_pack _) rfl
theorem mlda (w : RWord) : Statement (.mlda w) :=
  of_word rfl (w.opcodeOf_pack _) rfl
theorem msta (w : RWord) : Statement (.msta w) :=
  of_word rfl (w.opcodeOf_pack _) rfl
theorem mzero (w : RWord) : Statement (.mzero w) :=
  of_word rfl (w.opcodeOf_pack _) rfl
theorem mrow (w : RWord) : Statement (.mrow w) :=
  of_word rfl (w.opcodeOf_pack _) rfl
theorem mapply (w : RWord) : Statement (.mapply w) :=
  of_word rfl (w.opcodeOf_pack _) rfl
theorem mscale (w : RWord) : Statement (.mscale w) :=
  of_word rfl (w.opcodeOf_pack _) rfl
theorem xmv (w : RWord) : Statement (.xmv w) :=
  of_word rfl (w.opcodeOf_pack _) rfl
theorem mlds (w : RWord) : Statement (.mlds w) :=
  of_word rfl (w.opcodeOf_pack _) rfl
theorem msts (w : RWord) : Statement (.msts w) :=
  of_word rfl (w.opcodeOf_pack _) rfl
theorem ld (w : MWord) : Statement (.ld w) :=
  of_word rfl (w.opcodeOf_pack _) rfl
theorem ldv (w : MWord) : Statement (.ldv w) :=
  of_word rfl (w.opcodeOf_pack _) rfl
theorem st (w : MWord) : Statement (.st w) :=
  of_word rfl (w.opcodeOf_pack _) rfl
theorem stb (w : MWord) : Statement (.stb w) :=
  of_word rfl (w.opcodeOf_pack _) rfl
theorem ldl6 (w : MWord) : Statement (.ldl6 w) :=
  of_word rfl (w.opcodeOf_pack _) rfl
theorem stl6 (w : MWord) : Statement (.stl6 w) :=
  of_word rfl (w.opcodeOf_pack _) rfl
theorem atom (w : RWord) : Statement (.atom w) :=
  of_word rfl (w.opcodeOf_pack _) rfl
theorem red (w : RWord) : Statement (.red w) :=
  of_word rfl (w.opcodeOf_pack _) rfl
theorem cas (w : RWord) : Statement (.cas w) :=
  of_word rfl (w.opcodeOf_pack _) rfl
theorem ldva (w : RWord) : Statement (.ldva w) :=
  of_word rfl (w.opcodeOf_pack _) rfl
theorem vset (w : RWord) : Statement (.vset w) :=
  of_word rfl (w.opcodeOf_pack _) rfl
theorem vpub (w : RWord) : Statement (.vpub w) :=
  of_word rfl (w.opcodeOf_pack _) rfl
theorem vinv (w : RWord) : Statement (.vinv w) :=
  of_word rfl (w.opcodeOf_pack _) rfl
theorem vstat (w : RWord) : Statement (.vstat w) :=
  of_word rfl (w.opcodeOf_pack _) rfl
theorem pref (w : RWord) : Statement (.pref w) :=
  of_word rfl (w.opcodeOf_pack _) rfl
theorem cflush (w : RWord) : Statement (.cflush w) :=
  of_word rfl (w.opcodeOf_pack _) rfl
theorem cinv (w : RWord) : Statement (.cinv w) :=
  of_word rfl (w.opcodeOf_pack _) rfl
theorem wmask (w : RWord) : Statement (.wmask w) :=
  of_word rfl (w.opcodeOf_pack _) rfl
theorem monw (w : RWord) : Statement (.monw w) :=
  of_word rfl (w.opcodeOf_pack _) rfl
theorem waitm (w : RWord) : Statement (.waitm w) :=
  of_word rfl (w.opcodeOf_pack _) rfl
theorem bar (w : RWord) : Statement (.bar w) :=
  of_word rfl (w.opcodeOf_pack _) rfl
theorem bara (w : RWord) : Statement (.bara w) :=
  of_word rfl (w.opcodeOf_pack _) rfl
theorem barw (w : RWord) : Statement (.barw w) :=
  of_word rfl (w.opcodeOf_pack _) rfl
theorem bari (w : RWord) : Statement (.bari w) :=
  of_word rfl (w.opcodeOf_pack _) rfl
theorem fence (w : RWord) : Statement (.fence w) :=
  of_word rfl (w.opcodeOf_pack _) rfl
theorem waitc (w : RWord) : Statement (.waitc w) :=
  of_word rfl (w.opcodeOf_pack _) rfl
theorem sleep (w : IWord) : Statement (.sleep w) :=
  of_word rfl (w.opcodeOf_pack _) rfl
theorem cpy (w : RWord) : Statement (.cpy w) :=
  of_word rfl (w.opcodeOf_pack _) rfl
theorem cpyc (w : RWord) : Statement (.cpyc w) :=
  of_word rfl (w.opcodeOf_pack _) rfl
theorem cbdef (w : RWord) : Statement (.cbdef w) :=
  of_word rfl (w.opcodeOf_pack _) rfl
theorem cbacq (w : RWord) : Statement (.cbacq w) :=
  of_word rfl (w.opcodeOf_pack _) rfl
theorem cbrel (w : RWord) : Statement (.cbrel w) :=
  of_word rfl (w.opcodeOf_pack _) rfl
theorem qlen (w : RWord) : Statement (.qlen w) :=
  of_word rfl (w.opcodeOf_pack _) rfl
theorem xprog (w : RWord) : Statement (.xprog w) :=
  of_word rfl (w.opcodeOf_pack _) rfl
theorem xcal (w : RWord) : Statement (.xcal w) :=
  of_word rfl (w.opcodeOf_pack _) rfl
theorem xstat (w : RWord) : Statement (.xstat w) :=
  of_word rfl (w.opcodeOf_pack _) rfl
theorem flink (w : RWord) : Statement (.flink w) :=
  of_word rfl (w.opcodeOf_pack _) rfl
theorem fcut (w : RWord) : Statement (.fcut w) :=
  of_word rfl (w.opcodeOf_pack _) rfl
theorem fswap (w : RWord) : Statement (.fswap w) :=
  of_word rfl (w.opcodeOf_pack _) rfl
theorem fstat (w : RWord) : Statement (.fstat w) :=
  of_word rfl (w.opcodeOf_pack _) rfl
theorem callx (w : RWord) : Statement (.callx w) :=
  of_word rfl (w.opcodeOf_pack _) rfl
theorem trap (w : IWord) : Statement (.trap w) :=
  of_word rfl (w.opcodeOf_pack _) rfl
theorem yield (w : RWord) (lit1 lit2 : BitVec 64) : Statement (.yield w lit1 lit2) :=
  of_word rfl (w.opcodeOf_pack _) rfl
theorem tret (w : RWord) : Statement (.tret w) :=
  of_word rfl (w.opcodeOf_pack _) rfl
theorem clauseFetch (team bundle : Nat) : Statement (.clauseFetch team bundle) := of_none rfl
theorem clauseStart (core alcove : Nat) (threads : List Nat) : Statement (.clauseStart core alcove threads) := of_none rfl
theorem countedWordCompletion (id : Nat) (threads : List Nat) : Statement (.countedWordCompletion id threads) := of_none rfl
theorem convergenceTrap (team group : Nat) : Statement (.convergenceTrap team group) := of_none rfl
theorem engineOperationRetirement (team group cls : Nat) : Statement (.engineOperationRetirement team group cls) := of_none rfl
theorem copyUnitTransfer (op lane unit : Nat) : Statement (.copyUnitTransfer op lane unit) := of_none rfl
theorem cpycSlotReserve (op lane : Nat) : Statement (.cpycSlotReserve op lane) := of_none rfl
theorem cpycSlotFilled (op lane : Nat) : Statement (.cpycSlotFilled op lane) := of_none rfl
theorem viewProjection (id lane : Nat) (deviations : List Nat) :
    Statement (.viewProjection id lane deviations) := of_none rfl
theorem recalibration (die plinth array : Nat) (within : Bool) : Statement (.recalibration die plinth array within) := of_none rfl
theorem arrayProgrammingComplete (op plinth : Nat) : Statement (.arrayProgrammingComplete op plinth) := of_none rfl
theorem arrayRetirement (die plinth array : Nat) : Statement (.arrayRetirement die plinth array) := of_none rfl
theorem vpubMarkingArrival (id plinth : Nat) : Statement (.vpubMarkingArrival id plinth) := of_none rfl
theorem viewCacheEntryDiscard (plinth line gen : Nat) : Statement (.viewCacheEntryDiscard plinth line gen) := of_none rfl
theorem chainStoreApply (die flight : Nat) : Statement (.chainStoreApply die flight) := of_none rfl
theorem tailAcknowledgement (flight store : Nat) : Statement (.tailAcknowledgement flight store) := of_none rfl
theorem dirtyLineQuery (id thread : Nat) : Statement (.dirtyLineQuery id thread) := of_none rfl
theorem joinCopy (flight : Nat) : Statement (.joinCopy flight) := of_none rfl
theorem joinCompletion (flight : Nat) : Statement (.joinCompletion flight) := of_none rfl
theorem drainCompletion (flight : Nat) : Statement (.drainCompletion flight) := of_none rfl
theorem storeCommit (store : Nat) : Statement (.storeCommit store) := of_none rfl
theorem monitorWake (team bundle : Nat) : Statement (.monitorWake team bundle) := of_none rfl
theorem waitmBoundExpiry (team bundle : Nat) : Statement (.waitmBoundExpiry team bundle) := of_none rfl
theorem barwBoundExpiry (team bundle : Nat) : Statement (.barwBoundExpiry team bundle) := of_none rfl
theorem sleepExpiry (team bundle : Nat) : Statement (.sleepExpiry team bundle) := of_none rfl
theorem copyOnWrite (team bundle : Nat) : Statement (.copyOnWrite team bundle) := of_none rfl
theorem migration (die : Nat) : Statement (.migration die) := of_none rfl
theorem faultReplay (team bundle : Nat) : Statement (.faultReplay team bundle) := of_none rfl
theorem unresolvedFault (team bundle : Nat) : Statement (.unresolvedFault team bundle) := of_none rfl
theorem pinRelease (frame : Nat) : Statement (.pinRelease frame) := of_none rfl
theorem formatEmulation (id : Nat) : Statement (.formatEmulation id) := of_none rfl
theorem groupCallService (die : Nat) : Statement (.groupCallService die) := of_none rfl
theorem trapHalt (team : Nat) : Statement (.trapHalt team) := of_none rfl
theorem asyncFaultReport (team : Nat) : Statement (.asyncFaultReport team) := of_none rfl
theorem bridgeGateReject (id thread : Nat) : Statement (.bridgeGateReject id thread) := of_none rfl
theorem trapRecordWrite (team : Nat) : Statement (.trapRecordWrite team) := of_none rfl
theorem launchQueueTailUpdate (fn prio : Nat) (tail : BitVec 32) : Statement (.launchQueueTailUpdate fn prio tail) := of_none rfl
theorem launchPacketRead (fn prio : Nat) : Statement (.launchPacketRead fn prio) := of_none rfl
theorem waitCounterMet (launch : Nat) : Statement (.waitCounterMet launch) := of_none rfl
theorem teamPlacement (launch : Nat) : Statement (.teamPlacement launch) := of_none rfl
theorem teamEnd (team : Nat) : Statement (.teamEnd team) := of_none rfl
theorem yieldRequest (team : Nat) : Statement (.yieldRequest team) := of_none rfl
theorem yieldWithdrawal (team : Nat) : Statement (.yieldWithdrawal team) := of_none rfl
theorem deadlineExpiry (team : Nat) : Statement (.deadlineExpiry team) := of_none rfl
theorem teamSave (team : Nat) : Statement (.teamSave team) := of_none rfl
theorem teamRestore (saved : Nat) : Statement (.teamRestore saved) := of_none rfl
theorem hostWindowAccess (fn : Nat) (ctx va : BitVec 64) (access : HostAccess) :
    Statement (.hostWindowAccess fn ctx va access) := of_none rfl
theorem mapnew (fn : Nat) (e : BitVec 512) : Statement (.mapnew fn e) := of_none rfl
theorem map (fn : Nat) (e : BitVec 512) : Statement (.map fn e) := of_none rfl
theorem share (fn : Nat) (e : BitVec 512) : Statement (.share fn e) := of_none rfl
theorem reserve (fn : Nat) (e : BitVec 512) : Statement (.reserve fn e) := of_none rfl
theorem unmap (fn : Nat) (e : BitVec 512) : Statement (.unmap fn e) := of_none rfl
theorem protect (fn : Nat) (e : BitVec 512) : Statement (.protect fn e) := of_none rfl
theorem mapchain (fn : Nat) (e : BitVec 512) : Statement (.mapchain fn e) := of_none rfl
theorem migrate (fn : Nat) (e : BitVec 512) : Statement (.migrate fn e) := of_none rfl
theorem resume (fn : Nat) (e : BitVec 512) : Statement (.resume fn e) := of_none rfl
theorem resumeskip (fn : Nat) (e : BitVec 512) : Statement (.resumeskip fn e) := of_none rfl
theorem abort (fn : Nat) (e : BitVec 512) : Statement (.abort fn e) := of_none rfl
theorem savefull (fn : Nat) (e : BitVec 512) : Statement (.savefull fn e) := of_none rfl
theorem setctx (fn : Nat) (e : BitVec 512) : Statement (.setctx fn e) := of_none rfl
theorem setpart (fn : Nat) (e : BitVec 512) : Statement (.setpart fn e) := of_none rfl
theorem setflight (fn : Nat) (e : BitVec 512) : Statement (.setflight fn e) := of_none rfl
theorem setvi (fn : Nat) (e : BitVec 512) : Statement (.setvi fn e) := of_none rfl
theorem qreset (fn : Nat) (e : BitVec 512) : Statement (.qreset fn e) := of_none rfl
theorem fwstage (fn : Nat) (e : BitVec 512) : Statement (.fwstage fn e) := of_none rfl
theorem fwactivate (fn : Nat) (e : BitVec 512) : Statement (.fwactivate fn e) := of_none rfl
theorem firmwareSwitchComplete (die : Nat) : Statement (.firmwareSwitchComplete die) := of_none rfl
theorem dieout (fn : Nat) (e : BitVec 512) : Statement (.dieout fn e) := of_none rfl
theorem diein (fn : Nat) (e : BitVec 512) : Statement (.diein fn e) := of_none rfl
theorem attest (fn : Nat) (e : BitVec 512) : Statement (.attest fn e) := of_none rfl
theorem lqWrite (fn prio : Nat) (value : BitVec 64) : Statement (.lqWrite fn prio value) := of_none rfl
theorem errrecWrite (fn : Nat) (value : BitVec 64) : Statement (.errrecWrite fn value) := of_none rfl
theorem registerWrite (fn offset : Nat) (value : BitVec 64) : Statement (.registerWrite fn offset value) := of_none rfl
theorem flitCrcError (link : Nat) (again : Bool) : Statement (.flitCrcError link again) := of_none rfl
theorem powerOn : Statement .powerOn := of_none rfl
theorem thermalThrottle (on : Bool) : Statement (.thermalThrottle on) := of_none rfl
theorem overtemperatureStop (die : Nat) : Statement (.overtemperatureStop die) := of_none rfl
theorem uncorrectableErrorOutsideTeam (fn part : Nat) (address : BitVec 64) : Statement (.uncorrectableErrorOutsideTeam fn part address) := of_none rfl
theorem unassignedOpcodeWord (w : BitVec 64) : Statement (.unassignedOpcodeWord w) := by
  intro h x xs hx
  obtain ⟨rfl, rfl⟩ := List.cons_eq_cons.mp ((show encodeWords (.unassignedOpcodeWord w) = [w] from rfl).symm.trans hx)
  have ha : opcodeAssigned (opcodeOf w).toNat = false := by
    have e : (opcodeOf w).toNat = fld w 63 56 := by
      simp [opcodeOf, fld, BitVec.extractLsb'_toNat, Nat.shiftRight_eq_div_pow]
    rw [e]
    simpa using (show (!opcodeAssigned (fld w 63 56)) = true from h)
  refine ⟨.inr ha, ?_⟩
  unfold literalCount
  split
  · rename_i e; rw [e] at ha; simp [opcodeAssigned] at ha
  · split
    · rename_i e; rw [e] at ha; simp [opcodeAssigned] at ha
    · rfl

theorem unassignedOpcCommand (fn : Nat) (e : BitVec 512) : Statement (.unassignedOpcCommand fn e) := of_none rfl
theorem moduleReset : Statement .moduleReset := of_none rfl

end Laws.Words
end Sys2Proof
end

