-- ==== Sys2Proof/Laws/Progress.lean ====
section
/-!
SUPPORT. What runs and fair runs give, said once: an invariant of the step holds along a run, and in a fair run work
that stays possible is done.
-/
namespace Sys2Proof.Machine

/-- What every step keeps, whatever comes next, holds along a run. -/
theorem IsRun.invariant {r : Nat → State} {turns : Nat → Turn} {P : State → Prop} (h : IsRun r turns) (h0 : P (r 0))
    (hk : ∀ s x t, P s → step (s.facing x) = .next t → P t) : ∀ n, P (r n)
  | 0 => h0
  | n + 1 => hk _ _ _ (h.invariant h0 hk n) (h n)

/-- Work that from some step on is possible until it is done is done (R34 to R36). -/
theorem FairRun.eventually {r : Nat → State} {turns : Nat → Turn} {w : Turn} (h : FairRun r turns) (n : Nat)
    (hw : ∀ m, n ≤ m → ∃ x, turnWork x = some w ∧ (r m).Acts x) :
    ∃ m, n ≤ m ∧ turnWork (turns m) = some w ∧ (r m).Acts (turns m) :=
  h.fair w (fun k => (hw (k + n) (Nat.le_add_left n k)).elim (fun x hx => ⟨k + n, x, Nat.le_add_right k n, hx⟩)) n

end Sys2Proof.Machine
end

