-- ==== Sys2Proof/Tests/Slice0.lean ====
section
/-!
SUPPORT. The model's own tests: ill-formed terms that are refused, words written out from their encodings, the worked
examples of the manual, and for every statement with hypotheses a state and operands that meet them.
-/
namespace Sys2Proof.Tests
open Sys2Proof Sys2Proof.Machine

-- one theorem after another: their kernel checks side by side would take the memory of many threads
set_option Elab.async false

/-! ### Terms -/

def r (d a b c m : Nat) : RWord :=
  ⟨BitVec.ofNat 11 d, BitVec.ofNat 11 a, BitVec.ofNat 11 b, BitVec.ofNat 11 c, false, false, 0, false, BitVec.ofNat 2 m⟩

def ir (d a imm : Nat) : IWord := ⟨BitVec.ofNat 11 d, BitVec.ofNat 11 a, BitVec.ofNat 22 imm, false, false, 0, false, 0⟩

def mr (d a xf space size m : Nat) : MWord :=
  ⟨BitVec.ofNat 11 d, BitVec.ofNat 11 a, BitVec.ofNat 4 xf, BitVec.ofNat 2 space, BitVec.ofNat 3 size, false, 0, 0, false,
    false, 0, false, BitVec.ofNat 2 m⟩

/-! ### Ill-formed terms: must-zero fields, reserved field values, and each check that WellFormed makes -/

theorem test_illFormed : ([.nop (r 1 0 0 0 0), .mov (r 1 2 3 0 0), .movi (ir 1 2 0), .movw (r 1 0 0 0 2) 0, .sel (r 1 2 3 4 1),
    .iadd (r 1 2 3 4 0), .idiv (r 1 2 3 0 2), .lea (r 2 4 6 8 0), .iaddc (r 1 2 3 128 0), .icmp (r 1 2 3 10 0),
    .plop (r 1 2 3 256 0), .pvote (r 1 2 0 0 3), .elect (r 1 2 0 0 0), .bra (ir 1 0 0), .fadd (r 1 2 3 0 3),
    .fcmp (r 1 2 3 8 0), .fclass (r 1 2 0 1024 0), .frnd (r 1 2 0 5 0), .cvt (r 1 2 3 0x600 0), .bsmax (r 1 2 3 0 3),
    .mrow (r 8 3 0 0 0), .mrow (r 8 3 0 33 0), .xmv (r 16 4 1 256 0), .ld (mr 2 4 0 3 2 0), .ld (mr 2 4 1 0 2 0),
    .ld (mr 2 4 6 0 2 1), .ld (mr 2 4 2 1 2 1), .ldl6 (mr 4 8 0 0 2 0), .ldv (mr 16 4 1 2 1 0), .st (mr 2 4 0 2 0 0),
    .atom (r 2 4 6 15 0), .atom (r 2 4 6 0x20C 0), .red (r 1 4 6 0 0), .cas (r 2 4 6 1 0), .bar (r 1 0 0 0 0),
    .unassignedOpcodeWord 0, .unassignedOpcCommand 64 1, .mapnew 65 1, .mapnew 64 2, .lqWrite 0 4 0, .errrecWrite 65 0,
    .hostWindowAccess 65 0 0 (.read 1)] : List Instr).all (fun i => !i.wf) = true := by decide +kernel

/-! ### Words written out from their encodings (R163, R168 to R171, R174) -/

def reads (ws : List (BitVec 64)) (i : Instr) : Bool := decode (ws.flatMap wordBytes) = .ok (i, [])

theorem test_decode_ld : reads [0x8001_8011_0400_0001] (.ld ⟨12, 4, 4, 0, 2, false, 0, 0, false, false, 0, false, 1⟩) = true := by
  decide
theorem test_decode_atom : reads [0x8801_A012_8084_0000] (.atom ⟨13, 4, 1281, 0x040, false, false, 0, false, 0⟩) = true := by
  decide
theorem test_decode_bra : reads [0x3800_0003_FFFF_AC10] (.bra ⟨0, 0, -6, true, true, 2, false, 0⟩) = true := by decide
theorem test_decode_iaddc : reads [0x1C01_0010_0300_0002] (.iaddc ⟨8, 4, 6, 0, false, false, 0, false, 2⟩) = true := by decide
theorem test_decode_cvt : reads [0x6001_2022_8113_0001] (.cvt ⟨9, 8, 1282, 0x130, false, false, 0, false, 1⟩) = true := by
  decide
theorem test_decode_redg : reads [0x6202_8030_0000_0000] (.redg ⟨20, 12, 0, 0, false, false, 0, false, 0⟩) = true := by decide
theorem test_decode_mma : reads [0x7000_6080_1403_0000] (.mma ⟨3, 32, 40, 48, false, false, 0, false, 0⟩) = true := by decide
theorem test_decode_vset : reads [0x9100_0010_0102_0000] (.vset ⟨0, 4, 2, 32, false, false, 0, false, 0⟩) = true := by decide
theorem test_decode_bara : reads [0xB100_A024_0000_3000] (.bara ⟨5, 9, 0, 3, false, false, 0, false, 0⟩) = true := by decide
theorem test_decode_iadd_guarded :
    reads [0x1000_6006_E400_0818] (.iadd ⟨3, 1, 1480, 0, true, false, 3, false, 0⟩) = true := by decide
theorem test_decode_yield : reads [0xDA00_0000_0000_0000, 0x0100_0000_0000_0005, 0x0000_0008_0000_0000]
    (.yield (r 0 0 0 0 0) 0x0100_0000_0000_0005 0x0000_0008_0000_0000) = true := by decide
theorem test_decode_unassigned : reads [0xE000_0000_0000_0000] (.unassignedOpcodeWord 0xE000_0000_0000_0000) = true := by
  decide
theorem test_decode_command : decodeCommand 64 0x0001 = .mapnew 64 0x0001 ∧
    decodeCommand 64 0x0039 = .unassignedOpcCommand 64 0x0039 := by decide +kernel

/-! ### Worked examples of the manual -/

theorem test_idiv : idiv false (-7) 2 = 0xFFFFFFFD ∧ irem false (-7) 2 = 0xFFFFFFFF ∧
    idiv true 0xFFFFFFF9 2 = 0x7FFFFFFC := by decide
theorem test_bfx : bfx true 0x00000F00 8 4 = 0xFFFFFFFF ∧ bfx false 0x00000F00 8 4 = 0xF := by decide
theorem test_bsmax : bsmax 0 0x447A0000 (-128) = 2 ∧ bsmax 2 0x42C80000 (-128) = 3 := by decide

/-! ### Words issue: a small module, and a team that stands at a word with everything it needs -/

/-- The locator of the context: the first line of partition 0's reserved frames. -/
def ctx0 : DWord := 0x7F0000000

/-- The descriptor of a digital view of eight columns of sixteen e4m3 elements. -/
def image0 : BitVec 512 :=
  BitVec.ofNat 512 (2 * 2 ^ 64 + 2 * 2 ^ 68 + 128 * 2 ^ 80 + 16 * 2 ^ 96 + 8 * 2 ^ 112 + 32 * 2 ^ 128 + 2 ^ 160)

/-- A module whose virtual interface 0 owns partitions 0, 4 and 8, with a flight over two of them and a context whose
first page is frame 0, readable and writable, with that descriptor at its start. -/
def world : State :=
  { State.reset with
    ready := true
    parts := [(0, { owned := true }), (4, { owned := true }), (8, { owned := true })]
    flights := [(0, { valid := true, steps := 0x2420 })]
    mem := [(8, 34), (10, 128), (12, 16), (14, 8), (16, 32), (20, 1),
      (34091302914, 1), (34091302915, 240), (34091302916, 7), (34091302960, 22), (34091368450, 255), (34091368451, 255),
      (34091368452, 7), (34359541760, 13), (34359607298, 253), (34359607299, 255), (34359607300, 7), (34359672834, 254),
      (34359672835, 255), (34359672836, 7)] }

/-- A team of one group, with one live thread, at some words, with view register 1 and circular buffer 1. -/
def team (ws : List DWord) : Team :=
  let t := placedTeam ws
  { t with
    ctx := ctx0
    groups := [{ views := [(1, { image := image0, fourth := 1 })], s := [(8, 1025), (9, 512)] }]
    threads := {} :: List.replicate 15 { live := false }
    cbufs := Sparse.put t.cbufs {} 1 { valid := true, nslot := 3, slotsz := 1, filled := 1, acq := 1 } }

def standing (i : Instr) : State := { world.setTeam 0 (team (encodeWords i)) with cur := some (0, 0) }

/-- The word issues, with active lanes or without. -/
def issues (active : Bool) (i : Instr) : Bool :=
  (standing i).issuesNow i && (match (standing i).specOf i with
    | some w => ((standing i).ctx w.guard).any (fun c => c.act.isEmpty != active)
    | none => false)

theorem issues_spec {active : Bool} {i : Instr} (h : issues active i = true) :
    ∃ (s : State) (w : WordSpec) (c : Ctx), s.Issues i w c ∧ (c.act ≠ [] ↔ active = true) := by
  simp only [issues, Bool.and_eq_true] at h
  obtain ⟨w, c, hc⟩ := State.issues_of_now h.1
  refine ⟨_, w, c, hc, ?_⟩
  have h2 := h.2
  rw [hc.spec] at h2
  simp only [hc.ctx, Option.any_some] at h2
  cases active <;> cases ha : c.act <;> simp_all

theorem witness_moves : ([.nop (r 0 0 0 0 0), .mov (r 1 2 0 0 0), .movi (ir 1 0 5), .movw (r 1 0 0 0 0) 7,
    .movw (r 2 0 0 0 1) 7, .movs (r 2 1112 0 0 0), .movx (r 1 2 1283 0 0), .movxs (r 1 2 1283 0 0), .ubcast (r 1 2 1283 0 0),
    .lanex (r 1 2 1283 0 1), .sel (r 1 2 3 4 0), .bysel (r 1 2 3 4 0)] : List Instr).all (issues true) = true := by
  decide +kernel
theorem witness_integers : ([.iadd (r 1 2 3 0 0), .isub (r 1 2 3 0 0), .imul (r 1 2 3 0 0), .imulh (r 1 2 3 0 1),
    .imad (r 1 2 3 4 0), .idiv (r 1 2 3 0 0), .irem (r 1 2 3 0 1), .imin (r 1 2 3 0 0), .imax (r 1 2 3 0 1),
    .iabs (r 1 2 0 0 0), .ineg (r 1 2 0 0 0), .lea (r 2 4 6 3 0), .iaddc (r 1 2 3 5 2)] : List Instr).all (issues true) = true := by
  decide +kernel
theorem witness_bits : ([.and (r 1 2 3 0 0), .or (r 1 2 3 0 0), .xor (r 1 2 3 0 0), .andn (r 1 2 3 0 0),
    .bitf3 (r 1 2 3 1280 0), .shl (r 1 2 3 0 0), .shr (r 1 2 3 0 1), .rot (r 1 2 3 0 1), .bfx (r 1 2 3 4 1),
    .bfi (r 1 2 3 4 0), .popc (r 1 2 0 0 0), .clz (r 1 2 0 0 0), .brev (r 1 2 0 0 0)] : List Instr).all (issues true) = true := by
  decide +kernel
theorem witness_predicates : ([.icmp (r 1152 2 3 0 0), .icmp (r 1 2 3 9 0), .plop (r 1152 1153 1154 8 0), .pmov (r 1 1152 0 0 0),
    .pmov (r 1152 1 0 0 1), .pvote (r 1 1153 0 0 2), .elect (r 1152 0 0 0 0), .bra (ir 0 0 4), .brx (r 0 2 4 0 0),
    .jmp (r 0 2 0 0 0), .call (ir 2 0 4), .ret (r 0 2 0 0 0), .exit (r 0 0 0 0 0), .regrp (r 0 0 0 0 0)]
    : List Instr).all (issues true) = true := by decide +kernel
theorem witness_float : ([.fadd (r 1 2 3 0 0), .fsub (r 1 2 3 0 1), .fmul (r 1 2 3 0 2), .ffma (r 1 2 3 4 0), .fmin (r 1 2 3 0 0),
    .fmax (r 1 2 3 0 0), .fabs (r 1 2 0 0 0), .fneg (r 1 2 0 0 0), .fcmp (r 1152 2 3 7 0), .fclass (r 1152 2 0 3 0),
    .frnd (r 1 2 0 4 0), .frcp (r 1 2 0 0 0), .frsq (r 1 2 0 0 0), .fsqrt (r 1 2 0 0 0), .fexp2 (r 1 2 0 0 0),
    .flog2 (r 1 2 0 0 0), .fsin (r 1 2 0 0 0), .fcos (r 1 2 0 0 0), .fdiv (r 1 2 3 0 0), .cvt (r 1 2 1280 0x10 0),
    .rqnt (r 1 2 3 0 0), .redg (r 1 2 0 0 0), .scang (r 1 2 0 0 1), .admitWord (r 1 2 0 0 0), .admitWord (r 2 4 0 0 1),
    .btag (r 1 2 0 0 0), .btag (r 1 2 0 0 1), .bsmax (r 1 2 3 0 2)] : List Instr).all (issues true) = true := by decide +kernel
theorem witness_matrix : ([.mma (r 3 32 64 1280 0), .mmaz (r 3 32 64 1280 0), .mlda (r 3 64 0 0 0), .msta (r 64 3 0 0 0),
    .mzero (r 3 0 0 0 0), .mrow (r 8 3 0 32 0), .mapply (r 3 4 8 32 0), .mscale (r 3 0 8 0 0), .mscale (r 3 0 8 0 1),
    .mlds (r 3 8 0 0 0), .msts (r 0 3 8 0 0), .xmv (r 16 4 1 0 0), .xmv (r 3 4 1 0 1)] : List Instr).all (issues true) = true := by
  decide +kernel
theorem witness_memory : ([.ld (mr 2 4 0 0 2 0), .ld (mr 2 4 0 1 2 1), .ldl6 (mr 4 8 0 1 4 0), .st (mr 2 4 0 0 2 0),
    .stb (mr 2 4 0 1 2 0), .stl6 (mr 4 8 0 1 4 0), .atom (r 2 4 6 0 0), .red (r 0 4 6 0x400 0), .cas (r 2 4 6 0x400 0)]
    : List Instr).all (issues true) = true := by decide +kernel
theorem witness_views : ([.ldv (mr 16 4 1 2 0 0), .ldva (r 16 4 1 6 0), .vset (r 0 4 1 0 0), .vpub (r 2 0 1 0 0),
    .vinv (r 0 0 1 0 0), .vinv (r 0 0 1 0 1), .vstat (r 2 0 1 0 0), .vstat (r 2 0 1 0 1), .pref (r 0 4 0 4 0),
    .cflush (r 0 4 0 0 0), .cinv (r 0 4 0 0 0), .cinv (r 0 0 0 0 1), .wmask (r 2 777 0 0 0), .monw (r 2 4 0 0 0),
    .waitm (r 2 1283 0 0 0)] : List Instr).all (issues true) = true := by decide +kernel
theorem witness_sync : ([.bar (r 0 0 0 0 0), .bara (r 2 4 0 1 0), .barw (r 1152 4 6 1281 0), .bari (r 0 4 1281 0 0),
    .fence (r 0 0 0 0x1A0 0), .waitc (r 0 0 2 0 0), .sleep (ir 0 0 4), .sleep (ir 0 0 0), .cpy (r 0 4 6 1296 3),
    .cpyc (r 0 4 1 1408 1), .cbdef (r 0 1280 2 776 0), .cbacq (r 2 0 1 0 0), .cbrel (r 0 0 1 0 0), .qlen (r 2 0 1 0 0),
    .qlen (r 2 0 1 0 1), .xprog (r 0 0 1 0 0), .xcal (r 0 0 1 0 0), .xstat (r 2 0 1 0 0), .xstat (r 2 4 0 0 1),
    .flink (r 0 4 1288 0 0), .fcut (r 0 4 1284 0 0), .fswap (r 0 4 1284 1288 0), .fstat (r 2 4 0 0 0), .callx (r 2 4 6 0 0),
    .yield (r 0 0 0 0 0) 0x0100000000000000 0] : List Instr).all (issues true) = true := by decide +kernel

/-- What the completion of an engine word asks, beside its own conditions. -/
def formed (i : Instr) (own : Ctx → WordSpec → Bool) : Bool :=
  match (standing i).specOf i with
  | some sp => ((standing i).ctx sp.guard).any (fun c =>
      c.classOk i.opcode.toNat && formOk i && (c.shapeTrap sp.fields).isNone && sp.guard.ok c.t.decl &&
      c.portsReady sp.srcs sp.dst && !c.viewPending sp.fields && !c.act.isEmpty && own c sp)
  | none => false
/-- The captured view is valid and has an element. -/
def viewed (n : Nat) (c : Ctx) : Bool :=
  c.act.all (fun th => (c.view th n).valid && decide (0 < vOutlen (c.view th n).image)) &&
  c.groups.all (fun g => (c.t.group g).counter 2 < 1023)
/-- A re-link's rights and conditions. -/
def linked (k : Nat) (w : RWord) (c : Ctx) : Bool :=
  tbit (c.s.ctxPolicy c.t.ctx) 4 && c.act.all (fun th => !c.tg th w.a && !c.tg th w.b && !c.tg th w.c) &&
  (match c.relinkAll k w with
   | .ok _ => true
   | .error _ => false) && c.groups.all (fun g => (c.t.group g).counter 3 < 1023)
theorem witness_engineWords :
    formed (.xprog (r 0 0 1 0 0)) (fun c _ => viewed 1 c) = true ∧
    formed (.xcal (r 0 0 1 0 0)) (fun c _ => viewed 1 c) = true ∧
    formed (.xstat (r 2 0 1 0 0)) (fun c _ => viewed 1 c) = true ∧
    formed (.xstat (r 2 4 0 0 1)) (fun c _ => c.act.all (fun th => !c.tg th 4 && (c.x th 4).toNat < 512)) = true ∧
    formed (.flink (r 0 4 1288 0 0)) (fun c _ => linked 0 (r 0 4 1288 0 0) c) = true ∧
    formed (.fcut (r 0 4 1284 0 0)) (fun c _ => linked 1 (r 0 4 1284 0 0) c) = true ∧
    formed (.fswap (r 0 4 1284 1288 0)) (fun c _ => linked 2 (r 0 4 1284 1288 0) c) = true ∧
    formed (.fstat (r 2 4 0 0 0)) (fun c _ => c.act.all (fun th => !c.tg th 4) && c.groups.all (fun g =>
      let a := (c.x (c.leader g) 4).toNat
      decide (a < 64) && (c.s.flight a).valid && (c.s.flight a).owner = c.t.vi)) = true ∧
    formed (.callx (r 2 4 6 0 0)) (fun c _ => c.act.all (fun th => !c.tg th 4 && !c.tg th 6) &&
      (c.s.strandedOf c.tk (c.t.threadsOfAll c.groups)).isNone && !c.flagFull (c.flag false) &&
      c.s.dies.isEmpty && c.groups.length ≤ 256 &&
      (c.s.release c.tk (c.t.threadsOfAll c.groups) 3).released c.t c.tk (c.t.threadsOfAll c.groups)) = true := by
  decide +kernel
/-- A tile that an emulated word, or an XMV.t in flight, still owes a write. -/
theorem witness_tileOwed :
    let s := standing (.msta (r 64 3 0 0 0))
    (match s.specOf (.msta (r 64 3 0 0 0)) with
     | some sp => (s.ctx sp.guard).any (fun c => (c.check sp).isNone && !c.act.isEmpty)
     | none => false) = true ∧
    (let u := s.mapTeam 0 (fun t => { t with emulated := [⟨4, 3, true, 0x28, [], [], false⟩] })
     ((u.team 0).any (fun t => t.emulated.any (fun e => e.tile = (3 : BitVec 11).toNat))) = true) := by decide +kernel
/-- A word that reads a register with an uncorrectable error. -/
theorem witness_spoilt :
    let i : Instr := .mov (r 1 2 0 0 0)
    let s := (standing i).mapTeam 0 (fun t => t.mapThread 0 (fun x => { x with bad := [2] }))
    s.issuesNow i = true ∧ (s.reportSpoilt i ≠ s) := by decide +kernel

/-- The same words with a guard that no lane passes. -/
def guarded (w : RWord) : RWord := { w with g := true }
def guardedM (w : MWord) : MWord := { w with g := true }
def guardedI (w : IWord) : IWord := { w with g := true }

theorem witness_withoutLanes : ([.mma (guarded (r 3 32 64 1280 0)), .mmaz (guarded (r 3 32 64 1280 0)),
    .mlda (guarded (r 3 64 0 0 0)), .msta (guarded (r 64 3 0 0 0)), .mzero (guarded (r 3 0 0 0 0)),
    .mrow (guarded (r 8 3 0 32 0)), .mapply (guarded (r 3 4 8 32 0)), .mscale (guarded (r 3 0 8 0 0)),
    .xmv (guarded (r 16 4 1 0 0)), .mlds (guarded (r 3 8 0 0 0)), .msts (guarded (r 0 3 8 0 0)),
    .ld (guardedM (mr 2 4 0 0 2 0)), .ldl6 (guardedM (mr 4 8 0 0 4 0)), .ldv (guardedM (mr 16 4 1 2 0 0)),
    .st (guardedM (mr 2 4 0 0 2 0)), .stb (guardedM (mr 2 4 0 0 2 0)), .stl6 (guardedM (mr 4 8 0 0 4 0)),
    .atom (guarded (r 2 4 6 0 0)), .red (guarded (r 0 4 6 0 0)), .cas (guarded (r 2 4 6 0 0)), .ldva (guarded (r 16 4 1 6 0)),
    .vpub (guarded (r 2 0 1 0 0)), .vinv (guarded (r 0 0 1 0 0)), .pref (guarded (r 0 4 0 4 0)), .cflush (guarded (r 0 4 0 0 0)),
    .cinv (guarded (r 0 4 0 0 0)), .wmask (guarded (r 2 4 0 0 0)), .monw (guarded (r 2 4 0 0 0)), .waitm (guarded (r 2 1283 0 0 0)),
    .bara (guarded (r 2 4 0 1 0)), .barw (guarded (r 1152 4 6 1281 0)), .bari (guarded (r 0 4 1281 0 0)),
    .fence (guarded (r 0 0 0 0x1A0 0)), .waitc (guarded (r 0 0 2 0 0)), .sleep (guardedI (ir 0 0 4)), .cpy (guarded (r 0 4 6 1296 3)),
    .cpyc (guarded (r 0 4 1 1408 1)), .cbdef (guarded (r 0 1280 2 776 0)), .cbacq (guarded (r 2 0 1 0 0)),
    .cbrel (guarded (r 0 0 1 0 0)), .xprog (guarded (r 0 0 1 0 0)), .xcal (guarded (r 0 0 1 0 0)), .fstat (guarded (r 2 4 0 0 0)),
    .callx (guarded (r 2 4 6 0 0)), .trap (guardedI (ir 0 0 0)), .yield (guarded (r 0 0 0 0 0)) 0x0100000000000000 0]
    : List Instr).all (issues false) = true := by decide +kernel

/-! ### Inputs of the statements about values -/

theorem witness_fp32 : Fmt.fp32.decode 0x3F800000 = .fin false (2 ^ 23) (-23) ∧ Fmt.fp32.decode 0 = .fin false 0 (-149) ∧
    Fmt.fp32.decode 0x80000000 = .fin true 0 (-149) ∧ Fmt.fp32.decode 0xFF800000 = .inf true ∧
    Fmt.fp32.decode 0x7F800000 = .inf false ∧ Fmt.fp32.decode 0x7F800001 = .nan true ∧
    Fmt.fp32.decode 0x7FC00000 = .nan false ∧ Fmt.fp32.decode 0xBF800000 = .fin true (2 ^ 23) (-23) := by decide +kernel
theorem witness_conversions : (5 : Nat) ≤ 8 ∧ (1 : Nat) < max 32 16 / min 32 16 ∧ ratOf false 1 0 ≠ 0 ∧ (2 : Nat) < 3 ∧
    (0x1306FE0 : ℚ) / 2 ^ 29 ≤ (1 : ℚ) * 2 ^ ((0 : Int) - 0) ∧ ((1 : ℚ) * 2 ^ ((-9 : Int) - 0) < 0x1306FE0 / 2 ^ 29) := by
  refine ⟨?_, ?_, ?_, ?_, ?_, ?_⟩ <;> norm_num [ratOf, zpow_neg]
theorem witness_rounding : Fmt.bf16 ∈ [Fmt.fp32, Fmt.fp16, Fmt.bf16, Fmt.e5m2] ∧ (5 : Nat) ≠ 0 := by decide
/-- 1, 2^-23 and 128 as they are decoded: the sums, products and quotients with them, and the integers of FEXP2 and FLOG2. -/
theorem witness_rationals : ratOf false (2 ^ 23) (-23) = 1 ∧ ratOf true (2 ^ 23) (-23) = -1 ∧ ratOf false 0 (-149) = 0 ∧
    (128 : ℚ) ≤ ratOf false (2 ^ 23) (-16) := by
  refine ⟨?_, ?_, ?_, ?_⟩ <;> norm_num [ratOf, zpow_neg]
theorem witness_decode128 : Fmt.fp32.decode 0x43000000 = .fin false (2 ^ 23) (-16) := by decide +kernel

/-- Format words: INT32 sums of s8 elements, and FP32 sums of e4m3 elements that are all +0. -/
theorem witness_matrixElements : fwAcc 0x0155 = 1 ∧ fwAcc 0x2000022 = 0 ∧ (List.range 32).all (fun k =>
    match matProduct (fwA 0x2000022) (fwB 0x2000022) (fragElem (List.replicate 1024 0) 2 0 k)
      (fragElem (List.replicate 1024 0) 2 0 k) with
    | some (.fin ..) => true
    | _ => false) = true := by decide +kernel
theorem witness_nativeFormats : fwNative 0x0155 = true ∧ fwNative 0x2000028 = false := by decide
theorem witness_atomicStep : ({ scratch := false, bytes := [4, 5, 6, 7] } : Place).bytes.Nodup := by decide
theorem witness_store : ({ scratch := false, bytes := [4, 5] } : Place).bytes.Nodup ∧ ([0x11, 0x22] : List Byte).length = 2 ∧
    { world with poison := [0] }.poisoned [4, 5] = true ∧ world.poisoned [4, 5] = false ∧
    (∃ a, lineOf a = lineOf (([4, 5] : List Nat).headD 0) ∧ a ∉ [4, 5]) := by
  refine ⟨by decide, by decide, by decide, by decide, 0, by decide, by decide⟩
/-- An object that expects two arrivals takes one, completes with the second, and refuses three. -/
theorem witness_arrivals : (arrive 2 1 0 0).2 = some 0 ∧ (arrive 2 2 0 0).2 = some 16 ∧ (arrive 2 3 0 0).2 = none := by decide
/-- FLINK of a step on die 2 and FCUT of the step on die 1 are allowed; a step value without an owned quadrant is not. -/
theorem witness_relinks : (world.linkStep 0 0 8).isSome = true ∧ (world.cutStep 0 0 4).isSome = true ∧
    (world.linkStep 0 0 12).isSome = false := by decide +kernel
/-- The view is digital; with MODE 1 its plinth is placed here and not resident. -/
theorem witness_programming : vMode image0 = 0 ∧ vMode (image0 + 2 ^ 73) ≠ 0 ∧
    (upFrom 0 8).filter (world.placed (image0 + 2 ^ 73) 0) = [0] ∧
    (upFrom 8 8).filter (world.placed (image0 + 2 ^ 73) 0) = [] := by decide +kernel

/-! ### Words that trap by their own effect, and the return -/

theorem witness_trap : ((standing (.trap (ir 0 0 7))).ctx ⟨false, false, 0⟩).any (fun c =>
    !c.act.isEmpty && c.classOk 0xD9 && (ir 0 0 7).guard.ok c.t.decl) = true := by decide +kernel
theorem witness_unassigned : opcodeAssigned (fld (0xE000000000000000 : BitVec 64) 63 56) = false ∧
    ((standing (.unassignedOpcodeWord 0xE000000000000000)).ctx ⟨false, false, 0⟩).isSome = true := by decide +kernel

/-- A team whose handler stands at TRET after a software trap of its other bundle. -/
def inHandler (m : Nat) : State :=
  let t := team (encodeWords (.tret (r 0 0 0 0 m)))
  let b := t.bundles.headD { members := [], pc := 0 }
  let x : Trap := ⟨0, some 0, 0, 0, 0xD900000000000000, { cause := 0x20 }⟩
  { world.setTeam 0 { t with
      bundles := [{ b with handler := true }], halt := some { trap := x, phase := .handler, stop := some b } } with
    cur := some (0, 0) }
theorem witness_tret : (inHandler 0).issuesNow (.tret (r 0 0 0 0 0)) = true ∧
    (inHandler 1).issuesNow (.tret (r 0 0 0 0 1)) = true := by decide +kernel
/-- A YIELD with a pending request waits at its word. -/
theorem witness_yieldRequested : let s := standing (.yield (r 0 0 0 0 0) 0x0100000000000000 0)
    (s.mapTeam 0 (fun t => { t with yieldreq := true })).issuesNow (.yield (r 0 0 0 0 0) 0x0100000000000000 0) = true := by
  decide +kernel

/-! ### The checks of a word in their order: a trap, a wait, a trap of the access, and an access that waits -/

theorem witness_checks :
    let at_ (i : Instr) : Option (Ctx × WordSpec) := match (standing i).specOf i with
      | some w => ((standing i).ctx w.guard).map (fun c => (c, w))
      | none => none
    (at_ (.iadd (r 1 2 3 4 0))).any (fun x => (x.1.check x.2).isSome) = true ∧
    (at_ (.mov (r 1 1024 0 0 0))).any (fun x => (x.1.check x.2).isNone && x.1.stalls x.2) = true ∧
    (at_ (.ld (mr 2 1284 0 1 3 0))).any (fun x => (x.1.check x.2).isNone && !x.1.stalls x.2 && (match x.2.access x.1 with
      | .trap _ => true
      | _ => false)) = true := by decide +kernel
theorem witness_operands : ((standing (.mov (r 1 2 0 0 0))).ctx ⟨false, false, 0⟩).any (fun c =>
    c.b.frozen.isEmpty && !c.act.isEmpty && c.act.all (fun th => th < c.t.threads.length) &&
    c.groups.all (fun g => g < c.t.groups.length)) = true := by decide +kernel

/-! ### Steps -/

theorem witness_step : (State.reset.withFetchWord 64 0x1000_6006_E400_0018).nextTurn = .issue 0 0 ∧
    ((State.reset.withFetchWord 64 0x1000_6006_E400_0018).team 0).any (fun t => (t.bundle 0).any (fun b =>
      (State.reset.withFetchWord 64 0x1000_6006_E400_0018).mayIssue 0 0 t b)) = true ∧
    isEvent .powerOn = true := by decide +kernel
theorem test_step_iadd : (match step (State.reset.withFetchWord 64 0x1000_6006_E400_0018) with
    | .next s => (s.team 0).map (fun t => t.vreg 0 3)
    | _ => none) = some (200, false) := by decide +kernel
theorem witness_canonical : State.reset.Canonical ∧
    (match step { State.reset with sched := [.event (.thermalThrottle true)] } with
     | .next _ => true
     | _ => false) = true := by
  refine ⟨by unfold State.Canonical; decide +kernel, by decide +kernel⟩

/-! ### Events: for each a small state that it acts on -/

/-- That module with a team of some bundles, not cooperative, changed as asked. -/
def withTeam (bs : List Bundle) (f : Team → Team := id) : State :=
  world.setTeam 0 (f { team [0] with bundles := bs, decl := { wideDecl with cooperative := false } })

def there (s : State) : Team := (s.team 0).getD (team [])

def lanes16 : List Nat := upFrom 0 16
def nopClause : Clause := { header := plainHeader 0 1, words := [0] }
/-- A bundle at the header of a clause at 0x1000, and one inside it. -/
def atHeader : Bundle := { members := lanes16, pc := 0x1000 }
def inside : Bundle := { members := lanes16, pc := 0x1000, clause := some nopClause }

/-- The module with that clause in memory, and with a page of which a further context's mapping is shared. -/
def coded : State := { withTeam [atHeader] with
  mem := (withTeam [atHeader]).mem.writeLE 0x1000 8 nopClause.header.toNat }

theorem witness_clauseFetch : (there coded).runs atHeader = true ∧ atHeader.members ≠ [] ∧
    (match coded.fetch (there coded) 0 0x1000 with
     | (.clause c, _) => c = nopClause && c.convergentAt.isNone
     | _ => false) = true ∧
    (match coded.fetch (there coded) 0 0x20000 with
     | (.trap x _ _ _, _) => x = 0x10
     | _ => false) = true ∧
    (({ fetched := [⟨ctx0, 0x1000, nopClause⟩] : Core }).fetched.find? (fun f => f.ctx = ctx0 && f.pc = 0x1000)).isSome = true := by
  decide +kernel
/-- A header whose fetch a residency fault parks, one behind a closed gate, and a restored bundle that goes on at a word. -/
theorem witness_clauseWaits :
    let s := { withTeam [atHeader] with vis := [(0, ⟨0, 0, 0x7F0000100, 1⟩)] }
    let far := s.setPte 34359541760 (plainPte 3 0 2 0)
    (match far.fetch (there s) 0 0x1000 with
     | (.wait k _, _) => k = 0x12
     | _ => false) = true ∧ far.faultBuffer 0 < 64 ∧
    (match ({ s with parts := [(0, { owned := true, vi := 5 })] } : State).fetch (there s) 0 0x1000 with
     | (.rejected .., _) => true
     | _ => false) = true ∧ ({ atHeader with resume := some 0 } : Bundle).resume = some 0 ∧ 0 < nopClause.words.length := by
  decide +kernel
theorem witness_clauseStart : let s := withTeam [{ atHeader with held := some nopClause }]
    firstToStart (s.startable 0 0) = some (0, 0) ∧ s.alcoveBusy 0 0 = false ∧ nopClause.convergentAt = none ∧
    ((there s).pack 0 nopClause lanes16).any (fun u => (u.bundle 0).any u.canStart) = true ∧
    (let c : Clause := { nopClause with header := nopClause.header ||| 256 }
     let parts := [{ atHeader with members := [0, 1], held := some c }, { atHeader with members := [2, 3], held := some c }]
     ((there (withTeam parts)).pack 0 c [0, 2]).map (fun u => u.bundles.map (·.members)) = some [[0, 2], [3], [1]]) := by
  decide +kernel
/-- A clause with a convergent word: a barrier. -/
def convergent : Clause := { header := plainHeader 0 1, words := encodeWords (.bar (r 0 0 0 0 0)) }
/-- Two parts of a group parked at two headers. -/
theorem witness_convergence : convergent.convergentAt.isSome = true ∧
    let s := withTeam [{ members := [0], pc := 0x1000, parked := true, held := some convergent },
        { members := [1], pc := 0x2000, parked := true, held := some convergent }]
      (fun t => { t with threads := List.replicate 2 {} ++ List.replicate 14 { live := false } })
    let t := there s
    t.liveOf 0 = [0, 1] ∧ ((t.parkedOf 0).find? (fun x => x.2.members.contains 0)).any (fun x => x.1 = 0 && t.runs x.2) = true ∧
    (t.liveOf 0).all (fun th => (t.parkedOf 0).any (fun x => x.2.members.contains th)) = true ∧
    (t.liveOf 0).filter (fun th => !((t.parkedOf 0).any (fun x => x.2.pc = 0x1000 && x.2.members.contains th))) = [1] := by
  decide +kernel

def word0 : CWord := { id := 5, team := 0, clause := 0, widx := 0, flag := none, groups := [0] }
def lane0 : Lane := { thread := 0, place := { scratch := false, bytes := [0, 1, 2, 3] }, va := 0, regs := [2] }
def store0 : Store :=
  { id := 7, word := 5, team := 0, thread := 0, clause := 0, widx := 0, va := 16, place := { scratch := false, bytes := [16, 17] },
    data := [1, 2] }
def op0 (k : OpKind) : Op := { id := 9, team := 0, group := 0, cls := 0, clause := 0, widx := 0, kind := k }

theorem witness_completion : let s := { withTeam [inside] with words := [{ word0 with lanes := [{ lane0 with taken := some 3 }] }] }
    (s.word 5).any (fun w => w.lanes.all (fun l => l.taken.isSome) && w.projs.isEmpty && w.pipe.isNone) = true := by
  decide +kernel
/-- Lanes of loads: one register, a pair, four, and an L6 load. -/
theorem witness_loaded :
    let w : CWord := { word0 with lanes := [{ lane0 with regs := [2] }, { lane0 with thread := 1, regs := [2, 3] },
      { lane0 with thread := 2, regs := [4, 5, 6, 7] }] }
    (w.lanes.find? (fun l => l.thread = 0)).map (·.regs) = some [2] ∧ (w.lanes.find? (fun l => l.thread = 1)).map (·.regs) =
      some [2, 3] ∧ w.lanes.filter (fun l => l.thread = 0) = [lane0] ∧ lane0.off = 0 ∧ w.l6 = false ∧
    (there (withTeam [inside])).groupOf 0 < (there (withTeam [inside])).groups.length := by decide +kernel
theorem witness_retirement : let s := { withTeam [inside] with ops := [op0 (.copy [])] }
    (s.oldestOp 0 0 0).any s.opEnded = true ∧
    ({ s with ops := [op0 (.relink 0 none none)] }.oldestOp 0 0 0).any (fun o => !s.opEnded o) = true := by decide +kernel
theorem witness_commit : let s := { withTeam [inside] with stores := [store0] }
    s.mayCommit (there s) store0 = true ∧ s.blockedStore store0 = false ∧ s.untaken 0 0 7 = [] ∧
    { s with stores := [{ store0 with id := 6 }, store0] }.blockedStore store0 = true := by decide +kernel
/-- A store into a partition that the team's interface does not own is dropped at its gate. -/
theorem witness_gate : world.gateOpen 0 { scratch := false, bytes := [2 ^ 35] } = false ∧ world.gateOpen 0 lane0.place = true := by
  decide +kernel
theorem witness_dirtyLine : let p : Place := { scratch := false, bytes := [0, 1, 2, 3], chain := some (0, 0) }
    let s := { withTeam [inside] with words := [{ word0 with lanes := [{ lane0 with place := p }] }] }
    s.gateOpen 0 p = true ∧ s.takeReady (there s) 0 0 5 p = true ∧ s.untaken 0 0 5 = [] := by decide +kernel
theorem witness_emulation :
    let e : Emulated := ⟨4, 3, true, 0x28, [], [], false⟩
    let s := withTeam [inside] (fun t => { t with emulated := [e] })
    (s.teams.find? (fun kt => kt.2.emulated.any (fun e => e.id = 4))).any (fun kt => kt.1 = 0) = true ∧
    (s.die 0).switching = false := by decide +kernel
theorem witness_groupCall :
    let call : Call := ⟨5, 0, ctx0, 0, 0, 0, 0, 0, [(0, 0, 7)], 2⟩
    let s := { (withTeam [inside]).setDie 0 { service := [call] } with words := [word0] }
    (s.die 0).service = [call] ∧ (s.die 0).switching = false ∧ (s.word 5).isSome = true := by decide +kernel

/-- WAITM with a written monitor, with a bound that has passed; BARW with one; SLEEP whose clocks have passed. -/
theorem witness_waits :
    let s := withTeam [{ inside with wait := .monitor, since := some 0, frozen := [⟨0, 1283, 0, false⟩] }]
      (fun t => { t with threads := [{ monitor := some { line := 0, written := true } }] })
    (there s).runs inside = true ∧ (there s).waitStatus false 0 = some 0 ∧
    s.now = 0 ∧ s.cycle 0 = 0 := by decide +kernel

/-- A copy from scratch, from a page, from an unmapped page, and a slot to reserve and to fill. -/
def copy0 : CopyLane := { thread := 0, src := 0, srcScratch := true, dst := 64, dstScratch := true, count := 32 }
theorem witness_copies :
    let o := op0 (.copy [copy0])
    let s := { withTeam [inside] with ops := [o] }
    (s.op 9).isSome = true ∧ o.lane 0 = some copy0 ∧ 0 ∉ copy0.moved ∧ 16 * (0 + 1) ≤ copy0.count ∧
    (match s.sideReach (there s) o copy0 .load false 0 false with
     | .at_ p u => p.chain.isNone && !p.scratch && (match u.pinFor (there s) o 0 p with
       | some (v, o') => (v.storesBefore (there s) o' p).isEmpty
       | none => false)
     | _ => false) = true ∧ (s.storesBefore (there s) o { scratch := true, bytes := upFrom 64 16 }).isEmpty = true ∧
    s.acquiring 0 0 9 = false ∧
    (match s.sideReach (there s) o copy0 .load false 0x20000 false with
     | .fail .. => true
     | _ => false) = true := by decide +kernel
/-- Copies that meet errors: in scratch, on a page, and lines that a copy writes whole; and a closed gate. -/
theorem witness_copyErrors :
    let o := op0 (.copy [copy0])
    let s := { withTeam [inside] (fun t => { t with badScratch := [0] }) with ops := [o], poison := [0] }
    (upFrom 0 16).find? (fun b => (there s).badScratch.contains (lineOf b)) = some 0 ∧
    (upFrom 128 16).all (fun b => !(there s).badScratch.contains (lineOf b)) = true ∧
    (let u := s.touchPage ctx0 0 0
     match u.checkPage ctx0 0 0 .load 0 with
     | .page _ x _ => (u.closedPart 0 (pagePlace 0 .load x 0 16)).isNone &&
         ((u.physOf (pagePlace 0 .load x 0 16)).find? (fun b => u.poison.contains (lineOf b))).isSome &&
         (({ u with parts := [] } : State).closedPart 0 (pagePlace 0 .load x 0 16)).isSome
     | _ => false) = true ∧
    (0 ≤ 0 ∧ 0 + 128 ≤ 0 + ({ copy0 with count := 128 } : CopyLane).count) ∧
    (upFrom ((0 - 0) / 16) 8).all (fun n => ({ copy0 with moved := upFrom 0 8 } : CopyLane).moved.contains n) = true := by
  decide +kernel
theorem witness_slots :
    let o := op0 (.cpyc 1 [copy0])
    let s := { withTeam [inside] with ops := [o] }
    let x := (there s).cbuf 1
    (s.slotWaiters 0 1).head? = some (9, 0) ∧ x.nslot - x.resv - x.filled - x.acq ≠ 0 ∧ (there s).saving = none ∧
    { copy0 with slot := some 0, moved := [0, 1] }.complete = true := by decide +kernel

/-- A request whose record is read is served digitally at its plinth; a matrix line that no page holds is a fault; an array
that serves a view, with a reference column that deviates by 2^-9 and by more. -/
theorem witness_projection :
    let p : Proj := { thread := 0, view := { image := image0, fourth := 1 }, viewReg := 1, plinth := 0, places := [],
                      record := List.replicate 32 0, cstart := 0, count := 8, reg := some 16 }
    let far : Proj := { p with view := { image := image0 + 0x20000, fourth := 1 } }
    let s := { withTeam [inside] with words := [{ word0 with projs := [p] }] }
    (match s.serve (there s) 0 p p.record [] with
     | (.ok _, u) => (u.request 5).isSome
     | _ => false) = true ∧
    (match s.serve (there s) 0 far p.record [] with
     | (.error (.fault ..), u) => (u.request 5).isSome
     | _ => false) = true ∧
    (let v : View := { image := image0 + 2 ^ 73, fourth := 1 }
     let k := ((s.placed v.image 0 0 : Bool), boundedMode v.image)
     let u := (withTeam [inside]).setArray 0 { ast := 2, desc := BitVec.ofNat 64 (vDesc v.image), gen := 0 }
     k = (true, true) ∧ u.resident 0 v = true ∧ u.viewArrays 0 (vDesc v.image) 0 2 = [0] ∧ ([2048].all (· ≤ 2048)) = true ∧
       ([2049].any (2048 < ·)) = true) := by decide +kernel
theorem witness_markings : let s := withTeam [inside]
    s.inFlightAt 0 3 = false ∧ ({ s with words := [word0] }.word 5).isSome = true ∧
    s.storesAhead (there s) word0 = [] := by decide +kernel
/-- A view of one array that is being programmed, with its source readable at the captured generation. -/
theorem witness_programmed :
    let v : View := { image := image0, fourth := 1 }
    let s := (withTeam [inside]).setArray 0 { ast := 1, desc := 0, gen := 0 }
    s.resident 0 v = false ∧ s.arraysOf 0 v [1] = [0] ∧ arraysNeeded v.image = 1 ∧
    (withTeam [inside]).arraysOf 0 v [1, 2, 3] = [] ∧ arraysNeeded (image0 + 2 ^ 119) = 2 ∧
    (match s.viewSource ctx0 0 0 v with
     | (.ok (g, _), _) => g = 0
     | _ => false) = true := by decide +kernel
theorem witness_arrays : (((State.reset.setArray 0 { ast := 3 }).array 0).ast = 3 ∧ (State.reset.die 0).switching = false) ∧
    1048576 ≤ ((State.reset.setArray 0 { progs := 1048576 }).array 0).progs := by decide +kernel

/-- Landing entries, an acknowledgement, a join and a drain of a flight over dies 0 and 1. -/
def flying0 : Flying := { id := 3, flight := 0, entry := 0, die := 0, offsets := [0], data := [1], team := 0, thread := 0, op := 9 }
theorem witness_flights :
    let s := { world with landing := [flying0], acks := [{ id := 3, op := 9, flight := 0, entry := 0, line := 0, dies := [0] }] }
    s.mayPass flying0 = true ∧ s.entryGate flying0 = true ∧ (s.flight 0).stepList.all (fun x => x.2.1 ≠ 0 || x.1 = 1) = true ∧
    (s.acks.find? (fun a => a.flight = 0 && a.id = 3)).any (fun a => a.dies = [0]) = true := by decide +kernel
theorem witness_join :
    let f : Flight := { valid := true, steps := packSteps [(1, 0, 0), (2, 1, 0)], pmap := 0x7F0010000, npage := 1 }
    let s := { world with
      flights := [(0, f)]
      mem := world.mem.writeLE (f.entryAddr 0) 8 (0x80000001 + 0x80000002 * 2 ^ 32) }
    f.joiner = some (2, 1, 0) ∧ f.copypos < f.npage ∧ (s.tailAddr 0 0 0).isSome = true ∧ (s.chainAddr f 0 1 0).isSome = true ∧
    { f with copypos := 1 }.npage ≤ 1 := by decide +kernel
theorem witness_drain :
    let f : Flight := { valid := true, steps := packSteps [(3, 0, 0), (1, 1, 0)] }
    let g : Flight := { valid := true, steps := packSteps [(1, 0, 0), (3, 1, 0)], cutTails := [1] }
    f.stepList.find? (fun x => x.1 = 3 && true) = some (3, 0, 0) ∧ f.isTailDie 0 = false ∧
    g.stepList.find? (fun x => x.1 = 3 && true) = some (3, 1, 0) ∧ g.isTailDie 1 = true ∧
    ({ g with steps := packSteps [(1, 0, 0)], cutTails := [] } : Flight).tail = some (1, 0, 0) := by decide +kernel
/-- A store that the drain of the tail holds back is applied and waits; a chained atomic at the head. -/
theorem witness_heldForward :
    let g : Flight := { valid := true, steps := packSteps [(1, 0, 0), (3, 1, 0)], cutTails := [1] }
    let s := { world with flights := [(0, g)], parts := [(0, { owned := true }), (4, { owned := true })]
                          landing := [flying0] }
    s.entryGate flying0 = true ∧ s.mayPass flying0 = false ∧ g.stepList ≠ [] ∧
    (({ aop := 15, operand := 7, compare := 0 } : Rmw).new 4 0 = some 7) ∧
    (({ aop := 15, operand := 7, compare := 1 } : Rmw).new 4 0 = none) := by decide +kernel

/-- A store parked at a copy-on-write page: without a sharer, and with one. -/
theorem witness_copyOnWrite :
    let b := { inside with wait := .replay 0x13 [0] 0 true }
    let s := withTeam [b]
    let s := (s.setPte 34359541760 (setBits (setBits 13 4 4 1) 3 3 0)).touchPage ctx0 0 0
    (s.leaf ctx0 0) = some 34359541760 ∧ pteV (s.pte 34359541760) = true ∧ pteCow (s.pte 34359541760) = true ∧
    (s.pageDesc 0 (s.pte 34359541760)).refs ≤ 1 ∧ (s.resolveCow ctx0 0 34359541760).isSome = true := by decide +kernel
/-- An access whose page is there again, one whose page still is far, and a migration that the control core can serve. -/
theorem witness_replay :
    let b := { inside with wait := .replay 0x12 [0] 0 false }
    let s := { withTeam [b] with vis := [(0, ⟨0, 0, 0x7F0000100, 1⟩)] }
    let far := s.setPte 34359541760 (plainPte 3 0 2 0)
    (match s.parkedCheck (there s) b 0 false with
     | .page .. => true
     | _ => false) = true ∧ s.replaysFirst (there s) b 0 = false ∧
    (match far.parkedCheck (there s) b 0 false with
     | .replay k => k = 0x12
     | _ => false) = true ∧
    (match far.needOf { ctx := ctx0, vi := 0, va := 0 } with
     | .move a tier _ => a = 34359541760 && tier = 0 && (far.beginMove 0 a 0 0).isSome
     | _ => false) = true ∧ (s.pageDesc 0 (far.pte 34359541760)).state ≠ 3 ∧
    (match s.needOf { ctx := ctx0, vi := 0, va := 0 } with
     | .nothing => true
     | _ => false) = true ∧
    (match s.needOfHost { ctx := ctx0, vi := 0, va := 0x20000 } 0 0 with
     | .refused 2 => true
     | _ => false) = true ∧ (there s).mayGiveUp b = true ∧ (s.die 0).switching = false := by decide +kernel
/-- A request that waits for its frame: the partition has none free, and its team is resident. -/
theorem witness_waitsForFrame :
    let s := { withTeam [inside] with parts := [(0, { owned := true, freecnt := 0 })] }
    let s := s.setPte 34359541760 128
    (match s.needOf { ctx := ctx0, vi := 0, va := 0 } with
     | .waits => true
     | _ => false) = true ∧
    (match s.parkedCheck (there s) { inside with wait := .replay 0x13 [0] 0 true } 0 true with
     | .replay k => k ≠ 0x13
     | _ => false) = true := by decide +kernel
theorem witness_pins : (State.reset.setPinDesc 0 { State.reset.pinDesc 0 with pins := 1, state := 2 }).pinsHeld 0 <
    ((State.reset.setPinDesc 0 { State.reset.pinDesc 0 with pins := 1, state := 2 }).pinDesc 0).pins := by decide +kernel

def trap0 : Trap := ⟨0, some 0, 0x1000, 0, 0, { cause := 0x20 }⟩
theorem witness_traps : let s := withTeam [inside] (fun t => { t with raised := [trap0] })
    (there s).raised = [trap0] ∧ (there s).halt = none ∧ inside.popped = [] ∧ inside.poppedRanks = [] ∧ inside.frozen = [] ∧ inside.counted = [] ∧
    (there (withTeam [inside])).boundaryOf 0 = some (0, inside) ∧ (there (withTeam [inside])).liveOf 0 ≠ [] := by decide +kernel
/-- A halted team that has drained; its records can be written nowhere, which the module reports. -/
theorem witness_record :
    let h : Halt := { trap := trap0, phase := .stopping }
    let s := withTeam [{ inside with wait := .trapped }] (fun t =>
      { t with halt := some h, decl := { t.decl with handler := some 0x2000 } })
    s.drained 0 (there s) = true ∧ (there s).enters h = true ∧ h.posted = .nothing ∧ s.deviceOwes = false ∧
    (match s.openQueue (there s) 0 with
     | .ok line u => (match u.putRecords (there s) 0 0 line ((there s).records h 1) with
       | .ok .. => true
       | _ => false)
     | _ => false) = true := by decide +kernel
/-- The same with a record table and a queue: TAIL can be written, and a table that no page holds cannot. -/
theorem witness_recordWrites :
    let s := withTeam [inside]
    (match s.ctxWrite ctx0 0 0 (recordAt 0 0 0) [1, 2] with
     | .ok .. => true
     | _ => false) = true ∧
    (match s.ctxWrite ctx0 0 0 (recordAt 0x20000 0 0) [1, 2] with
     | .fail .. => true
     | _ => false) = true ∧
    (match s.flushT1.ctxWrite ctx0 0 0 8 (bytesLE 4 1) with
     | .ok .. => true
     | _ => false) = true := by decide +kernel

/-- A launch queue with one packet, and one whose TAIL is too far. -/
theorem witness_launchQueue :
    let s := { world with fns := [(0, { lq := [(1, { reg := 0x10004, tail := 1 })] })] }
    s.served 0 1 = true ∧ (s.lq 0 1).head ≠ (s.lq 0 1).tail ∧ 2 ^ (s.lq 0 1).logn < ((17 : Word) - (s.lq 0 1).head).toNat ∧
    (s.fn 0).window = none ∧ (match s.checkPacket 0 1 0 0x10100 (s.hostRead 0x10100 128) with
     | .refused reason u => reason = 1 && (u.postError 0 1 1 0 1 0).lq 0 1 = s.lq 0 1
     | _ => false) = true ∧
    ({ s with fns := [(0, { lq := [(1, { reg := 0x10004, tail := 1 })], window := some (0x10000, ctx0) })] }.inWindow 0 0x10000) =
      some (ctx0, 0) ∧
    packetReserved (List.replicate 128 0) 1 = true := by decide +kernel
def launch0 : Launch :=
  { id := 2, fn := 0, prio := 1, index := 0, slot := 0x10100, vi := 0, ctx := ctx0, gridX := 2, gridY := 1, gridZ := 1, dietab := 0, dshift := 0,
    sshift := 0, args := 0, wait := some (0, 0), signal := none,
    decl := { wideDecl with cooperative := false, scratchKB := 0, vregs := 16 } }
theorem witness_waitCounter : let s := { world with launches := [launch0] }
    s.atTurn launch0 = true ∧ (match s.ctxWord ctx0 0 0 with
     | .ok _ _ => true
     | _ => false) = true ∧ (match s.ctxWord ctx0 0 0x20000 with
     | .fail c _ => c = 0x10
     | _ => false) = true := by decide +kernel
theorem witness_placement : let l := { launch0 with begun := true }
    let s := { world with launches := [l] }
    l ∈ s.waitingLaunches 0 ∧ (s.spotFor l 0 0 0).isSome = true ∧
    { world with launches := [{ l with decl := { l.decl with cooperative := true } }] }.placeAll 2 0 ≠ none := by decide +kernel
theorem witness_teamEnd : let s := { withTeam [] (fun t => { t with threads := [{ live := false }], launch := 2 }) with
      launches := [launch0] }
    s.overFor 0 (there s) = true ∧ s.stores = [] ∧ s.owesChained 0 [0] = false ∧ (s.launch 2).isSome = true ∧ launch0.ended + 1 < launch0.teams ∧
    launch0.teams ≤ { launch0 with ended := 1 }.ended + 1 := by decide +kernel
/-- Teams on every core of a die for one of which a launch of a higher priority waits, and a request that nothing needs. -/
theorem witness_yields :
    let wide := { launch0 with begun := true, prio := 2, decl := { wideDecl with cooperative := false } }
    let s := { withTeam [inside] with launches := [wide], parts := [(0, { owned := true })] }
    let full := (upFrom 1 9).foldl (fun (s : State) c => s.setTeam (32 * c) { there s with core := c }) s
    (full.waiters 0).any (fun w => full.mustYield 0 w 0) = true ∧
    (let u := withTeam [inside] (fun t => { t with yieldreq := true })
     u.met (there u) [0] = false ∧ (u.waiters 0).length = 0) ∧
    (let u := full.mapTeam 0 (fun t => { t with yieldreq := true })
     (u.waiters 0).any (fun w => u.stillNeeds w (there u) [0]) = true) := by decide +kernel
theorem witness_deadline : let s := withTeam [inside] (fun t => { t with yieldreq := true, deadline := some (0, 0) })
    (there s).deadline = some (0, 0) ∧ (there s).due 0 = true ∧ (there s).arrived = false ∧ (there s).decidable = true ∧
    ({ there s with deadline := some (5, 9), withdrawing := true } : Team).due 0 = false := by decide +kernel
theorem witness_save : let s := withTeam [{ inside with wait := .yield }] (fun t =>
      { t with saving := some true, scratchKB := 0, decl := { t.decl with vregs := 16, sregs := 0, preds := 0, acc := 0 } })
    s.saveDrained 0 (there s) = true ∧ s.saved = [] := by decide +kernel
def saved0 : Saved :=
  { id := 4, team := { team [] with launch := 2, decl := launch0.decl, bundles := [], scratchKB := 0 }, full := true,
    relinks := [], lanes := [], faulter := [], handlers := [], slots := [], stores := [], areaAt := 0, areaSize := 256, queueAt := 0,
    queueSize := 64 }
theorem witness_restore : let s := { world with saved := [saved0], launches := [launch0] }
    s.splitLaunch saved0 = false ∧ s.goesBefore saved0 = false ∧ s.spotOf saved0 = some (0, 0) ∧
    (match s.ctxRead ctx0 0 0 0 256 with
     | .ok .. => true
     | _ => false) = true ∧ (match s.restoreOne saved0 with
     | .ok .. => true
     | _ => false) = true := by decide +kernel
/-- A team whose area and block come back. -/
theorem witness_comesBack :
    let d : Decl := { launch0.decl with vregs := 16, sregs := 32, preds := 32, acc := 0, scratchKB := 0, teamX := 16 }
    let x : Team := { team [] with decl := d, scratchKB := 0, threads := List.replicate 16 {}, groups := [{}],
                                   bundles := [inside], pipes := [(2, [[(1, 5)]])], notices := [3] }
    x.decl.ok = true ∧ x.threads.length = x.decl.threads ∧ x.groups.length = x.decl.groups ∧ x.decl.width = 16 ∧
    (x.bundleOf 0).isSome = true ∧ (x.thread 0).live = true ∧
    (upFrom 0 16).all (fun q => (x.pipe q).length ≤ 8) = true ∧ x.notices.length ≤ 32 := by decide +kernel

/-! ### The host and the module -/

theorem witness_windows : ((world.lq 0 1).head = (world.lq 0 1).tail ∧ fld (0x10004 : DWord) 6 5 = 0 ∧ fld (0x10004 : DWord) 4 0 = 4) ∧
    ringOk 0x1004 8 = true ∧ ringOk 0x1024 8 = false ∧ ringOk 0x100D 12 = false ∧
    (match world.windowPlace 0 ctx0 0 8 false with
     | .reached p u => !u.spoils p && (u.putPlace p [1]).isSome && { u with poison := [0] }.spoils p
     | _ => false) = true ∧ (match world.windowPlace 0 ctx0 0x20000 8 false with
     | .not _ => true
     | _ => false) = true := by decide +kernel
theorem witness_module : (world.link 0).up = true ∧ 1 < (world.link 0).spares ∧ State.reset.ready = false ∧ State.reset.stopped = false ∧
    world.throttled = false ∧ ({ world with links := [(0, { spares := 1 })] }.link 0).spares ≤ 1 ∧
    ((world.setDie 0 { activating := some 1, switching := true }).die 0).activating = some 1 := by decide +kernel

/-! ### Commands -/

/-- The module, changed as asked, with one entry on a function's ring and the ring's tail behind it. -/
def ringed (fn : Nat) (e : BitVec 512) (f : State → State := id) : State :=
  { f world with
    fns := [(fn, { cmdq := 0x1004, cmdtail := 1 })]
    hostMem := Memory.writeLE (f world).hostMem 0x1000 64 e.toNat }

/-- A command stands next on a ring. -/
def isNext (s : State) (i : Instr) (fn : Nat) (e : BitVec 512) : Bool :=
  s.nextCommand fn = some e && decodeCommand fn e = i && !s.stopped

/-- A command stands next and no check before its own rule refuses it. -/
def stands (s : State) (i : Instr) (c : Command) (fn : Nat) (e : BitVec 512) : Bool :=
  isNext s i fn e && (!c.physical || fn = 64) && !c.stray e && !c.malformed &&
  c.ctxs.all (fun x => locatorOk x && s.ctxDefined x && (fn = 64 || s.ctxVi x = fn))

theorem stands_commands {s : State} {i : Instr} {c : Command} {fn : Nat} {e : BitVec 512} (h : stands s i c fn e = true) :
    s.Commands i c fn e := by
  simp only [stands, isNext, Bool.and_eq_true, decide_eq_true_eq, Bool.not_eq_true', Bool.or_eq_true, List.all_eq_true] at h
  obtain ⟨⟨⟨⟨⟨⟨h1, h2⟩, h3⟩, h4⟩, h5⟩, h6⟩, h7⟩ := h
  refine ⟨h1, h2, h3, ?_, ⟨h5, h6⟩, ?_⟩
  · intro hp
    rcases h4 with h4 | h4
    · rw [hp] at h4; cases h4
    · exact h4
  · intro x hx
    obtain ⟨⟨h8, h9⟩, h10⟩ := h7 x hx
    refine ⟨h8, h9, fun hn => ?_⟩
    rcases h10 with h10 | h10
    · exact absurd h10 hn
    · exact h10

/-- An entry: OPC, and operands at their bytes. -/
def entry (opc : Nat) (ops : List (Nat × Nat)) : BitVec 512 :=
  BitVec.ofNat 512 (opc + (ops.map (fun o => o.2 * 2 ^ (8 * o.1))).foldl (· + ·) 0)
/-- The same about an address of the context. -/
def onPage (opc va : Nat) (more : List (Nat × Nat) := []) : BitVec 512 := entry opc ([(8, ctx0.toNat), (16, va)] ++ more)

/-- Page 0 is mapped, page 1 is not, and both have their entry. -/
theorem witness_mapnew :
    let e := onPage 1 65536 [(26, 3)]
    let s := ringed 64 e
    let m := onPage 1 0 [(26, 3)]
    stands s (.mapnew 64 e) (mapnewCommand e) 64 e = true ∧ pteV (s.pageEntry ctx0 65536) = false ∧
    (s.makeLeaf ctx0 65536).any (fun x => (x.2.takeFrame 0 0 0).isSome) = true ∧
    stands (ringed 64 m) (.mapnew 64 m) (mapnewCommand m) 64 m = true ∧ pteV ((ringed 64 m).pageEntry ctx0 0) = true := by
  decide +kernel
theorem witness_map :
    let e := onPage 2 65536 [(26, 3)]
    let s := ringed 64 e (fun s => s.setFrame (frameKey 0 0) { s.frame (frameKey 0 0) with state := 1, vi := 0, refs := 1 })
    stands s (.map 64 e) (mapCommand e) 64 e = true ∧ pteV (s.pageEntry ctx0 65536) = false ∧ s.frameExists 0 0 0 = true ∧
    (s.desc 0 0 0 0).state = 1 ∧ (s.desc 0 0 0 0).vi = 0 ∧ (s.desc 0 0 0 0).refs ≠ 2 ^ 32 - 1 ∧
    (s.makeLeaf ctx0 65536).isSome = true := by decide +kernel
theorem witness_share :
    let e := onPage 3 0 [(24, ctx0.toNat), (32, 65536), (40, 1)]
    let s := ringed 64 e
    let src := pagesOf 0 1
    let mapped := (src.map (s.pageEntry ctx0)).filter pteV
    let t := mapped.foldl State.commitPage s
    stands s (.share 64 e) (shareCommand e) 64 e = true ∧ mapped ≠ [] ∧
    (pagesOf 65536 1).any (fun v => pteV (s.pageEntry ctx0 v)) = false ∧ mapped.any t.storesOn = false ∧
    (t.makeLeaves ctx0 src).any (fun x => (x.2.makeLeaves ctx0 (pagesOf 65536 1)).isSome) = true := by decide +kernel
theorem witness_reserve :
    let e := onPage 4 65536 [(28, 2), (26, 3)]
    let s := ringed 64 e
    stands s (.reserve 64 e) (reserveCommand e) 64 e = true ∧
    (pagesOf 65536 2).any (fun v => pteV (s.pageEntry ctx0 v)) = false ∧
    (s.makeLeaves ctx0 (pagesOf 65536 2)).isSome = true := by decide +kernel
theorem witness_unmap :
    let e := onPage 5 0 [(28, 1)]
    let s := ringed 64 e
    let as := (pagesOf 0 1).filterMap (s.leaf ctx0)
    stands s (.unmap 64 e) (unmapCommand e) 64 e = true ∧ as ≠ [] ∧
    as.any (fun a => pteV (s.pte a) && s.underEntry (s.pte a)) = false := by decide +kernel
theorem witness_protect :
    let e := onPage 6 0 [(28, 1), (26, 1)]
    let s := ringed 64 e
    let as := (pagesOf 0 1).filterMap (s.leaf ctx0)
    let kept := as.filter (fun a => pteV (s.pte a) && s.keepsStores 0 (withFlags (s.pte a) 1))
    let t := kept.foldl (fun (s : State) a => s.commitPage (s.pte a)) s
    stands s (.protect 64 e) (protectCommand e) 64 e = true ∧
    (pagesOf 0 1).all (fun v => pteV (s.pageEntry ctx0 v) || pteDemand (s.pageEntry ctx0 v)) = true ∧ as ≠ [] ∧
    as.any (fun a => pteV (t.pte a) && t.underEntry (t.pte a)) = false ∧ kept.any (fun a => t.storesOn (t.pte a)) = false := by
  decide +kernel
theorem witness_mapchain :
    let e := onPage 7 65536 [(26, 3)]
    let s := ringed 64 e (fun s => { s with flights := [(0, { valid := true, steps := 0x2420, npage := 2, pmap := 0x7F0010000 })] })
    stands s (.mapchain 64 e) (mapchainCommand e) 64 e = true ∧ pteV (s.pageEntry ctx0 65536) = false ∧
    (s.flight 0).valid = true ∧ (s.flight 0).owner = 0 ∧
    (s.makeLeaf ctx0 65536).any (fun x => (x.2.newEntry 0 0).isSome) = true := by decide +kernel
theorem witness_migrate :
    let e := onPage 8 0 [(24, 4)]
    let s := ringed 64 e (fun s => s.setFrame (frameKey 0 0) { s.frame (frameKey 0 0) with state := 1, vi := 0, refs := 1 })
    stands s (.migrate 64 e) (migrateCommand e) 64 e = true ∧ 
    (let x := s.pageEntry ctx0 0
     pteV x = true ∧ pteClass x ≠ 1 ∧ s.pteReserved 0 x = false ∧ (s.pageDesc 0 x).state = 1 ∧
      (s.die (pteHome x / 4)).migration.length < 1024 ∧ (s.takeFrame 0 0 4).isSome = true) ∧ (s.fn 64).moved = none ∧
    (let e := onPage 8 65536 [(24, 4)]
     stands (ringed 64 e) (.migrate 64 e) (migrateCommand e) 64 e = true ∧
       pteV ((ringed 64 e).pageEntry ctx0 65536) = false) := by
  decide +kernel

/-- The owner commands, on a team that stands halted without a handler with SEQ 3. -/
def haltedWorld (s : State) : State :=
  s.setTeam 0 { team [0] with halt := some { trap := trap0, phase := .halted, seq := 3 } }
theorem witness_owner :
    let e (opc : Nat) := entry opc [(8, ctx0.toNat), (20, 3)]
    let s (opc : Nat) := ringed 0 (e opc) haltedWorld
    stands (s 0x10) (.resume 0 (e 0x10)) (resumeCommand (e 0x10)) 0 (e 0x10) = true ∧
    stands (s 0x11) (.resumeskip 0 (e 0x11)) (resumeskipCommand (e 0x11)) 0 (e 0x11) = true ∧
    stands (s 0x12) (.abort 0 (e 0x12)) (abortCommand (e 0x12)) 0 (e 0x12) = true ∧
    stands (s 0x13) (.savefull 0 (e 0x13)) (savefullCommand (e 0x13)) 0 (e 0x13) = true ∧
    ((s 0x10).team (ownerKey (e 0x10))).any (fun t => t.ctx = cmdLoc (e 0x10) 8 && t.saving.isNone && !t.aborted &&
      t.halt.any (fun h => h.phase = .halted && h.seq = BitVec.ofNat 32 (cmdOp (e 0x10) 20 32) && h.trap.widx ≠ 0xFFFFFFFF &&
        h.trap.info.cause ≠ 0x05)) = true := by decide +kernel

/-- A descriptor of 128 zero bytes, and a defined one, for a context that no team uses. -/
theorem witness_setctx :
    let e := entry 0x20 [(8, 0x7F0000080), (16, 0x4000)]
    let s := ringed 64 e
    stands s (.setctx 64 e) (setctxCommand e) 64 e = true ∧ s.teams.all (fun kt => kt.2.ctx ≠ cmdLoc e 8) = true ∧
    (s.hostRead (cmdOp e 16 64) 128).all (· = 0) = true ∧ descriptorOk (s.ctxBytes ctx0) = true := by decide +kernel
theorem witness_setup :
    let p := entry 0x21 [(8, 12), (9, 1)]
    let f := entry 0x22 [(8, 5), (9, 1), (16, 0x7F0020000), (24, 1), (32, 0x20)]
    let v := entry 0x23 [(16, 0x7F0030000), (24, 4), (28, 0x7F0040000), (36, 4)]
    let q := entry 0x28 [(8, 2)]
    stands (ringed 64 p) (.setpart 64 p) (setpartCommand p) 64 p = true ∧ (ringed 64 p).residentVis 3 = [] ∧
    stands (ringed 64 f) (.setflight 64 f) (setflightCommand f) 64 f = true ∧
    (ringed 64 f).stepsAllowed 0x20 0 = true ∧ (ringed 64 f).entriesInUse ((ringed 64 f).flight 5) = [] ∧
    ((ringed 64 f).flight 5).stepList.all (fun x => x.1 = 1) = true ∧
    stands (ringed 64 v) (.setvi 64 v) (setviCommand v) 64 v = true ∧
    stands (ringed 0 q) (.qreset 0 q) (qresetCommand q 0) 0 q = true ∧ ((ringed 0 q).lq 0 2).base = 0 ∧
    (ringed 64 p).plinthAsked 12 = false ∧
    (let s := { ringed 0 q with fns := [(0, { cmdq := 0x1004, cmdtail := 1, lq := [(2, { reg := 0x10004 })] })] }
     stands s (.qreset 0 q) (qresetCommand q 0) 0 q = true ∧ (s.lq 0 2).base ≠ 0 ∧ (s.fn 0).window = none) := by
  decide +kernel
theorem witness_service :
    let g := entry 0x30 [(8, 1), (16, 0x4000), (24, 8)]
    let a := entry 0x31 [(8, 1)]
    let o := entry 0x32 [(8, 7)]
    let i := entry 0x33 [(8, 7)]
    let r := entry 0x38 [(40, 0x8000)]
    let staged (s : State) : State := s.setDie 1 { s.die 1 with staged := some 1 }
    stands (ringed 64 g) (.fwstage 64 g) (fwstageCommand g) 64 g = true ∧
    stands (ringed 64 a staged) (.fwactivate 64 a) (fwactivateCommand a) 64 a = true ∧
    (upFrom 0 8).all (fun d => !((ringed 64 a staged).die d).switching) = true ∧ ((ringed 64 a staged).die 1).staged ≠ none ∧
    stands (ringed 64 o) (.dieout 64 o) (dieoutCommand o) 64 o = true ∧ (ringed 64 o).dieBusy 7 = false ∧
    (let c := ((ringed 64 o).setDie 7 { (ringed 64 o).die 7 with out := true, leaving := true }).cutDie 7
     c.dieHeld 7) = false ∧
    stands (ringed 64 i) (.diein 64 i) (dieinCommand i) 64 i = true ∧ ((ringed 64 i).die 7).out = false ∧
    stands (ringed 64 i (fun s => s.setDie 7 { s.die 7 with out := true })) (.diein 64 i) (dieinCommand i) 64 i = true ∧
    stands (ringed 0 r) (.attest 0 r) (attestCommand r 0) 0 r = true := by decide +kernel

/-- The checks before a command's own rule, each with an entry that it refuses, and an unassigned OPC. -/
theorem witness_commandChecks :
    let e1 := onPage 1 65536
    let e2 := onPage 1 65537
    let e3 := entry 0x10 [(8, ctx0.toNat), (20, 3)]
    let e4 := onPage 1 0 [(8, 128)]
    let e5 := entry 0x39 []
    (isNext (ringed 0 e1) (.mapnew 0 e1) 0 e1 && (mapnewCommand e1).physical) = true ∧
    (isNext (ringed 64 e2) (.mapnew 64 e2) 64 e2 && (mapnewCommand e2).malformed) = true ∧
    (isNext (ringed 1 e3) (.resume 1 e3) 1 e3 && !(resumeCommand e3).physical && !(resumeCommand e3).stray e3 &&
      (resumeCommand e3).ctxs.all locatorOk && (resumeCommand e3).ctxs.any (fun x => (ringed 1 e3).ctxVi x ≠ 1)) = true ∧
    (isNext (ringed 64 e4) (.mapnew 64 e4) 64 e4 && !(mapnewCommand e4).stray e4 && !(mapnewCommand e4).malformed &&
      (mapnewCommand e4).ctxs.all locatorOk && (mapnewCommand e4).ctxs.any (fun x => !(ringed 64 e4).ctxDefined x)) = true ∧
    isNext (ringed 64 e5) (.unassignedOpcCommand 64 e5) 64 e5 = true ∧ ((ringed 64 e5).commandSlot 64).isSome = true := by
  decide +kernel
theorem witness_turns :
    let e := entry 0x39 []
    let s := { ringed 64 e with sched := [.command 64] }
    s.nextTurn = .command 64 ∧ s.nextCommand 64 = some e ∧ s.nextCommand 3 = none ∧
    ({ s with sched := [.event .powerOn] } : State).nextTurn = .event .powerOn := by decide +kernel

/-! ### Releases and acquires, arming, cache words, special elements -/

theorem witness_release : let s := { withTeam [inside] with stores := [store0] }
    s.words = [] ∧ store0.team = 0 ∧ store0.thread ∈ [0] ∧ store0.tile = none ∧ store0.rmw = none ∧ store0.stranded = none ∧
    store0.place.chain = none ∧ s.gateOpen 0 store0.place = true ∧ (there s).untilReturn store0 = false := by decide +kernel
theorem witness_arm : let s := withTeam [inside]
    0 < (there s).threads.length ∧ (s.core 0).tracked.length ≤ 256 := by decide +kernel
/-- CINV of a line of a plain page; PREF of one, and of an unmapped one. -/
theorem witness_cacheLines : let s := withTeam [inside] (fun t => { t with scratchKB := 0 })
    (0 < 2 ^ 57 ∧ s.leaf ctx0 0 = some 34359541760) ∧ pteV (s.pte 34359541760) = true ∧
    s.pteReserved 0 (s.pte 34359541760) = false ∧ pteTier (s.pte 34359541760) ≠ 2 ∧ pteClass (s.pte 34359541760) ≠ 1 ∧
    s.cacheWays 0 ≠ 0 ∧
    (let u := s.touchPage ctx0 0 0
     (u.reach ctx0 0 0 .load 0 128).any (fun p => p.chain.isNone && u.gateOpen 0 p && !u.poisoned p.bytes)) = true ∧
    ((s.touchPage ctx0 0 0x20000).reach ctx0 0 0 .load 0x20000 128).isNone = true := by decide +kernel
/-- Elements of bf16 that are NaN, infinite, zero and finite, and an accumulator that is a NaN or infinite. -/
theorem witness_specialElements :
    (match matValue 0 0x7FC0, matValue 0 0x7F80, matValue 0 0, matValue 0 0x3F80 with
     | .nan _, .inf false, .fin _ 0 _, .fin _ m _ => decide (m ≠ 0)
     | _, _, _, _ => false) = true ∧ fwAcc 0x2000022 = 0 ∧ (32 : Nat) < 64 ∧ Fmt.fp32.decode 0x7FC00000 = .nan false ∧
    Fmt.fp32.decode 0xFF800000 = .inf true := by decide +kernel

/-! ### Steps: pipes of an alcove, marked tiles and scratch -/

/-- A bundle of a later alcove has used pipe 3 in the cycle, and one that waits at BARW. -/
theorem witness_pipes : let t : Team := { team [] with pipeUsed := [(3, (0, 2))] }
    (Sparse.get t.pipeUsed (0, 0) 3).1 = 0 ∧ t.alcoveOf inside + 4 * (t.bundleCore inside - t.core) < 2 ∧
    (standing (.mov (r 1 1027 0 0 0))).pipesOf
      ((there (standing (.mov (r 1 1027 0 0 0)))).bundles.headD inside) = [3] ∧
    (∃ ws l, ({ inside with wait := .barw [] [] } : Bundle).wait = .barw ws l) := by
  refine ⟨by decide +kernel, by decide +kernel, by decide +kernel, [], [], rfl⟩
theorem witness_marked : let i : Instr := .mlds (r 3 8 0 0 0)
    let s := (standing i).mapTeam 0 (fun t => { t with badTiles := [3], badScratch := [8] })
    s.issuesNow i = true ∧ (standing i).reportSpoilt i = standing i ∧ s.reportSpoilt i ≠ s := by decide +kernel

/-! ### Values that loads take, MSTS, gates and replies -/

def word1 : CWord := { word0 with lanes := [lane0] }
/-- A lane that takes its value: of its own store, of an L1 copy, of a slice, of a chained page; and a line with an error. -/
theorem witness_takes :
    let s := { withTeam [inside] with words := [word1] }
    let l1 : L1Line := { line := 0, data := [(0, 7)] }
    let st : Store := { store0 with id := 4, place := { scratch := false, bytes := [0, 1] } }
    let own (s : State) := s.stores.filter (fun st => st.team = 0 && st.id < 5 && st.stranded.isNone && st.rmw.isNone &&
      st.thread = 0 && st.place.bytes.contains 0)
    s.word 5 = some word1 ∧ s.gateOpen 0 lane0.place = true ∧ s.acquiring 0 0 5 = false ∧ s.untaken 0 0 5 = [] ∧
    s.badLine (there s) 0 lane0.place = none ∧ own s = [] ∧ own { s with stores := [st] } = [st] ∧
    { s with poison := [0] }.badLine (there s) 0 lane0.place = some 0 ∧
    ((s.setCore 0 { s.core 0 with l1 := [l1] }).core 0).l1.find? (fun c => c.line = lineOf 0) = some l1 ∧
    (s.flight 0).entered { lane0.place with chain := some (0, 0) } = some (1, 0, 0) ∧
    (let f : Flight := { s.flight 0 with pmap := 0x7F0010000, npage := 1 }
     let u : State := { s with flights := [(0, f)], mem := s.mem.writeLE (f.entryAddr 0) 8 (0x80000001 + 0x80000002 * 2 ^ 32) }
     (u.chainAddr f 0 0 0).isSome && (u.tailAddr 0 0 0).isSome) = true := by decide +kernel
/-- The store of an MSTS, which can be committed, and which an earlier untaken load keeps back. -/
theorem witness_msts :
    let st : Store := { id := 6, word := 5, team := 0, thread := 0, clause := 0, widx := 0, va := 0, tile := some 0,
                        place := { scratch := true, bytes := [0, 1, 2, 3] }, data := [1, 2, 3, 4] }
    let s := { withTeam [inside] with words := [word0], stores := [st] }
    word0.lanes = [] ∧ word0.writes = [] ∧ word0.projs = [] ∧ word0.calls = [] ∧ word0.tile = none ∧ word0.markings = [] ∧
    word0.pipe = none ∧ (there s).heldStore st = false ∧
    (st.threads (there s)).all (fun th => (s.untaken 0 th 5).isEmpty) = true ∧ s.mayCommit (there s) st = true := by
  decide +kernel
/-- A load and a store that a closed gate drops, the owner of a chained packet, a query to the tail, and a reply. -/
theorem witness_gates :
    let s := { withTeam [inside] with parts := [(4, { owned := true })], stores := [store0], words := [word1] }
    let p : Place := { scratch := false, bytes := [0, 1], chain := some (0, 0) }
    let d := { world with chainDirty := [(0, 0, 0, 0)] }
    s.closedPart 0 store0.place = some 0 ∧ s.closedPart 0 lane0.place = some 0 ∧ s.anyTeam 0 = some (there s) ∧
    s.landing = [] ∧ store0.rmw = none ∧ s.placePart store0.place = some 0 ∧ (s.part 0).owned = false ∧
    (s.word 5).any (fun w => (w.lanes.find? (fun l => l.thread = 0 && l.taken.isNone && !s.gateOpen 0 l.place)).isSome) =
      true ∧
    (d.flight 0).entered p = some (1, 0, 0) ∧ (d.flight 0).tail = some (1, 1, 0) ∧ d.queryPart p = some 4 ∧
    (let x : Reply := { launch := (there s).launch, teamIx := (there s).index, port := 17, group := 0, entry := [] }
     (s.teams.find? (fun kt => kt.2.launch = x.launch && kt.2.index = x.teamIx)).any (fun kt => kt.1 = 0)) = true := by
  decide +kernel

/-! ### Plinths, flights and pages -/

/-- A request whose row the plinth may write, one whose row lies in marked scratch; a record that is read. -/
theorem witness_rows :
    let p : Proj := { thread := 0, view := { image := image0, fourth := 1 }, viewReg := 1, plinth := 0, places := [],
                      record := List.replicate 32 0, cstart := 0, count := 8, reg := some 16 }
    let s := { withTeam [inside] with words := [{ word0 with projs := [p] }] }
    (s.request 5).any (fun r => (s.rowReady r (there s) p).1 && ((there s).badRow r p).isNone) = true ∧
    (let q : Proj := { p with places := [lane0.place] }
     (s.request 5).any (fun r => match s.readRecord r 5 (there s) q with
      | some (.ok _) => true
      | _ => false)) = true ∧
    (let q : Proj := { p with row := some 0 }
     let o := op0 (.view [q] [])
     (there { s with ops := [o] }).badRow (.op o [q] []) q = none ∧
     ({ there s with badScratch := [0] } : Team).badRow (.op o [q] []) q = some 0) := by decide +kernel

/-- A later store of the line behind an acknowledgement: by another acknowledgement, and in a landing buffer; closed gates of
a join; the routes of a drained tail. -/
theorem witness_later :
    let a : Ack := { id := 3, op := 9, flight := 0, entry := 0, line := 0, dies := [0] }
    let s := { world with landing := [{ flying0 with die := 1 }], acks := [a, { a with id := 4 }] }
    (s.acks.any (fun b => b != a && b.flight = a.flight && b.entry = a.entry && b.line = a.line && b.dies.contains 0)) = true ∧
    (s.landing.any (fun y => y.flight = a.flight && y.entry = a.entry && y.offsets.any (fun o => o / 128 = a.line) &&
      ((s.flight 0).before y.die).contains 0)) = true ∧
    (let f : Flight := { valid := true, steps := packSteps [(1, 0, 0), (2, 1, 0)], pmap := 0x7F0010000, npage := 1 }
     f.joiner = some (2, 1, 0) ∧ f.copypos < f.npage ∧ ((f.tail.toList ++ f.joiner.toList).all (fun x =>
       (world.part (4 * x.2.1 + x.2.2)).owned && (world.part (4 * x.2.1 + x.2.2)).vi = f.owner)) = true ∧
       (({ world with parts := [] } : State).part 4).owned = false) := by decide +kernel
/-- A migration that has begun while its die switches, and one that has not; a demand page without a free frame. -/
theorem witness_switching :
    let m : Migrate := { ctx := ctx0, vi := 0, va := 0 }
    let s := world.setDie 0 { migration := [m], switching := true, activating := some 1 }
    (s.die 0).migration = [m] ∧ m.begun = none ∧ (s.die 0).switching = true ∧
    (let u := ({ world with parts := [(0, { owned := true, freecnt := 0 })] } : State).setPte 34359541760 128
     u.leaf ctx0 0 = some 34359541760 ∧ pteV (u.pte 34359541760) = false ∧ pteDemand (u.pte 34359541760) = true ∧
       (u.part (pteHome (u.pte 34359541760))).freecnt = 0) := by decide +kernel

/-! ### Traps, records and teams -/

/-- A bundle with threads of two groups at a trap, a thread that waits with a bound, and a held fault behind one whose group
has no boundary. -/
theorem witness_traps2 :
    let t : Team := { team [0] with
      groups := [{}, {}], threads := List.replicate 32 { monitor := some { line := 0, written := false, until_ := some 5 } }
      bundles := [{ inside with members := [0, 16] }, { inside with members := [1], wait := .monitor }] }
    t.groupOf 0 = 0 ∧ t.groupOf 16 = 1 ∧ trap0.group = 0 ∧ trap0.bundle = some 0 ∧ (t.thread 1).monitor.isSome = true ∧
    (let u : Team := { t with bundles := [{ inside with members := [0], wait := .monitor }, { inside with members := [16] }] }
     u.liveOf 0 ≠ [] ∧ u.boundaryOf 0 = none ∧ u.liveOf 1 ≠ [] ∧ (u.boundaryOf 1).isSome = true) := by decide +kernel
/-- A stranded store with one before it, and one alone; another halt of the context whose TAIL is still to come. -/
theorem witness_stranded :
    let x : Trap := { trap0 with info := { trap0.info with stranded := some 0, origin := some (0, 0) } }
    let bad : Store := { store0 with stranded := some 0x10 }
    let s := { withTeam [inside] with stores := [{ store0 with id := 6, place := { scratch := false, bytes := [32] } }, bad] }
    ((s.beforeStranded 0 (there s) x).map (fun y => (y.1.length, y.2 = bad))) = some (1, true) ∧
    (({ s with stores := [bad] } : State).beforeStranded 0 (there s) x).map Prod.fst = some [] ∧
    s.beforeStranded 0 (there s) trap0 = none ∧
    (let h : Halt := { trap := trap0, phase := .stopping, posted := .records none }
     let u := s.setTeam 1 { there s with halt := some h }
     u.teams.any (fun kt => kt.1 ≠ 0 && kt.2.ctx = ctx0 && kt.2.stops && kt.2.halt.any (fun k => k.posted ≠ .nothing))) =
      true := by decide +kernel
/-- The end of the last team of a launch with a signal: its word is reached, is unmapped, or its page is far. -/
theorem witness_signal :
    let l : Launch := { launch0 with signal := some (0, 1), gridX := 1 }
    let s := { withTeam [] (fun t => { t with threads := [{ live := false }], launch := 2 }) with launches := [l] }
    let u := { s with teams := [] }
    s.overFor 0 (there s) = true ∧ l.teams ≤ l.ended + 1 ∧
    (match u.flushT1.ctxPlaces ctx0 0 0 .atomic 0 8 with
     | .ok (p :: _) v => !p.scratch && p.chain.isNone && p.bytes.length = 8 &&
         (v.putPlace p (bytesLE 8 (ofBytesLE (v.placeBytes p) + 1))).isSome
     | _ => false) = true ∧
    (match u.flushT1.ctxPlaces ctx0 0 0 .atomic 0x20000 8 with
     | .fail .. => true
     | _ => false) = true ∧
    (match (({ u with vis := [(0, ⟨0, 0, 0x7F0000100, 1⟩)] } : State).setPte 34359541760
        (plainPte 3 0 2 0)).flushT1.ctxPlaces ctx0 0 0 .atomic 0 8 with
     | .wait _ => true
     | _ => false) = true := by decide +kernel
/-- Requests: on a running team with a sleeper, on a halted one; one taken back; a held fault that can be taken. -/
theorem witness_requests :
    let t := there (withTeam [{ inside with wait := .sleep 9 }])
    t.halt = none ∧ t.yieldreq = false ∧ t.bundle 0 = some { inside with wait := .sleep 9 } ∧
    (let s := withTeam [inside] (fun t => { t with yieldreq := true })
     s.met (there s) [0] = false ∧ s.waiters 0 = []) ∧
    (let u : Team := { there (withTeam [inside]) with held := [(0, { cause := 0x20 })] }
     u.held.any (fun x => (u.boundaryOf x.1).isSome) = true) := by decide +kernel
/-- Spans that other saved teams leave free; a lone record of a set-aside word of two lanes. -/
theorem witness_spans : freeSpan 0 64 [] = 0 ∧ freeSpan 0 64 [(0, 256)] = 256 ∧
    (let o := op0 (.cpyc 1 [{ copy0 with srcScratch := true, dst := 0 }, { copy0 with thread := 1, dst := 0 }])
     ([o].map (fun o => (o.group, o.clause, o.widx))).Nodup ∧ ([o].flatMap Op.waitingLanes).length < 2 ^ 32 ∧
       o.hint < 4 ∧ o.cls = 0 ∧ o.done = false ∧ o.lanes = []) := by decide +kernel

/-! ### A return from a halt, frames and rings -/

theorem witness_return :
    let t : Team := { team [0] with halt := some { trap := trap0, phase := .halted } }
    let u : Team := { team [0] with
      threads := { monitor := some { line := 0, written := false, until_ := some 5, held := true } } ::
        List.replicate 15 { live := false }
      bundles := [{ inside with members := [0], wait := .monitor }] }
    t.isHalted = true ∧ u.isHalted = false ∧ (world.setTeam 0 u).team 0 = some u ∧ u.requested = false ∧
    (u.thread 0).monitor.any (fun m => m.held && m.until_ = some 5) = true := by decide +kernel
/-- A free frame of HBM and of T1; a page without and with a ring; its last mapping, pinned or not; a stranded store. -/
theorem witness_rings :
    let x := plainPte 3 0 0 0
    let a := 34359541760
    let d := { world.frame 0 with state := 1, refs := 2, rmpart := 0, rmpa := 8 }
    (world.part 0).freecnt ≠ 0 ∧ (({ world with parts := [(0, { freecnt := 0 })] } : State).part 0).freecnt = 0 ∧
    (({ world with vis := [(0, ⟨0x7F0020000, 1, 0, 0⟩)] } : State).takeFrame 0 1 0).isSome = true ∧
    (world.takeFrame 0 1 0).isNone = true ∧
    x < 2 ^ 128 ∧ pteClass x ≠ 1 ∧ pteTier x = 0 ∧ (world.frame 0).refs = 0 ∧
    (d.refs ≠ 0 ∧ d.rmpart * 2 ^ 35 + d.rmpa + 16 ≤ a) ∧ pteClass (world.pte a) ≠ 1 ∧ pteTier (world.pte a) = 0 ∧
    ({ d with refs := 1 }.refs ≤ 1 ∧ { d with refs := 1 }.pins = 0 ∧ { d with pins := 1 }.pins ≠ 0) ∧
    (let s := { withTeam [inside] with stores := [store0] }
     store0.stranded = none ∧ Machine.onPage (s.pte a) store0.place = true ∧
       s.leaf ctx0 (store0.va.toNat + store0.off) = some a ∧ s.team store0.team = some (there s)) := by decide +kernel
theorem witness_ring :
    let s := (world.setFrame 0 { world.frame 0 with state := 1 })
    let u := (s.joinRing 0 34359541760 (plainPte 3 0 0 0)).joinRing 0 34359541776 (plainPte 3 0 0 0)
    (u.frame 0).refs = 2 ∧
    ((u.ringOf (u.frame 0)).find? (fun b => pteNext (u.pte b) = 34359541760)) = some 34359541776 := by decide +kernel

/-! ### Transfers, barriers and views -/

/-- A bundle that a transfer splits; a handler's last EXIT. -/
theorem witness_transfer :
    ((standing (.mov (r 1 2 0 0 0))).ctx ⟨false, false, 0⟩).any (fun c =>
      (c.t.bundle c.bi).isSome && !c.b.members.isEmpty) = true ∧
    (let s := inHandler 0
     (s.ctx ⟨false, false, 0⟩).any (fun c =>
      (c.t.bundle c.bi).any (fun b => b.handler) && c.b.handler && (c.b.members.filter (fun th => !c.act.contains th)).isEmpty &&
      !(c.t.bundles.zipIdx.any (fun x => x.2 ≠ c.bi && x.1.handler)) &&
      (match c.t.halt with
       | some h => h.outer.isNone && h.stop.isSome
       | none => false))) = true := by decide +kernel
/-- A launch whose one team waits at a launch barrier, and one of which a team is saved. -/
theorem witness_launchBarrier :
    let s := withTeam [{ inside with wait := .barrier true 3 }]
    (s.saved.all (fun v => v.team.launch ≠ 0) && (s.teamsOf 0).all (fun k => (s.team k).isSome)) = true ∧ s.teamsOf 0 = [0] ∧
    (there s).allArrived true 3 = true ∧
    ({ s with saved := [{ saved0 with team := { saved0.team with launch := 0 } }] } : State).saved.any
      (fun v => v.team.launch = 0) = true := by decide +kernel
/-- A plinth with two arrays of one other view, and none free beside them. -/
theorem witness_evicts :
    let k : List Nat := arrayKeys 0
    let s := k.foldl (fun (s : State) j => s.setArray j { ast := 2, desc := 64, gen := 1 }) world
    (s.freeArrays 0).length < 1 ∧ k.headD 0 / 64 = 0 ∧ (s.array (k.headD 0)).ast = 2 ∧ (s.array (k.headD 0)).vi = 0 ∧
    1 ≤ (world.freeArrays 0).length := by decide +kernel
/-- A word that names view register 1 while a VSET of its group that fills it is parked in another bundle. -/
theorem witness_viewPending :
    let i : Instr := .ldv (mr 16 4 1 2 0 0)
    let w : DWord := (encodeWords (.vset (r 0 4 1 0 0))).headD 0
    let b : Bundle := { inside with clause := some { header := plainHeader 0 1, words := [w] }, frozen := [⟨0, 4, 0, false⟩] }
    let s := (standing i).mapTeam 0 (fun t => { t with bundles := t.bundles ++ [b] })
    (match s.specOf i with
     | some sp => (s.ctx sp.guard).any (fun c => c.viewPending sp.fields && (c.check sp).isNone && c.stalls sp)
     | none => false) = true := by decide +kernel
/-- A reply port with an entry for the group. -/
theorem witness_replyPort :
    let s := (standing (.mov (r 1 1041 0 0 0))).mapTeam 0 (fun t => { t with replies := [(17, 0, [(0, 5)])] })
    (s.ctx ⟨false, false, 0⟩).any (fun c =>
      (c.t.replies.filter (fun r => r.1 = 1041 - 1024 && r.2.1 = c.t.groupOf 0)).length = 1) = true := by decide +kernel

/-! ### Completions and plinths -/

/-- A word whose entry goes to a pipe, which another alcove has used later in the cycle, or has not. -/
theorem witness_pipeCompletion :
    let w : CWord := { word0 with pipe := some 3, writes := [⟨0, 1027, 7, false⟩] }
    let s := { withTeam [inside] with words := [w] }
    (s.word 5 = some w ∧ s.team 0 = some (there s) ∧ w.writes.all (fun x => isPipe x.reg) = true ∧ s.stores = []) ∧
    (let u := withTeam [inside] (fun t => { t with pipeUsed := [(3, (0, 2))] })
     (Sparse.get (there u).pipeUsed (0, 0) 3).1 = u.cycle (there u).core ∧
       w.lead % 4 + 4 * ((there u).coreOf w.lead - (there u).core) < (Sparse.get (there u).pipeUsed (0, 0) 3).2) := by
  decide +kernel
/-- A store of a handler at the bytes of one that its halt holds until the return. -/
theorem witness_heldUnder :
    let x : Trap := { trap0 with info := { trap0.info with stranded := some 0, origin := some (0, 0) } }
    let h : Halt := { trap := x, phase := .handler, mark := some 8 }
    let old : Store := { store0 with id := 6 }
    let new : Store := { store0 with id := 9, word := 8 }
    let s := { withTeam [inside] (fun t => { t with halt := some h }) with stores := [old, new] }
    let u := s.perform (there s) old
    (there s).heldStore new = false ∧ s.heldUnder (there s) new = [old] ∧ s.mayEnter (there s) old = true ∧
    s.inOrder (there s) old = true ∧ (new.threads (there s)).all (fun th => (s.untaken 0 th 8).isEmpty) = true ∧
    s.resWrites = [] ∧ u.mayCommit (there s) new = true ∧ u.inOrder (there s) new = true := by decide +kernel
/-- An acknowledgement that meets a closed gate, and one that meets an open one. -/
theorem witness_ackGate :
    let a : Ack := { id := 3, op := 9, flight := 0, entry := 0, line := 0, dies := [0] }
    let s := { withTeam [inside] with acks := [a] }
    let u := { s with parts := [] }
    s.ackGate a = true ∧ u.ackGate a = false ∧ (u.flight 0).quadOf 0 = some 0 ∧ (u.anyTeam a.team).isSome = true ∧
    u.acks.find? (fun a => a.id = 3 && !u.ackGate a) = some a ∧ u.landing = [] := by decide +kernel
/-- XPROG whose read of the view comes behind an acquiring atomic of its thread. -/
theorem witness_behind :
    let v : View := { image := image0, fourth := 1 }
    let o : Op := { op0 (.xprog 1 v [0] 0) with lanes := [0] }
    let st : Store := { store0 with id := 3, rmw := some { aop := 0, operand := 1, acquire := some 3 } }
    let s := { withTeam [inside] with ops := [o], stores := [st] }
    (s.sharing v 0).any (fun x => x.lanes.any (fun th => s.acquiring x.team th x.id)) = true ∧
    ({ s with stores := [] } : State).acquiring 0 0 9 = false := by decide +kernel

/-! ### Flights and pages -/

/-- A flight with a frame on both its steps; its head with a store that is not applied. -/
theorem witness_applied :
    let f : Flight := { valid := true, steps := packSteps [(1, 0, 0), (1, 1, 0)], pmap := 0x7F0010000, npage := 1 }
    let s : State := { world with flights := [(0, f)]
                                  mem := world.mem.writeLE (f.entryAddr 0) 8 (0x80000001 + 0x80000002 * 2 ^ 32) }
    let y : Flying := { flying0 with id := 8, applied := false }
    let u : State := { s with landing := [y] }
    (s.chainAddr f 0 0 0).isSome = true ∧ flying0.offsets.Nodup ∧ s.headTakes flying0 = true ∧ s.passesHead flying0 = true ∧
    u.headTakes flying0 = false ∧ u.passesHead flying0 = false ∧ s.entryFrame f 0 1 = some 2 ∧
    ((s.entryFrames f 0).length = 2 ∧ (s.frame (frameKey 4 2)).pins = 0) := by decide +kernel
/-- A join that the tail still owes a store; stores that wait at the predecessor of a drained tail. -/
theorem witness_owed :
    let f : Flight := { valid := true, steps := packSteps [(1, 0, 0), (2, 1, 0)] }
    let y : Flying := { flying0 with applied := true }
    f.joiner = some (2, 1, 0) ∧ f.npage ≤ f.copypos ∧ f.isTailDie 0 = true ∧
    ({ world with flights := [(0, f)], landing := [y] } : State).landing.any (fun y => y.applied && f.isTailDie y.die) = true ∧
    (let g : Flight := { valid := true, steps := packSteps [(1, 0, 0)] }
     let s : State := { world with flights := [(0, g)], landing := [y] }
     s.landing.find? (fun z => z.die = 0 && z.flight = 0) = some y ∧ s.mayPass y = true) := by decide +kernel
theorem witness_framesCopied : world.mem.wf = true ∧ world.pool.wf = true ∧ world.hostMem.wf = true ∧ (65536 : Nat) % 65536 = 0 := by
  decide +kernel
/-- A shared copy-on-write page of HBM, its copy in a free frame; a page of T2 that moves to a frame of HBM. -/
theorem witness_pagesMoved :
    let a := 34359541760
    let x := setBits (setBits (plainPte 3 0 0 0) 4 4 1) 3 3 0
    let s := ((world.setPart 0 { owned := true, freehead := 5 }).setPte a x).setFrame 0
      { world.frame 0 with state := 1, refs := 2, rmpart := 0, rmpa := 34359541776 }
    let s := s.setPte (a + 16) (setPteNext x a)
    let x := s.pte a
    let w := s.commitPage x
    1 < (s.pageDesc 0 x).refs ∧ pteClass x ≠ 1 ∧ pteTier x = 0 ∧
    (w.storesOn x || w.loadsOn x || w.projsOn x || w.flyingOn x || w.pinFull (w.pagePins 0 x)) = false ∧
    (w.takeFrame 0 0 0).any (fun r => r.1 = 5 && r.1 ≠ pteLoc x) = true ∧ a % 16 = 0 ∧
    a / 65536 ≠ frameBase 0 0 5 / 65536 ∧ w.pte a = x ∧ 1 < (w.frame 0).refs ∧
    (let far := ({ world with vis := [(0, ⟨0, 0, 0x7F0000100, 1⟩)] } : State).setPte a (plainPte 3 0 2 0)
     let y := far.pte a
     pteTier y = 2 ∧ (far.commitPage y).storesOn y = false ∧ (far.commitPage y).pinFull [pinId 0 (pteBase y)] = false ∧
       ((far.commitPage y).takeFrame 0 0 0).any (fun r => r.1 < 524288) = true) := by decide +kernel
/-- A move whose source is still migrating, and one whose source was unmapped meanwhile; a residency fault of a clause fetch,
and one on a die that switches its firmware. -/
theorem witness_moveEnds :
    let m : Move := ⟨0, 0, 1, 0, 0, 2⟩
    let s := ((world.setFrame 1 { world.frame 1 with state := 3, pins := 1, refs := 1, rmpa := 34359541760 })).setFrame 2
      { world.frame 2 with state := 3, pins := 1 }
    (s.desc 0 m.tier m.home m.loc).state = 3 ∧
    ((world.setFrame 1 { world.frame 1 with state := 2, pins := 1 }).desc 0 m.tier m.home m.loc).state ≠ 3 ∧
    (let b : Bundle := { atHeader with wait := .fetchReplay 0x1000 }
     let u := { withTeam [b] with vis := [(0, ⟨0, 0, 0x7F0000100, 1⟩)] }
     let far := u.setPte 34359541760 (plainPte 3 0 2 0)
     b.wait = .fetchReplay 0x1000 ∧ (there far).mayGiveUp b = true ∧ (far.die 0).switching = false ∧
       ((far.setDie 0 { switching := true }).die 0).switching = true ∧
       (match far.parkedCheck (there far) b 0x1000 false with
        | .replay k => k = 0x12
        | _ => false) = true ∧
       (match u.parkedCheck (there u) b 0x1000 false with
        | .replay _ => false
        | _ => true) = true ∧ u.replaysFirst (there u) b 0x1000 = false) := by decide +kernel

/-! ### Records, requests and the window -/

/-- TAIL that can no longer be written, and records for a queue that could not be used. -/
theorem witness_tailFails :
    let s := withTeam [inside]
    let t : Team := { there s with ctx := 0x7F0000080 }
    s.deviceOwes = false ∧
    (match s.flushT1.ctxWrite t.ctx 0 0 8 (bytesLE 4 1) with
     | .fail .. => true
     | _ => false) = true ∧
    ({ trap := trap0, phase := .stopping, posted := .records none } : Halt).posted = .records none := by decide +kernel
/-- A team that has arrived at its YIELD words, with a request. -/
theorem witness_arrived : let s := withTeam [{ inside with wait := .yield }] (fun t => { t with yieldreq := true })
    (there s).arrived = true ∧ (there s).decidable = true ∧ (there s).bundles.length = 1 := by decide +kernel
/-- A page that a window reaches; one without the permission, one that is not mapped, one that migrates. -/
theorem witness_window :
    let a := 34359541760
    let place (s : State) (write : Bool) : Nat := match s.windowPlace 0 ctx0 0 8 write with
      | .reached .. => 0
      | .not _ => 1
      | .wait _ => 2
    let x := world.pte a
    place world false = 0 ∧ place world true = 0 ∧ place (world.setPte a (setBits x 3 3 0)) true = 1 ∧
    place (world.setPte a 0) false = 1 ∧ world.leaf ctx0 0 = some a ∧ world.ctxDefined ctx0 = true ∧
    place ((world.touchPage ctx0 0 0).setFrame 0 { world.frame 0 with state := 3, refs := 1 }) true = 2 ∧
    place ((world.setPte a (setBits (setBits x 4 4 1) 3 3 0)).setFrame 0 { world.frame 0 with state := 1, refs := 1 }) true = 0 := by
  decide +kernel

end Sys2Proof.Tests
end

section
/-! SUPPORT. General words with integer sources: what issuing one does, and when it traps (R67, R83, R180). -/
namespace Sys2Proof.Machine

/-! ### The effect of a word, from what its computation gives -/

theorem does_intSpec2 {i : Instr} {op : Nat} {w : RWord} {f : Word → Word → Word} {res : Ctx → Nat → Res}
    (hs : ∀ s : State, s.specOf i = some (intSpec2 i op w f))
    (hr : ∀ c th, wordRes (f (c.x th w.a) (c.x th w.b)) = res c th) : Does i (fun c => c.put w.d [w.a, w.b] (res c)) :=
  does_run _ hs fun c => by rw [← funext (hr c)]; rfl

theorem does_intSpec1 {i : Instr} {op : Nat} {w : RWord} {f : Word → Word} {res : Ctx → Nat → Res}
    (hs : ∀ s : State, s.specOf i = some (intSpec1 i op w f))
    (hr : ∀ c th, wordRes (f (c.x th w.a)) = res c th) : Does i (fun c => c.put w.d [w.a] (res c)) :=
  does_run _ hs fun c => by rw [← funext (hr c)]; rfl

theorem does_intSpec3 {i : Instr} {op : Nat} {w : RWord} {f : Word → Word → Word → Word} {res : Ctx → Nat → Res}
    (hs : ∀ s : State, s.specOf i = some (intSpec3 i op w f))
    (hr : ∀ c th, wordRes (f (c.x th w.a) (c.x th w.b) (c.x th w.c)) = res c th) :
    Does i (fun c => c.put w.d [w.a, w.b, w.c] (res c)) :=
  does_run _ hs fun c => by rw [← funext (hr c)]; rfl

theorem wordRes_ofInt (x : Int) : wordRes (BitVec.ofInt 32 x) = intRes x := rfl

theorem wordRes_ofNat (n : Nat) : wordRes (BitVec.ofNat 32 n) = intRes n := by
  rw [← wordRes_ofInt, BitVec.ofInt_natCast]

/-! ### The traps of a word's own checks (R179, step 8) -/

@[simp] theorem Ctx.dry_nil (c : Ctx) : c.dry [] = false := by simp [Ctx.dry, Ctx.portsReady, portsOf, sortUp]

theorem Ctx.tags_one (c : Ctx) (th : Nat) (n : BitVec 11) (h : c.tg th n = false) : c.tags th n.toNat 1 = false := by
  simp only [Ctx.tg] at h
  simp [Ctx.tags, upFrom, h]

/-- Sources without a tag in any active lane pass the bounded-operand check (R67). -/
theorem tagsOf_eq_none {c : Ctx} {fs : List (Nat × BitVec 11)}
    (h : ∀ f ∈ fs, ∀ th ∈ c.act, c.tg th f.2 = false) : tagsOf fs c = none := by
  have hfind : (fs.map (fun f => (f.1, f.2.toNat, 1))).find?
      (fun f => c.act.any (fun th => c.tags th f.2.1 f.2.2)) = none := by
    simpa using fun a b hf th hth => c.tags_one th b (h (a, b) hf th hth)
  simp only [tagsOf, Ctx.tagTrap, hfind]

/-- An untagged result can trap for one thing alone: a reserved bit into %fctl or %fstat (R83). -/
theorem Ctx.writeTrap_cases (c : Ctx) (d : Nat) {res : Nat → Res} (h : ∀ th, (res th).tag = false) :
    c.writeTrap d res = none ∨ (d = 1105 ∨ d = 1106) ∧
      c.writeTrap d res = some (c.trap 0x03 (Field.info ⟨0, d, .dst⟩)) := by
  unfold Ctx.writeTrap
  simp only [h, Bool.false_eq_true, List.filter_false, List.isEmpty_nil, Bool.not_true, Bool.and_false, if_false]
  split
  · simp_all
  · split
    · simp_all
    · exact .inl rfl

/-- The same where a source may still lack its entry (R107), and no field chooses the source. -/
theorem Ctx.resultTrap_cases (c : Ctx) (srcs : List Nat) (d : Nat) {res : Nat → Res} (h : ∀ th, (res th).tag = false) :
    c.resultTrap srcs [] d res = none ∨ (d = 1105 ∨ d = 1106) ∧
      c.resultTrap srcs [] d res = some (c.trap 0x03 (Field.info ⟨0, d, .dst⟩)) := by
  unfold Ctx.resultTrap
  simp only [Ctx.dry_nil, Bool.false_eq_true, if_false]
  split
  · exact c.writeTrap_cases d h
  · exact c.writeTrap_cases d h

/-- The own checks of a word with two untagged integer sources, whatever it computes (R67, R83). -/
theorem intSpec2_own_cases (i : Instr) (op : Nat) (w : RWord) (f : Word → Word → Word) {c : Ctx}
    (h : ∀ th, th ∈ c.act → c.tg th w.a = false ∧ c.tg th w.b = false) :
    (intSpec2 i op w f).own c = none ∨ (w.d.toNat = 1105 ∨ w.d.toNat = 1106) ∧
      (intSpec2 i op w f).own c = some (c.trap 0x03 (Field.info ⟨0, w.d.toNat, .dst⟩)) := by
  have htags : tagsOf [(1, w.a), (2, w.b)] c = none := tagsOf_eq_none (by
    intro x hx th hth
    obtain ⟨ha, hb⟩ := h th hth
    simp only [List.mem_cons, List.not_mem_nil, or_false] at hx
    rcases hx with rfl | rfl
    · exact ha
    · exact hb)
  simp only [intSpec2, genSpec, htags]
  exact c.resultTrap_cases _ _ fun _ => rfl

/-- A word with two untagged integer sources passes its own checks, but that of reserved bits (R83). -/
theorem intSpec2_no_trap (i : Instr) (op : Nat) (w : RWord) (f : Word → Word → Word) {c : Ctx}
    (h : ∀ th, th ∈ c.act → c.tg th w.a = false ∧ c.tg th w.b = false) :
    (intSpec2 i op w f).policy c = none ∧ (intSpec2 i op w f).access c = .pass ∧
      (w.d ≠ 1105 → w.d ≠ 1106 → (intSpec2 i op w f).own c = none) ∧
      ∀ x, (intSpec2 i op w f).own c = some x → x.cause = 0x03 := by
  refine ⟨rfl, rfl, fun h1 h2 => ?_, fun x hx => ?_⟩
  · rcases intSpec2_own_cases i op w f h with hn | ⟨hd, -⟩
    · exact hn
    · rcases hd with hd | hd
      · exact absurd (BitVec.eq_of_toNat_eq hd) h1
      · exact absurd (BitVec.eq_of_toNat_eq hd) h2
  · rcases intSpec2_own_cases i op w f h with hn | ⟨-, hs⟩
    · rw [hn] at hx; cases hx
    · rw [hs] at hx; cases hx; rfl

/-! ### Division (R187) -/

theorem toNat_cast_eq_zero {n : Nat} (b : BitVec n) : (b.toNat : Int) = 0 ↔ b = 0 := by
  simp [BitVec.toNat_eq]

theorem idiv_cases (u : Bool) (a b : Word) : wordRes (idiv u a b) =
    if (b.toNat : Int) = 0 then wordRes 0xFFFFFFFF
    else if u then intRes (a.toNat / b.toNat)
    else if a.toInt = -2 ^ 31 ∧ b.toInt = -1 then wordRes 0x80000000
    else intRes (Int.tdiv a.toInt b.toInt) := by
  simp only [idiv, toNat_cast_eq_zero]
  split
  · rfl
  · split
    · rw [wordRes_ofNat, Int.natCast_ediv]
    · split
      · rename_i h; rw [h.1, h.2]; exact congrArg wordRes (by decide)
      · rfl

theorem irem_cases (u : Bool) (a b : Word) : wordRes (irem u a b) =
    if (b.toNat : Int) = 0 then wordRes a
    else if u then intRes (a.toNat % b.toNat)
    else if a.toInt = -2 ^ 31 ∧ b.toInt = -1 then intRes 0
    else intRes (a.toInt - b.toInt * Int.tdiv a.toInt b.toInt) := by
  simp only [irem, toNat_cast_eq_zero]
  split
  · rfl
  · split
    · rw [wordRes_ofNat, Int.natCast_emod]
    · split
      · rename_i h; rw [h.1, h.2]; exact congrArg wordRes (by decide)
      · rfl

end Sys2Proof.Machine

open Sys2Proof Sys2Proof.Machine

/-- Settles O3: each word computes the table of R187, and its own checks see only tags and reserved bits. -/
theorem division : Obligations.Division := by
  intro w
  refine ⟨does_intSpec2 (fun _ => rfl) fun c th => ?_, does_intSpec2 (fun _ => rfl) fun c th => ?_, ?_⟩
  · simp only [idiv_cases, decide_eq_true_eq]; rfl
  · simp only [irem_cases, decide_eq_true_eq]; rfl
  · rintro i s sp c (rfl | rfl) hst hact
    · obtain rfl := Option.some.inj hst.spec
      exact intSpec2_no_trap _ _ w _ hact
    · obtain rfl := Option.some.inj hst.spec
      exact intSpec2_no_trap _ _ w _ hact

end

section
/-! SUPPORT. The forms of the bit words (R178, R190, R192), and what shifts and bit fields compute, over integers. -/
namespace Sys2Proof

/-- What a word's form asks: zero in the fields it does not use, and a listed M (R178). -/
theorem RWord.only_iff (w : RWord) (d a b c : Bool) (m : List Nat) : w.only d a b c m = true ↔
    (d = true → w.d = 0) ∧ (a = true → w.a = 0) ∧ (b = true → w.b = 0) ∧ (c = true → w.c = 0) ∧ w.m.toNat ∈ m := by
  simp only [RWord.only, Bool.and_eq_true, Bool.or_eq_true, Bool.not_eq_true', beq_iff_eq, List.contains_iff_mem,
    and_assoc, ← imp_iff_not_or, ← Bool.not_eq_true]

theorem RWord.m_toNat_eq_zero (w : RWord) : w.m.toNat = 0 ↔ w.m = 0 := BitVec.toNat_inj (y := 0)

theorem RWord.m_toNat_eq_one (w : RWord) : w.m.toNat = 1 ↔ w.m = 1 := BitVec.toNat_inj (y := 1)

/-- The form of a word with two sources and no other M than 0. -/
theorem RWord.only_c (w : RWord) : w.only false false false true [0] = true ↔ w.m = 0 ∧ w.c = 0 := by
  simp [RWord.only_iff, w.m_toNat_eq_zero, and_comm]

/-- The same with a second meaning under M = 1. -/
theorem RWord.only_c_or (w : RWord) :
    w.only false false false true [0, 1] = true ↔ (w.m = 0 ∨ w.m = 1) ∧ w.c = 0 := by
  simp [RWord.only_iff, w.m_toNat_eq_zero, w.m_toNat_eq_one, and_comm]

/-- The form of a word with one source. -/
theorem RWord.only_b_c (w : RWord) :
    w.only false false true true [0] = true ↔ w.m = 0 ∧ w.b = 0 ∧ w.c = 0 := by
  simp [RWord.only_iff, w.m_toNat_eq_zero, and_left_comm, and_comm]

/-- The forms of words with three sources, of one meaning and of two. -/
theorem RWord.only_none (w : RWord) : w.only false false false false [0] = true ↔ w.m = 0 := by
  simp [RWord.only_iff, w.m_toNat_eq_zero]

theorem RWord.only_none_or (w : RWord) : w.only false false false false [0, 1] = true ↔ w.m = 0 ∨ w.m = 1 := by
  simp [RWord.only_iff, w.m_toNat_eq_zero, w.m_toNat_eq_one]

end Sys2Proof

namespace Sys2Proof.Machine

/-! ### Shifts (R190) -/

theorem shl_cases (a b : Word) : wordRes (shl a b) =
    if (32 : Int) ≤ b.toNat then intRes 0 else intRes (a.toNat * 2 ^ b.toNat) := by
  have hval : a <<< b.toNat = BitVec.ofNat 32 (a.toNat * 2 ^ b.toNat) := by
    rw [← BitVec.toNat_inj, BitVec.toNat_shiftLeft, Nat.shiftLeft_eq, BitVec.toNat_ofNat]
  simp only [shl, Nat.ofNat_le_cast]
  split
  · rfl
  · rw [hval, wordRes_ofNat, Int.natCast_mul, Int.natCast_pow]; rfl

theorem shr_logical_cases (a b : Word) : wordRes (shr false a b) =
    if (32 : Int) ≤ b.toNat then intRes 0 else intRes (a.toNat / 2 ^ b.toNat) := by
  have hval : a >>> b.toNat = BitVec.ofNat 32 (a.toNat / 2 ^ b.toNat) := by
    rw [← Nat.shiftRight_eq_div_pow, ← BitVec.toNat_ushiftRight, BitVec.ofNat_toNat, BitVec.setWidth_eq]
  simp only [shr, Bool.false_eq_true, if_false, Nat.ofNat_le_cast]
  split
  · rfl
  · rw [hval, wordRes_ofNat, Int.natCast_ediv, Int.natCast_pow]; rfl

/-- From bit 31 on, dividing a 32-bit integer by a power of two leaves its sign. -/
theorem toInt_ediv_two_pow_of_le (a : Word) {n : Nat} (h : 31 ≤ n) :
    a.toInt / 2 ^ n = if a.toInt < 0 then -1 else 0 := by
  have hpow : (2 : Int) ^ 31 ≤ 2 ^ n := pow_le_pow_right₀ (by omega) h
  have hlo := BitVec.le_toInt a
  have hhi := BitVec.toInt_lt (x := a)
  simp only [Nat.reduceSub] at hlo hhi
  split
  · exact Int.ediv_eq_neg_one_of_neg_of_le (by omega) (by omega)
  · exact Int.ediv_eq_zero_of_lt (by omega) (by omega)

/-- The arithmetic shift of the model divides by the power of two, rounded down, for a count of every size. -/
theorem toInt_sshiftRight_min (a : Word) (n : Nat) : (a.sshiftRight (min n 31)).toInt = a.toInt / 2 ^ n := by
  rw [BitVec.toInt_sshiftRight, Int.shiftRight_eq_div_pow, Int.natCast_pow, Nat.cast_ofNat]
  rcases Nat.le_total n 31 with h | h
  · rw [Nat.min_eq_left h]
  · rw [Nat.min_eq_right h, toInt_ediv_two_pow_of_le a h, toInt_ediv_two_pow_of_le a (Nat.le_refl 31)]

theorem shr_arith_cases (a b : Word) : wordRes (shr true a b) =
    if (32 : Int) ≤ b.toNat then intRes (if a.toInt < 0 then -1 else 0) else intRes (a.toInt / 2 ^ b.toNat) := by
  have hval : shr true a b = BitVec.ofInt 32 (a.toInt / 2 ^ b.toNat) := by
    rw [← toInt_sshiftRight_min, ofInt_toInt]; rfl
  rw [hval, wordRes_ofInt]
  split
  · rw [toInt_ediv_two_pow_of_le a (by omega)]
  · rfl

/-! ### Counts (R190) -/

theorem popc_result (a : Word) :
    wordRes (popc a) = intRes (((List.range 32).filter a.getLsbD).length : Int) := by
  rw [popc_eq, wordRes_ofNat]

theorem clz_result (a : Word) :
    wordRes (clz a) = intRes (if a = 0 then 32 else 31 - (Nat.log2 a.toNat : Int)) := by
  rw [clz_eq, wordRes_ofInt]

/-! ### Bit fields (R192) -/

/-- The low bits of a word, as a signed integer, are those of its signed value. -/
theorem sext_toNat (a : Word) {len : Nat} (h : len ≤ 32) : sext len a.toNat = Int.bmod a.toInt (2 ^ len) := by
  rw [sext, BitVec.toInt_ofNat', BitVec.toInt_eq_toNat_bmod, Int.bmod_bmod_of_dvd (Nat.pow_dvd_pow 2 h)]

theorem bfx_cases (sx : Bool) (a b c : Word) : wordRes (bfx sx a b c) =
    let pos := b.toNat % 256
    let len := min (c.toNat % 256) 32
    if len = 0 then intRes 0
    else if sx then intRes (Int.bmod (a.toInt / 2 ^ pos) (2 ^ len))
    else intRes (a.toNat / 2 ^ pos % 2 ^ len) := by
  have hlen : min (c.toNat % 256) 32 ≤ 32 := Nat.min_le_right _ _
  simp only [bfx]
  split
  · rfl
  · split
    · rw [sext_toNat _ hlen, toInt_sshiftRight_min, wordRes_ofInt]
    · rw [wordRes_ofNat, Int.natCast_emod, Int.natCast_ediv, Int.natCast_pow, Int.natCast_pow]; rfl

/-- BFI's mask and its moved field are the same numbers as integers. -/
theorem bfi_eq (a b c : Word) : bfi a b c =
    let pos := c.toNat % 256
    let len := c.toNat / 256 % 256
    let mask : Word := BitVec.ofInt 32 ((2 ^ len - 1) * 2 ^ pos)
    (b &&& ~~~mask) ||| (BitVec.ofInt 32 (a.toNat * 2 ^ pos) &&& mask) := by
  have hmask (pos len : Nat) :
      BitVec.ofInt 32 ((2 ^ len - 1) * 2 ^ pos) = BitVec.ofNat 32 ((2 ^ len - 1) * 2 ^ pos) := by
    rw [← BitVec.ofInt_natCast, Int.natCast_mul, Int.natCast_sub Nat.one_le_two_pow]; simp
  have hfield (pos : Nat) : BitVec.ofInt 32 (a.toNat * 2 ^ pos) = BitVec.ofNat 32 (a.toNat * 2 ^ pos) := by
    rw [← BitVec.ofInt_natCast, Int.natCast_mul]; simp
  simp only [bfi, hmask, hfield]

/-! ### The bit words -/

theorem bitWord_forms (w : RWord) :
    (∀ i, i ∈ [Instr.and w, .or w, .xor w, .andn w, .shl w] → (formOk i = true ↔ w.m = 0 ∧ w.c = 0)) ∧
    (∀ i, i ∈ [Instr.shr w, .rot w] → (formOk i = true ↔ (w.m = 0 ∨ w.m = 1) ∧ w.c = 0)) ∧
    (∀ i, i ∈ [Instr.popc w, .clz w, .brev w] → (formOk i = true ↔ w.m = 0 ∧ w.b = 0 ∧ w.c = 0)) ∧
    (formOk (.bfx w) = true ↔ w.m = 0 ∨ w.m = 1) ∧ (formOk (.bfi w) = true ↔ w.m = 0) := by
  refine ⟨fun i hi => ?_, fun i hi => ?_, fun i hi => ?_, w.only_none_or, w.only_none⟩
  · simp only [List.mem_cons, List.not_mem_nil, or_false] at hi
    rcases hi with rfl | rfl | rfl | rfl | rfl <;> exact w.only_c
  · simp only [List.mem_cons, List.not_mem_nil, or_false] at hi
    rcases hi with rfl | rfl <;> exact w.only_c_or
  · simp only [List.mem_cons, List.not_mem_nil, or_false] at hi
    rcases hi with rfl | rfl | rfl <;> exact w.only_b_c

/-- BITF3 checks and reads its old D as a fourth source (R191). -/
theorem does_bitf3 (w : RWord) : Does (.bitf3 w) (fun c => c.put w.d [w.a, w.b, w.c] (fun th =>
    wordRes (bitf3 (c.x th w.c) (c.x th w.a) (c.x th w.b) (c.x th w.d)))) :=
  does_run (bitf3Spec w) (fun _ => rfl) fun _ => rfl

theorem does_shr (w : RWord) : Does (.shr w) (fun c => c.put w.d [w.a, w.b] (fun th =>
    if w.m = 1 then
      (if 32 ≤ c.u th w.b then intRes (if c.i th w.a < 0 then -1 else 0)
       else intRes (c.i th w.a / 2 ^ (c.x th w.b).toNat))
    else if 32 ≤ c.u th w.b then intRes 0 else intRes (c.u th w.a / 2 ^ (c.x th w.b).toNat))) := by
  refine does_intSpec2 (fun _ => rfl) fun c th => ?_
  by_cases hm : w.m = 1
  · rw [if_pos hm, decide_eq_true hm, shr_arith_cases]; rfl
  · rw [if_neg hm, decide_eq_false hm, shr_logical_cases]; rfl

end Sys2Proof.Machine

open Sys2Proof Sys2Proof.Machine

/-- Settles O4: the forms are those of `bitWord_forms`; each word's computation is said bit by bit or over integers. -/
theorem bitWords : Obligations.BitWords := by
  refine ⟨fun w => ⟨rfl, bitWord_forms w⟩, fun w => ⟨?and, ?or, ?xor, ?andn, bitf3, bitf3_getLsbD, does_bitf3 w⟩,
    fun w => ⟨?shl, does_shr w, rot (w.m = 1), fun a b i hi => ?rotBits, ?rot⟩,
    fun w => ⟨?popc, ?clz, brev, brev_getLsbD, ?brev⟩, fun w => ⟨?bfx, ?bfi⟩⟩
  case and | or | xor | andn | rot => exact does_intSpec2 (fun _ => rfl) fun _ _ => rfl
  case rotBits => simpa only [decide_eq_true_eq] using rot_getLsbD (w.m = 1) a b i hi
  case shl => exact does_intSpec2 (fun _ => rfl) fun c th => shl_cases (c.x th w.a) (c.x th w.b)
  case popc => exact does_intSpec1 (fun _ => rfl) fun c th => popc_result (c.x th w.a)
  case clz => exact does_intSpec1 (fun _ => rfl) fun c th => clz_result (c.x th w.a)
  case brev => exact does_intSpec1 (fun _ => rfl) fun _ _ => rfl
  case bfx =>
    refine does_intSpec3 (fun _ => rfl) fun c th => ?_
    simp only [bfx_cases, decide_eq_true_eq]; rfl
  case bfi =>
    exact does_intSpec3 (fun _ => rfl) fun c th => congrArg wordRes (bfi_eq (c.x th w.a) (c.x th w.b) (c.x th w.c))

end

section
/-! SUPPORT. Words of FLT that check tags of their own (R67, R83), the order of exact values, and the scale
search (R212). -/
namespace Sys2Proof

/-- The form of a word with two sources and the meanings M = 0, 1 and 2. -/
theorem RWord.only_c_of_three (w : RWord) : w.only false false false true [0, 1, 2] = true ↔ w.m ≠ 3 ∧ w.c = 0 := by
  have hm : w.m.toNat ∈ [0, 1, 2] ↔ w.m ≠ 3 := by
    rw [ne_eq, ← BitVec.toNat_inj]
    have := w.m.isLt
    simp only [List.mem_cons, List.not_mem_nil, or_false, BitVec.reduceToNat]
    omega
  simp [RWord.only_iff, hm, and_comm]

end Sys2Proof

namespace Sys2Proof.Machine

/-! ### The traps of a FLT word's own checks (R179, step 8) -/

/-- The bounded-operand check finds something just where a field of it is tagged in an active lane (R67). -/
theorem tagsOf_isSome {c : Ctx} {fs : List (Nat × BitVec 11)} :
    (tagsOf fs c).isSome = true ↔ ∃ f ∈ fs, ∃ th ∈ c.act, c.tags th f.2.toNat 1 = true := by
  have hfind : (tagsOf fs c).isSome = ((fs.map (fun f => (f.1, f.2.toNat, 1))).find?
      (fun f => c.act.any (fun th => c.tags th f.2.1 f.2.2))).isSome := by
    unfold tagsOf Ctx.tagTrap
    split <;> simp [*]
  simp [hfind]

theorem tagsOf_cause {c : Ctx} {fs : List (Nat × BitVec 11)} {x : TrapInfo} (h : tagsOf fs c = some x) :
    x.cause = 0x09 := by
  unfold tagsOf Ctx.tagTrap at h
  split at h <;> cases h
  rfl

section
variable {i : Instr} {op : Nat} {guard : Guard} {d : BitVec 11} {srcs : List (BitVec 11)} {fields : List Field}
  {own : Ctx → Option TrapInfo} {res : Ctx → Nat → Res} {c : Ctx}

theorem fltSpec_own_of_some {x : TrapInfo} (h : own c = some x) :
    (fltSpec i op guard d srcs fields own res).own c = some x := by
  simp only [fltSpec, h]

/-- A FLT word whose entry's own checks pass, and whose result carries no tag, can trap for reserved bits alone (R83). -/
theorem fltSpec_own_of_none (h : own c = none) (htag : ∀ th, (res c th).tag = false) :
    (d ≠ 1105 → d ≠ 1106 → (fltSpec i op guard d srcs fields own res).own c = none) ∧
      ∀ x, (fltSpec i op guard d srcs fields own res).own c = some x → x.cause = 0x03 := by
  have hown : (fltSpec i op guard d srcs fields own res).own c =
      c.resultTrap (srcs.map BitVec.toNat) [] d.toNat (res c) := by
    simp only [fltSpec, h]
  rw [hown]
  rcases c.resultTrap_cases (srcs.map BitVec.toNat) d.toNat htag with hn | ⟨hd, hs⟩
  · exact ⟨fun _ _ => hn, fun x hx => by rw [hn] at hx; cases hx⟩
  · refine ⟨fun h1 h2 => ?_, fun x hx => by rw [hs] at hx; cases hx; rfl⟩
    rcases hd with hd | hd
    · exact absurd (BitVec.eq_of_toNat_eq hd) h1
    · exact absurd (BitVec.eq_of_toNat_eq hd) h2

end

/-! ### The order of exact values -/

/-- The rational number that a mantissa and an exponent stand for. -/
def Dy.rat (x : Dy) : ℚ := x.n * 2 ^ x.e

theorem Dy.rat_mk (n e : Int) : Dy.rat ⟨n, e⟩ = n * 2 ^ e := rfl

/-- Moving bits of an exponent into the mantissa keeps the value. -/
theorem Dy.rat_lower (n : Int) {e f : Int} (h : f ≤ e) : Dy.rat ⟨n * 2 ^ (e - f).toNat, f⟩ = Dy.rat ⟨n, e⟩ := by
  have hpow : (2 : ℚ) ^ (e - f).toNat * 2 ^ f = 2 ^ e := by
    rw [← zpow_natCast, ← zpow_add₀ two_ne_zero, Int.toNat_of_nonneg (by omega), sub_add_cancel]
  simp only [Dy.rat_mk]
  push_cast
  rw [mul_assoc, hpow]

theorem Dy.rat_add_mk (m n e : Int) : Dy.rat ⟨m + n, e⟩ = Dy.rat ⟨m, e⟩ + Dy.rat ⟨n, e⟩ := by
  simp only [Dy.rat_mk]
  push_cast
  ring

theorem Dy.rat_add (x y : Dy) : (x.add y).rat = x.rat + y.rat := by
  unfold Dy.add
  split
  · rename_i h; rw [Dy.rat_add_mk, Dy.rat_lower _ h]
  · rename_i h; rw [Dy.rat_add_mk, Dy.rat_lower _ (by omega)]

theorem Dy.rat_nonpos (x : Dy) : x.rat ≤ 0 ↔ x.n ≤ 0 := by
  have hpos : (0 : ℚ) < 2 ^ x.e := by positivity
  rw [Dy.rat, ← zero_mul ((2 : ℚ) ^ x.e), mul_le_mul_iff_of_pos_right hpos, Int.cast_nonpos]

theorem Dy.le_iff (x y : Dy) : Dy.le x y = true ↔ x.rat ≤ y.rat := by
  have hneg : Dy.rat ⟨-y.n, y.e⟩ = -y.rat := by simp [Dy.rat]
  rw [Dy.le, decide_eq_true_iff, ← Dy.rat_nonpos, Dy.rat_add, hneg, ← sub_eq_add_neg, sub_nonpos]

/-! ### The scale search (R212) -/

/-- A magnitude fits under a scale exponent where its scaled value is at most the limit F of the format (R212). -/
theorem fitsScale_iff {fmt m : Nat} {e E : Int} : fitsScale fmt ⟨m, e⟩ E = true ↔
    (m : ℚ) * 2 ^ e * 2 ^ (-E) ≤ if fmt = 0 then 448 else if fmt = 1 then 57344 else 0x1AE89FA / 2 ^ 21 := by
  rw [fitsScale, Dy.le_iff, Dy.rat_mk, sub_eq_add_neg, zpow_add₀ two_ne_zero, ← mul_assoc]
  have hlimit : Dy.rat (if fmt = 0 then ⟨448, 0⟩ else if fmt = 1 then ⟨57344, 0⟩ else ⟨0x1AE89FA, -21⟩) =
      if fmt = 0 then 448 else if fmt = 1 then 57344 else 0x1AE89FA / 2 ^ 21 := by
    split_ifs <;> norm_num [Dy.rat]
  rw [hlimit]; rfl

theorem leastScale_bounds (fmt : Nat) (a : Dy) (k : Nat) :
    127 - (k : Int) ≤ leastScale fmt a k ∧ leastScale fmt a k ≤ 127 := by
  induction k with
  | zero => simp [leastScale]
  | succ k ih =>
    simp only [leastScale]
    split <;> omega

theorem leastScale_fits_or (fmt : Nat) (a : Dy) (k : Nat) :
    fitsScale fmt a (leastScale fmt a k) = true ∨ leastScale fmt a k = 127 := by
  induction k with
  | zero => exact .inr rfl
  | succ k ih =>
    simp only [leastScale]
    split
    · rename_i hfits; exact .inl hfits
    · exact ih

/-- No exponent that the search has passed over fits. -/
theorem not_fitsScale_of_lt_leastScale {fmt : Nat} {a : Dy} {k : Nat} {E : Int} (hE : 127 - (k : Int) ≤ E)
    (hlt : E < leastScale fmt a k) : ¬ fitsScale fmt a E = true := by
  induction k with
  | zero => simp only [leastScale] at hlt; omega
  | succ k ih =>
    simp only [leastScale] at hlt
    split at hlt
    · omega
    · rename_i hno
      by_cases hfirst : E = 126 - (k : Int)
      · rw [hfirst]; exact hno
      · exact ih (by omega) hlt

/-- The whole search: the least exponent of the range that fits, or 127 where none does. -/
theorem leastScale_spec (fmt : Nat) (a : Dy) :
    (fitsScale fmt a (leastScale fmt a 255) = true ∨
      (leastScale fmt a 255 = 127 ∧ ∀ E : Int, -128 ≤ E → E ≤ 127 → ¬ fitsScale fmt a E = true)) ∧
    ∀ E : Int, -128 ≤ E → E < leastScale fmt a 255 → ¬ fitsScale fmt a E = true := by
  have hbelow (E : Int) (hlo : -128 ≤ E) (hlt : E < leastScale fmt a 255) : ¬ fitsScale fmt a E = true :=
    not_fitsScale_of_lt_leastScale (by omega) hlt
  refine ⟨or_iff_not_imp_left.mpr fun hno => ?_, hbelow⟩
  have htop := (leastScale_fits_or fmt a 255).resolve_left hno
  refine ⟨htop, fun E hlo hhi => ?_⟩
  rcases hhi.lt_or_eq with hlt | rfl
  · exact hbelow E hlo (htop ▸ hlt)
  · exact htop ▸ hno

section
variable {a : Nat} {b : Int} (fmt : Nat)

theorem bsmax_nan {s : Bool} (h : Fmt.fp32.decode a = .nan s) : bsmax fmt a b = max (-128) (clampScale b) := by
  simp only [bsmax, h]

theorem bsmax_inf {s : Bool} (h : Fmt.fp32.decode a = .inf s) : bsmax fmt a b = max 127 (clampScale b) := by
  simp only [bsmax, h]

theorem bsmax_fin {s : Bool} {m : Nat} {e : Int} (h : Fmt.fp32.decode a = .fin s m e) :
    bsmax fmt a b = max (if m = 0 then -128 else leastScale fmt ⟨m, e⟩ 255) (clampScale b) := by
  simp only [bsmax, h]

end

/-! ### The word -/

theorem does_bsmax (w : RWord) : Does (.bsmax w) (fun c => c.putFlt w.d [w.a, w.b] (fun th =>
    intRes (bsmax w.m.toNat (c.x th w.a).toNat (c.i th w.b)))) :=
  does_run (bsmaxSpec w) (fun _ => rfl) fun _ => rfl

/-- BSMAX checks the tag of B and never that of A. -/
theorem bsmaxSpec_own (w : RWord) (c : Ctx) :
    ((∀ th, th ∈ c.act → c.tags th w.b.toNat 1 = false) →
      (w.d ≠ 1105 → w.d ≠ 1106 → (bsmaxSpec w).own c = none) ∧ ∀ x, (bsmaxSpec w).own c = some x → x.cause = 0x03) ∧
    ((∃ th, th ∈ c.act ∧ c.tags th w.b.toNat 1 = true) → ∃ x, (bsmaxSpec w).own c = some x ∧ x.cause = 0x09) := by
  refine ⟨fun hb => ?_, fun ⟨th, hth, hb⟩ => ?_⟩
  · refine fltSpec_own_of_none (Option.not_isSome_iff_eq_none.mp ?_) fun _ => rfl
    simpa [tagsOf_isSome] using hb
  · obtain ⟨x, hx⟩ := Option.isSome_iff_exists.mp
      (tagsOf_isSome.mpr ⟨(2, w.b), List.mem_singleton_self _, th, hth, hb⟩)
    exact ⟨x, fltSpec_own_of_some hx, tagsOf_cause hx⟩

end Sys2Proof.Machine

open Sys2Proof Sys2Proof.Machine

/-- Settles O12: the checks see the tag of B alone, and the value is that of `leastScale_spec`, over rational numbers by
`fitsScale_iff`. -/
theorem scaleSearch : Obligations.ScaleSearch := by
  refine ⟨fun w => ⟨rfl, w.only_c_of_three, does_bsmax w, fun s sp c hst => ?checks⟩, fun fmt a b _ => ?values⟩
  case checks =>
    obtain rfl := Option.some.inj hst.spec
    exact ⟨rfl, rfl, bsmaxSpec_own w c⟩
  case values =>
    refine ⟨fun s h => bsmax_nan fmt h, fun s h => bsmax_inf fmt h,
      fun s m e h => ⟨fun hm => ?zero, fun hm => ?nonzero⟩⟩
    case zero => rw [bsmax_fin fmt h, if_pos hm]; rfl
    case nonzero =>
      obtain ⟨hlo, hhi⟩ := leastScale_bounds fmt ⟨m, e⟩ 255
      refine ⟨leastScale fmt ⟨m, e⟩ 255, by rw [bsmax_fin fmt h, if_neg hm]; rfl, by omega, hhi, ?_⟩
      simpa only [fitsScale_iff] using leastScale_spec fmt ⟨m, e⟩

end
